-- ==== Sys2Proof/Word.lean ====
section
/-! DEFINITION. The word types of the ZW-P4-512L and their plainest arithmetic (R2, R3, R7). -/

namespace Sys2Proof

/-- A 64-bit scalar register or memory word. -/
abbrev Word := BitVec 64

/-- One byte of memory. -/
abbrev Byte := BitVec 8

/-- One halfword of the instruction stream (R118). -/
abbrev Half := BitVec 16

/-- A vector register: 1,024 bits (R197). -/
abbrev VWord := BitVec 1024

/-- A mask register: 128 bits (R197). -/
abbrev MWord := BitVec 128

end Sys2Proof
end

