-- ==== Sys2Proof/Fields.lean ====
section
/-! DEFINITION. The operands of instructions (R120 to R126), the messages that the device's own steps carry, and
those steps themselves as data that the state can hold. -/

namespace Sys2Proof

/-- A register field, or the frame operand f[d, s] that replaces it (R125, R126). A field that holds a
number (a tag, a depth, a level) is the register form of that number. -/
inductive Opd where
  | r (n : Fin 64)
  | f (d : Fin 8) (slot : Nat)
  deriving DecidableEq, Repr, Inhabited

/-- The assembled fields of one map instruction: Q of the PAGE prefix, fields A and B after REG and
FRAME, field C (none without a REG prefix) and the immediate after extension and scaling
(R121 to R126). -/
structure Ops where
  q : BitVec 4 := 0
  a : Opd := .r 0
  b : Opd := .r 0
  c : Option (Fin 64) := none
  imm : Int := 0
  deriving DecidableEq, Repr, Inhabited

/-- An exclusion group (R47): ASID and claim table VA. -/
structure GroupKey where
  asid : BitVec 16
  ctab : Word
  deriving DecidableEq, Repr, Inhabited

/-- A claim request or release (R50, R51): the element's local index, the mode (true for X), and the
sweep that asks, named by its package and number there. -/
structure ClaimReq where
  grp : GroupKey
  elem : Nat
  x : Bool
  node : BitVec 16
  sweep : Nat
  deriving DecidableEq, Repr, Inhabited

/-- What a home XU answers to a claim request (R46, R51). -/
inductive ClaimOutcome where
  | granted
  | badIndex
  | badEntry (va : Word)
  deriving DecidableEq, Repr, Inhabited

/-- A POST on its way to its home XU (R56): the element, the issuing region (its RCB VA and its number
on the issuing package `node`). -/
structure PostMsg where
  grp : GroupKey
  elem : Word
  rcb : Word
  region : Nat
  node : BitVec 16
  deriving DecidableEq, Repr, Inhabited

/-- An RFILL on its way to its target thread (R194, R195); `src` names the sending context when it is
of this package. -/
structure RfillMsg where
  name : BitVec 14
  inc : BitVec 16
  reg : Fin 64
  val : Word
  src : Option Nat
  deriving DecidableEq, Repr, Inhabited

/-- A counter advance (R374): lineage, counter, measurement, the sender's certificate and serial, and
the signature. -/
structure Advance where
  lineage : BitVec 128
  counter : BitVec 40
  meas : BitVec 512
  serial : BitVec 128
  cert : List Byte
  sig : List Byte
  deriving DecidableEq, Repr, Inhabited

/-- What a package-to-package request asks (R346). -/
inductive ReqBody where
  | rld (va : Word)
  | rst (va v : Word)
  | ramo (fn : Nat) (va v w : Word)
  | rfill (m : RfillMsg)
  | read (va : Word) (n : Nat)
  | write (va : Word) (bytes : List Byte) (full : List Word)
  | claim (r : ClaimReq)
  | release (r : ClaimReq)
  | withdraw (r : ClaimReq)
  | grant (sweep : Nat) (o : ClaimOutcome)
  | post (p : PostMsg)
  | lost (node : BitVec 16)
  | advance (a : Advance)
  deriving DecidableEq, Repr, Inhabited

/-- A request on the fabric (R346): source, its join number, the sequence id, the requester's identity
and ASID, the earlier bursts to this destination that completed releases at system scope cover (R89, log 56), and the
operation. -/
structure Request where
  src : BitVec 16
  join : BitVec 32
  seq : BitVec 32
  name : BitVec 14
  inc : BitVec 16
  asid : BitVec 16
  cov : List (BitVec 32)
  body : ReqBody
  deriving DecidableEq, Repr, Inhabited

/-- The reply to a request: a value, an acknowledgement, a failure code (Table 9.11); for a burst of a copy the
bytes read, how many were done, and the status of Table 11.4; or for a POST the fault VAL of R56. -/
inductive Reply where
  | word (w : Word)
  | burst (l : List Byte) (n : Nat) (status : Nat)
  | ack
  | fail (code : Nat)
  | postFail (val : Nat)
  deriving DecidableEq, Repr, Inhabited

/-- What the payload of a flit holds (Table 22.2): `more` is a later flit of a request or reply that does not fit one flit;
link control carries the armed generation. -/
inductive Payload where
  | idle
  | more
  | request (dest : BitVec 16) (r : Request)
  | reply (dest src : BitVec 16) (seq : BitVec 32) (r : Reply)
  | control (armed : Bool)
  | keySwitch (gen : BitVec 8)
  deriving DecidableEq, Repr, Inhabited

/-- A flit slot as it reaches a receiver (R350, R351): whether its tag verifies and its TYPE is
defined, the fields of its header (Table 22.2) and its payload. -/
structure Flit where
  intact : Bool
  rseq : BitVec 12
  rack : BitVec 12
  nak : Bool
  vc : BitVec 3
  len : Nat
  payload : Payload
  deriving DecidableEq, Repr, Inhabited

/-- The masters of the host register block (R378, R379). -/
inductive Master where
  | host
  | bmc
  deriving DecidableEq, Repr, Inhabited

/-- Who writes a control register (R153, R353, R384): the issuing context, or the steward of a die. -/
inductive CsrAgent where
  | thread
  | steward (die : Fin 4)
  deriving DecidableEq, Repr, Inhabited

/-- An Onaes access by the host (R378): a load of n bytes, a store of the bytes given, or a read of a register of the block
at link function 0. What is left of a load or store that has passed its checks is a list of pieces, each with its VA and key:
`get` with the bytes brought so far, and `put`. -/
inductive HostAcc where
  | load (asid : BitVec 16) (va : Word) (n : Nat)
  | store (asid : BitVec 16) (va : Word) (bytes : List Byte)
  | reg (off : Nat)
  | get (asid : BitVec 16) (pieces : List (Word × Nat × Nat)) (got : List Byte)
  | put (asid : BitVec 16) (pieces : List (Word × Nat × List Byte))
  deriving DecidableEq, Repr, Inhabited

/-- An SMBus transaction (R385): the 7-bit address, the command code, the bytes that the BMC writes after the byte count, and
the PEC byte that it sends behind them, which the Block Write carries. -/
structure SmbusBytes where
  addr : BitVec 7
  cmd : Byte
  bytes : List Byte
  pec : Byte
  deriving DecidableEq, Repr, Inhabited

/-- The reset itself, or a step of a die's steward that follows it (R380): the check of its firmware image (public key,
version, image and signature), the clearing of its memories with its outcome, and the map applied and the links trained, but
for the ports at which no neighbour answers. -/
inductive BootResult where
  | start
  | verify (die : Fin 4) (key : List Byte) (version : Nat) (image sig : List Byte)
  | clear (die : Fin 4) (ok : Bool)
  | ready (die : Fin 4) (silent : List (Fin 8))
  deriving DecidableEq, Repr, Inhabited

/-- Where an uncorrectable error is found (Table 23.1). -/
inductive ArrayError where
  | data (array die : Nat) (key : Nat)
  | regs (slot : Nat)
  | unit (die : Nat)
  deriving DecidableEq, Repr, Inhabited

/-- A step of the device itself, or an arrival from outside it, that is due (rows 230 to 325 of the opcode
table); each is the constructor of `Instr` with the same name and arguments. -/
inductive Ev where
  | taskDispatch (slot : Nat)
  | shareInterval
  | preemptionSave (cid : Nat)
  | imageSaveDone (cid : Nat)
  | slotScrubDone (slot : Nat) (ok : Bool)
  | registerFill (cid id : Nat)
  | weakLoadFault (cid id : Nat)
  | heldLoadFaultTrap (cid : Nat)
  | weakStoreFault (cid id : Nat)
  | weakStorePerformed (cid id : Nat)
  | waitLimitExpiry (cid : Nat)
  | yieldComplete (cid : Nat)
  | wfeTimeout (cid : Nat)
  | feWordStateChange (key : Nat)
  | pinnedLineUnpin (region id : Nat)
  | claimSweepStart (die : Nat)
  | claimRequestArrival (r : ClaimReq)
  | claimGrantArrival (sweep : Nat) (out : ClaimOutcome)
  | claimRelease (r : ClaimReq)
  | deferredRequestAdmit (die : Nat)
  | postArrival (p : PostMsg)
  | regionAdmission (id : Nat)
  | launchResult (cid : Nat) (reg : Fin 64) (code : Nat)
  | regionComplete (region : Nat)
  | copyComplete (id : Nat)
  | matrixRecordIssue (die : Nat)
  | matrixRecordComplete (region id : Nat)
  | partnerSumsArrival (region id : Nat)
  | pairTimeout (region id : Nat)
  | chainHoldTimeout (clus hold : Nat)
  | indexBuildComplete (id : Nat)
  | stippleQueryReturn (cid : Nat)
  | remoteReply (dest : BitVec 16) (seq : BitVec 32) (r : Reply)
  | rfillArrival (m : RfillMsg)
  | rfillOutcome (cid : Nat) (code : Nat)
  | pxchDataArrival (cid : Nat) (a : Fin 16) (data : VWord)
  | migrationSlotRequest (cid : Nat)
  | migrationArrival (cid slot : Nat)
  | pageGrowthFill (die : Nat) (asid : BitVec 16) (va : Word)
  | fabricRequestArrival (r : Request)
  | requestRetry (dest : BitVec 16) (seq : BitVec 32)
  | packageLost (node : BitVec 16)
  | lostNoticeArrival (node : BitVec 16)
  | packageFence
  | flitSlotReceive (port : Fin 8) (f : Flit)
  | nakReplay (port : Fin 8)
  | linkRetrain (port : Fin 8)
  | linkDown (port : Fin 8)
  | keySwitchSend (port : Fin 8)
  | keyLow (port : Fin 8)
  | linkHold (port : Fin 8)
  | holdTimeout (port : Fin 8) (start : Nat)
  | lctlDown (port : Fin 8) (b : Bool)
  | lctlArm (port : Fin 8) (b : Bool)
  | lkeyWrite (port : Fin 8) (w : Word)
  | fstatWrite (w : Word)
  | vtypeWrite (w : Word)
  | plumbWrite (w : Word)
  | fabricWrite (w : Word)
  | csrWrite (who : CsrAgent) (n : Nat) (w : Word)
  | launchDoorbell (tail : BitVec 32)
  | launchQueueEntry
  | ownerWrite (m : Master) (w : Word)
  | nextWrite (m : Master) (w : Word)
  | mboxWrite (m : Master) (w : Word)
  | dhaltWrite (m : Master) (w : Word)
  | hostRegisterWrite (m : Master) (off : Nat) (w : Word)
  | hostAccess (a : HostAcc)
  | smbusRegisterWrite (b : SmbusBytes)
  | smbusRegisterRead (b : SmbusBytes)
  | eventQueueDrain
  | measure
  | openLineage
  | sealAndContinue
  | sealAndStop
  | restore
  | closeLineage
  | ident
  | counterAdvanceArrival (a : Advance)
  | counterAdvanceAck (peer : BitVec 128) (lineage : BitVec 128) (counter : BitVec 40) (full : Bool)
  | counterAdvanceResend (peer : BitVec 128) (lineage : BitVec 128)
  | packageReset (boot : BootResult)
  | freeze
  | thermalTrip
  | scanStart (core : Nat)
  | scanEnd (core : Nat) (pass : Bool)
  | coreRetirement (core : Nat)
  | correctedError (array unit : Nat) (die : Nat) (addr : Word)
  | uncorrectableError (e : ArrayError)
  | patrolRead (die : Nat) (addr : Nat) (flipped : Bool)
  | strongAccessPerformed (cid id : Nat)
  | invalidationComplete (cid : Nat)
  | scrubComplete (cid : Nat)
  | linkUp (port : Fin 8) (stated : BitVec 48) (peerGen : BitVec 8)
  | powerLoss
  | stewardMessage (cid : Nat)
  deriving DecidableEq, Repr

end Sys2Proof
end

