-- ==== Sys2Proof/Syntax.lean ====
section
/-! DEFINITION. The instructions: one constructor per row of the opcode table. -/

namespace Sys2Proof

/-- The instructions of the opcode map (R127 to R129, rows 0 to 229 of the opcode table), then the steps the
device takes by itself and the arrivals from outside it (rows 230 to 325). -/
inductive Instr where
  | mov (o : Ops)
  | add (o : Ops)
  | sub (o : Ops)
  | and (o : Ops)
  | or (o : Ops)
  | xor (o : Ops)
  | andn (o : Ops)
  | shl (o : Ops)
  | shr (o : Ops)
  | sha (o : Ops)
  | rol (o : Ops)
  | slt (o : Ops)
  | sltu (o : Ops)
  | seq (o : Ops)
  | min (o : Ops)
  | max (o : Ops)
  | addi (o : Ops)
  | movi (o : Ops)
  | ld (o : Ops)
  | st (o : Ops)
  | beqz (o : Ops)
  | bnez (o : Ops)
  | br (o : Ops)
  | call (o : Ops)
  | mul (o : Ops)
  | mulh (o : Ops)
  | mulhu (o : Ops)
  | div (o : Ops)
  | divu (o : Ops)
  | rem (o : Ops)
  | remu (o : Ops)
  | minu (o : Ops)
  | maxu (o : Ops)
  | clz (o : Ops)
  | ctz (o : Ops)
  | popc (o : Ops)
  | abs (o : Ops)
  | neg (o : Ops)
  | bfx (o : Ops)
  | bfi (o : Ops)
  | vmov (o : Ops)
  | vadd (o : Ops)
  | vsub (o : Ops)
  | vmul (o : Ops)
  | vfma (o : Ops)
  | vmin (o : Ops)
  | vmax (o : Ops)
  | vand (o : Ops)
  | vor (o : Ops)
  | vxor (o : Ops)
  | vshl (o : Ops)
  | vshr (o : Ops)
  | vsha (o : Ops)
  | vbcst (o : Ops)
  | vneg (o : Ops)
  | vabs (o : Ops)
  | vld (o : Ops)
  | vst (o : Ops)
  | nop (o : Ops)
  | tend (o : Ops)
  | yield (o : Ops)
  | ret (o : Ops)
  | jmpr (o : Ops)
  | callr (o : Ops)
  | loopx (o : Ops)
  | phase (o : Ops)
  | fence (o : Ops)
  | bar (o : Ops)
  | waitany (o : Ops)
  | waitall (o : Ops)
  | ffr (o : Ops)
  | trap (o : Ops)
  | tclr (o : Ops)
  | ifnc (o : Ops)
  | bsig (sig : BitVec 11)
  | pool (len : BitVec 11)
  | ldb (o : Ops)
  | ldbu (o : Ops)
  | ldh (o : Ops)
  | ldhu (o : Ops)
  | ldw (o : Ops)
  | ldwu (o : Ops)
  | ldd (o : Ops)
  | stb (o : Ops)
  | sth (o : Ops)
  | stw (o : Ops)
  | std (o : Ops)
  | lds (o : Ops)
  | sts (o : Ops)
  | lea (o : Ops)
  | pf (o : Ops)
  | ldp (o : Ops)
  | ldf (o : Ops)
  | ldfc (o : Ops)
  | stf (o : Ops)
  | sto (o : Ops)
  | sete (o : Ops)
  | tstf (o : Ops)
  | amoadd (o : Ops)
  | amoand (o : Ops)
  | amoor (o : Ops)
  | amoxor (o : Ops)
  | amomin (o : Ops)
  | amomax (o : Ops)
  | amominu (o : Ops)
  | amomaxu (o : Ops)
  | amoswp (o : Ops)
  | amocas (o : Ops)
  | amofadd (o : Ops)
  | amoinc (o : Ops)
  | amodec (o : Ops)
  | vdiv (o : Ops)
  | vsqrt (o : Ops)
  | vminu (o : Ops)
  | vmaxu (o : Ops)
  | vfms (o : Ops)
  | vfnma (o : Ops)
  | vcvt (o : Ops)
  | vsel (o : Ops)
  | vcmp (fn : Fin 10) (o : Ops)
  | vred (fn : Fin 10) (o : Ops)
  | vscan (fn : Fin 3) (o : Ops)
  | vperm (o : Ops)
  | vslup (o : Ops)
  | vsldn (o : Ops)
  | vcomp (o : Ops)
  | viota (o : Ops)
  | vgetl (o : Ops)
  | vsetl (o : Ops)
  | vlds (o : Ops)
  | vsts (o : Ops)
  | vgath (o : Ops)
  | vscat (o : Ops)
  | vldl (o : Ops)
  | vstl (o : Ops)
  | mand (o : Ops)
  | mor (o : Ops)
  | mxor (o : Ops)
  | mnot (o : Ops)
  | mpop (o : Ops)
  | mff (o : Ops)
  | mtox (o : Ops)
  | mfromx (o : Ops)
  | vsett (o : Ops)
  | vexp2 (o : Ops)
  | vlog2 (o : Ops)
  | vrcp (o : Ops)
  | vrsq (o : Ops)
  | vsin (o : Ops)
  | vcos (o : Ops)
  | vtanh (o : Ops)
  | gang (o : Ops)
  | disb (o : Ops)
  | gid (o : Ops)
  | pmrg (o : Ops)
  | pxch (o : Ops)
  | cpy (o : Ops)
  | cpys (o : Ops)
  | menq (o : Ops)
  | mqry (o : Ops)
  | mcan (o : Ops)
  | dcfg (o : Ops)
  | dqry (o : Ops)
  | fenter (o : Ops)
  | fleave (o : Ops)
  | fopen (o : Ops)
  | fjoin (o : Ops)
  | fpub (o : Ops)
  | fret (o : Ops)
  | fretOwn (o : Ops)
  | dget (o : Ops)
  | dgetSt (o : Ops)
  | dset (o : Ops)
  | faddr (o : Ops)
  | fadd (o : Ops)
  | fsub (o : Ops)
  | fmul (o : Ops)
  | fdiv (o : Ops)
  | fsqrt (o : Ops)
  | fmin (o : Ops)
  | fmax (o : Ops)
  | fabs (o : Ops)
  | fneg (o : Ops)
  | fsgnj (o : Ops)
  | fma (o : Ops)
  | fms (o : Ops)
  | fnma (o : Ops)
  | feq (o : Ops)
  | flt (o : Ops)
  | fle (o : Ops)
  | fclass (o : Ops)
  | fcvti (o : Ops)
  | fcvtu (o : Ops)
  | icvtf (o : Ops)
  | ucvtf (o : Ops)
  | fcvtf (o : Ops)
  | beq (o : Ops)
  | bne (o : Ops)
  | blt (o : Ops)
  | bge (o : Ops)
  | bltu (o : Ops)
  | bgeu (o : Ops)
  | loop (o : Ops)
  | loopi (o : Ops)
  | csrr (o : Ops)
  | csrw (o : Ops)
  | csrs (o : Ops)
  | csrc (o : Ops)
  | post (o : Ops)
  | spawn (o : Ops)
  | launch (o : Ops)
  | tcrd (o : Ops)
  | rwait (o : Ops)
  | homeq (o : Ops)
  | rld (o : Ops)
  | rst (o : Ops)
  | ramo (o : Ops)
  | rfill (o : Ops)
  | rstat (o : Ops)
  | eret (o : Ops)
  | eretR (o : Ops)
  | park (o : Ops)
  | kill (o : Ops)
  | scrub (o : Ops)
  | invva (o : Ops)
  | invasid (o : Ops)
  | wfe (o : Ops)
  | slotset (o : Ops)
  | resume (o : Ops)
  | resumeKill (o : Ops)
  | taskDispatch (slot : Nat)
  | shareInterval
  | preemptionSave (cid : Nat)
  | imageSaveDone (cid : Nat)
  | slotScrubDone (slot : Nat) (ok : Bool)
  | registerFill (cid id : Nat)
  | weakLoadFault (cid id : Nat)
  | heldLoadFaultTrap (cid : Nat)
  | weakStoreFault (cid id : Nat)
  | weakStorePerformed (cid id : Nat)
  | waitLimitExpiry (cid : Nat)
  | yieldComplete (cid : Nat)
  | wfeTimeout (cid : Nat)
  | feWordStateChange (key : Nat)
  | pinnedLineUnpin (region id : Nat)
  | claimSweepStart (die : Nat)
  | claimRequestArrival (r : ClaimReq)
  | claimGrantArrival (sweep : Nat) (out : ClaimOutcome)
  | claimRelease (r : ClaimReq)
  | deferredRequestAdmit (die : Nat)
  | postArrival (p : PostMsg)
  | regionAdmission (id : Nat)
  | launchResult (cid : Nat) (reg : Fin 64) (code : Nat)
  | regionComplete (region : Nat)
  | copyComplete (id : Nat)
  | matrixRecordIssue (die : Nat)
  | matrixRecordComplete (region id : Nat)
  | partnerSumsArrival (region id : Nat)
  | pairTimeout (region id : Nat)
  | chainHoldTimeout (clus hold : Nat)
  | indexBuildComplete (id : Nat)
  | stippleQueryReturn (cid : Nat)
  | remoteReply (dest : BitVec 16) (seq : BitVec 32) (r : Reply)
  | rfillArrival (m : RfillMsg)
  | rfillOutcome (cid : Nat) (code : Nat)
  | pxchDataArrival (cid : Nat) (a : Fin 16) (data : VWord)
  | migrationSlotRequest (cid : Nat)
  | migrationArrival (cid slot : Nat)
  | pageGrowthFill (die : Nat) (asid : BitVec 16) (va : Word)
  | fabricRequestArrival (r : Request)
  | requestRetry (dest : BitVec 16) (seq : BitVec 32)
  | packageLost (node : BitVec 16)
  | lostNoticeArrival (node : BitVec 16)
  | packageFence
  | flitSlotReceive (port : Fin 8) (f : Flit)
  | nakReplay (port : Fin 8)
  | linkRetrain (port : Fin 8)
  | linkDown (port : Fin 8)
  | keySwitchSend (port : Fin 8)
  | keyLow (port : Fin 8)
  | linkHold (port : Fin 8)
  | holdTimeout (port : Fin 8) (start : Nat)
  | lctlDown (port : Fin 8) (b : Bool)
  | lctlArm (port : Fin 8) (b : Bool)
  | lkeyWrite (port : Fin 8) (w : Word)
  | fstatWrite (w : Word)
  | vtypeWrite (w : Word)
  | plumbWrite (w : Word)
  | fabricWrite (w : Word)
  | csrWrite (who : CsrAgent) (n : Nat) (w : Word)
  | launchDoorbell (tail : BitVec 32)
  | launchQueueEntry
  | ownerWrite (m : Master) (w : Word)
  | nextWrite (m : Master) (w : Word)
  | mboxWrite (m : Master) (w : Word)
  | dhaltWrite (m : Master) (w : Word)
  | hostRegisterWrite (m : Master) (off : Nat) (w : Word)
  | hostAccess (a : HostAcc)
  | smbusRegisterWrite (b : SmbusBytes)
  | smbusRegisterRead (b : SmbusBytes)
  | eventQueueDrain
  | measure
  | openLineage
  | sealAndContinue
  | sealAndStop
  | restore
  | closeLineage
  | ident
  | counterAdvanceArrival (a : Advance)
  | counterAdvanceAck (peer : BitVec 128) (lineage : BitVec 128) (counter : BitVec 40) (full : Bool)
  | counterAdvanceResend (peer : BitVec 128) (lineage : BitVec 128)
  | packageReset (boot : BootResult)
  | freeze
  | thermalTrip
  | scanStart (core : Nat)
  | scanEnd (core : Nat) (pass : Bool)
  | coreRetirement (core : Nat)
  | correctedError (array unit : Nat) (die : Nat) (addr : Word)
  | uncorrectableError (e : ArrayError)
  | patrolRead (die : Nat) (addr : Nat) (flipped : Bool)
  | strongAccessPerformed (cid id : Nat)
  | invalidationComplete (cid : Nat)
  | scrubComplete (cid : Nat)
  | linkUp (port : Fin 8) (stated : BitVec 48) (peerGen : BitVec 8)
  | powerLoss
  | stewardMessage (cid : Nat)
  deriving DecidableEq, Repr

end Sys2Proof
end

