-- ==== Sys2Proof/Machine/Rows.lean ====
section
/-! DEFINITION. The opcode map as data (R127 to R129, Tables 7.5, 7.6, 8.1, 9.1, 10.3, 11.1, 19.8): one
row per selector value, with the roles of its fields. -/

namespace Sys2Proof

/-- Base word formats (Table 7.1). -/
inductive Fmt where
  | f2 | fx | fi | fm | fb | fj
  deriving DecidableEq, Repr

/-- What a register field names. -/
inductive Role where
  /-- an x register, which a FRAME may replace (R126) -/
  | x
  /-- an x register up to the number given, which no FRAME replaces -/
  | xn (max : Nat)
  | v
  | m
  /-- a mask in the low three bits and a half in bit 3 (R213) -/
  | mh
  /-- a number up to the one given: a tag, a depth, a count; `num 0` is an unused field -/
  | num (max : Nat)
  /-- exactly this value: a selector held in the field -/
  | is (n : Nat)
  /-- an unsigned imm4, extended by IMM, between bounds -/
  | imm (lo : Nat) (hi : Option Nat)
  /-- the gang size of R215 -/
  | gang
  deriving DecidableEq, Repr

/-- How an instruction uses the register that field A names; `bin` reads it only without REG (Table 8.1). -/
inductive Acc where
  | none | w | r | rw | bin
  deriving DecidableEq, Repr

/-- Whether a REG prefix is optional, required or undefined. -/
inductive RegRule where
  | opt | req | no
  deriving DecidableEq, Repr

/-- The values of Q that a row allows (R128, R129). -/
inductive QRule where
  | zero | any | sys | fp | fpx | sel
  deriving DecidableEq, Repr

/-- One row of the opcode map. -/
structure Row where
  page : Nat
  major : Nat
  sel : Option Nat
  fmt : Fmt
  a : Role
  acc : Acc
  b : Role
  c : Role
  reg : RegRule
  q : QRule
  disp : Bool
  build : Ops → Instr

def rows0_0 : List Row := [
  ⟨0, 0, some 0, .f2, .x, .w, .x, .num 0, .opt, .zero, false, .mov⟩,
  ⟨0, 0, some 1, .f2, .x, .bin, .x, .x, .opt, .zero, false, .add⟩,
  ⟨0, 0, some 2, .f2, .x, .bin, .x, .x, .opt, .zero, false, .sub⟩,
  ⟨0, 0, some 3, .f2, .x, .bin, .x, .x, .opt, .zero, false, .and⟩,
  ⟨0, 0, some 4, .f2, .x, .bin, .x, .x, .opt, .zero, false, .or⟩,
  ⟨0, 0, some 5, .f2, .x, .bin, .x, .x, .opt, .zero, false, .xor⟩,
  ⟨0, 0, some 6, .f2, .x, .bin, .x, .x, .opt, .zero, false, .andn⟩,
  ⟨0, 0, some 7, .f2, .x, .bin, .x, .x, .opt, .zero, false, .shl⟩,
  ⟨0, 0, some 8, .f2, .x, .bin, .x, .x, .opt, .zero, false, .shr⟩,
  ⟨0, 0, some 9, .f2, .x, .bin, .x, .x, .opt, .zero, false, .sha⟩,
  ⟨0, 0, some 10, .f2, .x, .bin, .x, .x, .opt, .zero, false, .rol⟩,
  ⟨0, 0, some 11, .f2, .x, .bin, .x, .x, .opt, .zero, false, .slt⟩,
  ⟨0, 0, some 12, .f2, .x, .bin, .x, .x, .opt, .zero, false, .sltu⟩,
  ⟨0, 0, some 13, .f2, .x, .bin, .x, .x, .opt, .zero, false, .seq⟩,
  ⟨0, 0, some 14, .f2, .x, .bin, .x, .x, .opt, .zero, false, .min⟩,
  ⟨0, 0, some 15, .f2, .x, .bin, .x, .x, .opt, .zero, false, .max⟩]

def rows0_1 : List Row := [
  ⟨0, 1, none, .fi, .xn 63, .rw, .num 0, .num 0, .opt, .zero, false, .addi⟩]

def rows0_2 : List Row := [
  ⟨0, 2, none, .fi, .xn 63, .w, .num 0, .num 0, .opt, .zero, false, .movi⟩]

def rows0_3 : List Row := [
  ⟨0, 3, none, .fm, .xn 63, .w, .xn 63, .num 0, .opt, .zero, false, .ld⟩]

def rows0_4 : List Row := [
  ⟨0, 4, none, .fm, .xn 63, .r, .xn 63, .num 0, .opt, .zero, false, .st⟩]

def rows0_5 : List Row := [
  ⟨0, 5, none, .fb, .xn 63, .r, .num 0, .num 0, .opt, .zero, false, .beqz⟩]

def rows0_6 : List Row := [
  ⟨0, 6, none, .fb, .xn 63, .r, .num 0, .num 0, .opt, .zero, false, .bnez⟩]

def rows0_7 : List Row := [
  ⟨0, 7, none, .fj, .num 0, .none, .num 0, .num 0, .no, .zero, false, .br⟩]

def rows0_8 : List Row := [
  ⟨0, 8, none, .fj, .num 0, .none, .num 0, .num 0, .no, .zero, false, .call⟩]

def rows0_9 : List Row := [
  ⟨0, 9, some 0, .f2, .x, .bin, .x, .x, .opt, .zero, false, .mul⟩,
  ⟨0, 9, some 1, .f2, .x, .bin, .x, .x, .opt, .zero, false, .mulh⟩,
  ⟨0, 9, some 2, .f2, .x, .bin, .x, .x, .opt, .zero, false, .mulhu⟩,
  ⟨0, 9, some 3, .f2, .x, .bin, .x, .x, .opt, .zero, false, .div⟩,
  ⟨0, 9, some 4, .f2, .x, .bin, .x, .x, .opt, .zero, false, .divu⟩,
  ⟨0, 9, some 5, .f2, .x, .bin, .x, .x, .opt, .zero, false, .rem⟩,
  ⟨0, 9, some 6, .f2, .x, .bin, .x, .x, .opt, .zero, false, .remu⟩,
  ⟨0, 9, some 7, .f2, .x, .bin, .x, .x, .opt, .zero, false, .minu⟩,
  ⟨0, 9, some 8, .f2, .x, .bin, .x, .x, .opt, .zero, false, .maxu⟩,
  ⟨0, 9, some 9, .f2, .x, .w, .x, .num 0, .opt, .zero, false, .clz⟩,
  ⟨0, 9, some 10, .f2, .x, .w, .x, .num 0, .opt, .zero, false, .ctz⟩,
  ⟨0, 9, some 11, .f2, .x, .w, .x, .num 0, .opt, .zero, false, .popc⟩,
  ⟨0, 9, some 12, .f2, .x, .w, .x, .num 0, .opt, .zero, false, .abs⟩,
  ⟨0, 9, some 13, .f2, .x, .w, .x, .num 0, .opt, .zero, false, .neg⟩,
  ⟨0, 9, some 14, .f2, .x, .bin, .x, .x, .opt, .zero, false, .bfx⟩,
  ⟨0, 9, some 15, .f2, .x, .rw, .x, .x, .req, .zero, false, .bfi⟩]

def rows0_10 : List Row := [
  ⟨0, 10, some 0, .f2, .v, .w, .v, .num 0, .opt, .zero, false, .vmov⟩,
  ⟨0, 10, some 1, .f2, .v, .bin, .v, .v, .opt, .zero, false, .vadd⟩,
  ⟨0, 10, some 2, .f2, .v, .bin, .v, .v, .opt, .zero, false, .vsub⟩,
  ⟨0, 10, some 3, .f2, .v, .bin, .v, .v, .opt, .zero, false, .vmul⟩,
  ⟨0, 10, some 4, .f2, .v, .rw, .v, .v, .req, .zero, false, .vfma⟩,
  ⟨0, 10, some 5, .f2, .v, .bin, .v, .v, .opt, .zero, false, .vmin⟩,
  ⟨0, 10, some 6, .f2, .v, .bin, .v, .v, .opt, .zero, false, .vmax⟩,
  ⟨0, 10, some 7, .f2, .v, .bin, .v, .v, .opt, .zero, false, .vand⟩,
  ⟨0, 10, some 8, .f2, .v, .bin, .v, .v, .opt, .zero, false, .vor⟩,
  ⟨0, 10, some 9, .f2, .v, .bin, .v, .v, .opt, .zero, false, .vxor⟩,
  ⟨0, 10, some 10, .f2, .v, .bin, .v, .v, .opt, .zero, false, .vshl⟩,
  ⟨0, 10, some 11, .f2, .v, .bin, .v, .v, .opt, .zero, false, .vshr⟩,
  ⟨0, 10, some 12, .f2, .v, .bin, .v, .v, .opt, .zero, false, .vsha⟩,
  ⟨0, 10, some 13, .f2, .v, .w, .x, .num 0, .opt, .zero, false, .vbcst⟩,
  ⟨0, 10, some 14, .f2, .v, .w, .v, .num 0, .opt, .zero, false, .vneg⟩,
  ⟨0, 10, some 15, .f2, .v, .w, .v, .num 0, .opt, .zero, false, .vabs⟩]

def rows0_11 : List Row := [
  ⟨0, 11, none, .fm, .v, .w, .xn 63, .num 0, .opt, .zero, false, .vld⟩]

def rows0_12 : List Row := [
  ⟨0, 12, none, .fm, .v, .r, .xn 63, .num 0, .opt, .zero, false, .vst⟩]

def rows0_13 : List Row := [
  ⟨0, 13, some 0, .fx, .num 0, .none, .num 0, .num 0, .no, .zero, false, .nop⟩,
  ⟨0, 13, some 1, .fx, .num 0, .none, .num 0, .num 0, .no, .zero, false, .tend⟩,
  ⟨0, 13, some 2, .fx, .num 0, .none, .imm 0 none, .num 0, .opt, .zero, false, .yield⟩,
  ⟨0, 13, some 3, .fx, .num 0, .none, .num 0, .num 0, .opt, .zero, false, .ret⟩,
  ⟨0, 13, some 4, .fx, .num 0, .none, .x, .num 0, .opt, .zero, false, .jmpr⟩,
  ⟨0, 13, some 5, .fx, .num 0, .none, .x, .num 0, .opt, .zero, false, .callr⟩,
  ⟨0, 13, some 6, .fx, .num 0, .none, .imm 0 none, .num 0, .opt, .zero, false, .loopx⟩,
  ⟨0, 13, some 7, .fx, .num 0, .none, .imm 0 (some 3), .num 0, .opt, .zero, false, .phase⟩,
  ⟨0, 13, some 8, .fx, .num 0, .none, .imm 0 (some 3), .num 0, .opt, .zero, false, .fence⟩,
  ⟨0, 13, some 9, .fx, .xn 63, .r, .imm 0 none, .num 0, .opt, .zero, false, .bar⟩,
  ⟨0, 13, some 10, .fx, .x, .w, .x, .num 0, .opt, .zero, false, .waitany⟩,
  ⟨0, 13, some 11, .fx, .x, .w, .x, .num 0, .opt, .zero, false, .waitall⟩,
  ⟨0, 13, some 12, .fx, .x, .w, .x, .num 0, .opt, .zero, false, .ffr⟩,
  ⟨0, 13, some 13, .fx, .num 0, .none, .imm 0 none, .num 0, .opt, .zero, false, .trap⟩,
  ⟨0, 13, some 14, .fx, .num 0, .none, .x, .num 0, .opt, .zero, false, .tclr⟩,
  ⟨0, 13, some 15, .fx, .num 0, .none, .num 0, .num 0, .opt, .zero, false, .ifnc⟩]

def rows1_0 : List Row := [
  ⟨1, 0, some 0, .f2, .x, .w, .x, .x, .opt, .zero, true, .ldb⟩,
  ⟨1, 0, some 1, .f2, .x, .w, .x, .x, .opt, .zero, true, .ldbu⟩,
  ⟨1, 0, some 2, .f2, .x, .w, .x, .x, .opt, .zero, true, .ldh⟩,
  ⟨1, 0, some 3, .f2, .x, .w, .x, .x, .opt, .zero, true, .ldhu⟩,
  ⟨1, 0, some 4, .f2, .x, .w, .x, .x, .opt, .zero, true, .ldw⟩,
  ⟨1, 0, some 5, .f2, .x, .w, .x, .x, .opt, .zero, true, .ldwu⟩,
  ⟨1, 0, some 6, .f2, .x, .w, .x, .x, .opt, .zero, true, .ldd⟩,
  ⟨1, 0, some 7, .f2, .x, .r, .x, .x, .opt, .zero, true, .stb⟩,
  ⟨1, 0, some 8, .f2, .x, .r, .x, .x, .opt, .zero, true, .sth⟩,
  ⟨1, 0, some 9, .f2, .x, .r, .x, .x, .opt, .zero, true, .stw⟩,
  ⟨1, 0, some 10, .f2, .x, .r, .x, .x, .opt, .zero, true, .std⟩,
  ⟨1, 0, some 11, .f2, .x, .w, .x, .x, .opt, .any, true, .lds⟩,
  ⟨1, 0, some 12, .f2, .x, .r, .x, .x, .opt, .any, true, .sts⟩,
  ⟨1, 0, some 13, .f2, .x, .w, .x, .x, .opt, .zero, true, .lea⟩,
  ⟨1, 0, some 14, .f2, .num 2, .none, .x, .x, .opt, .zero, true, .pf⟩,
  ⟨1, 0, some 15, .f2, .xn 62, .w, .x, .x, .opt, .zero, true, .ldp⟩]

def rows1_1 : List Row := [
  ⟨1, 1, some 0, .f2, .x, .w, .x, .x, .opt, .any, true, .ldf⟩,
  ⟨1, 1, some 1, .f2, .x, .w, .x, .x, .opt, .any, true, .ldfc⟩,
  ⟨1, 1, some 2, .f2, .x, .r, .x, .x, .opt, .any, true, .stf⟩,
  ⟨1, 1, some 3, .f2, .x, .r, .x, .x, .opt, .any, true, .sto⟩,
  ⟨1, 1, some 4, .f2, .num 0, .none, .x, .x, .opt, .any, true, .sete⟩,
  ⟨1, 1, some 5, .f2, .x, .w, .x, .x, .opt, .any, true, .tstf⟩]

def rows1_2 : List Row := [
  ⟨1, 2, some 0, .f2, .x, .bin, .x, .x, .opt, .any, true, .amoadd⟩,
  ⟨1, 2, some 1, .f2, .x, .bin, .x, .x, .opt, .any, true, .amoand⟩,
  ⟨1, 2, some 2, .f2, .x, .bin, .x, .x, .opt, .any, true, .amoor⟩,
  ⟨1, 2, some 3, .f2, .x, .bin, .x, .x, .opt, .any, true, .amoxor⟩,
  ⟨1, 2, some 4, .f2, .x, .bin, .x, .x, .opt, .any, true, .amomin⟩,
  ⟨1, 2, some 5, .f2, .x, .bin, .x, .x, .opt, .any, true, .amomax⟩,
  ⟨1, 2, some 6, .f2, .x, .bin, .x, .x, .opt, .any, true, .amominu⟩,
  ⟨1, 2, some 7, .f2, .x, .bin, .x, .x, .opt, .any, true, .amomaxu⟩,
  ⟨1, 2, some 8, .f2, .x, .bin, .x, .x, .opt, .any, true, .amoswp⟩,
  ⟨1, 2, some 9, .f2, .x, .rw, .x, .x, .req, .any, true, .amocas⟩,
  ⟨1, 2, some 10, .f2, .x, .bin, .x, .x, .opt, .any, true, .amofadd⟩,
  ⟨1, 2, some 11, .f2, .x, .w, .x, .num 0, .opt, .any, true, .amoinc⟩,
  ⟨1, 2, some 12, .f2, .x, .w, .x, .num 0, .opt, .any, true, .amodec⟩]

def rows2_0 : List Row := [
  ⟨2, 0, some 0, .f2, .v, .bin, .v, .v, .opt, .any, false, .vdiv⟩,
  ⟨2, 0, some 1, .f2, .v, .w, .v, .num 0, .opt, .any, false, .vsqrt⟩,
  ⟨2, 0, some 2, .f2, .v, .bin, .v, .v, .opt, .any, false, .vminu⟩,
  ⟨2, 0, some 3, .f2, .v, .bin, .v, .v, .opt, .any, false, .vmaxu⟩,
  ⟨2, 0, some 4, .f2, .v, .rw, .v, .v, .req, .any, false, .vfms⟩,
  ⟨2, 0, some 5, .f2, .v, .rw, .v, .v, .req, .any, false, .vfnma⟩,
  ⟨2, 0, some 6, .f2, .v, .w, .v, .num 0, .opt, .any, false, .vcvt⟩,
  ⟨2, 0, some 7, .f2, .v, .w, .v, .v, .req, .any, false, .vsel⟩]

def rows2_1 : List Row := [
  ⟨2, 1, some 0, .f2, .m, .w, .v, .v, .req, .any, false, (.vcmp 0)⟩,
  ⟨2, 1, some 1, .f2, .m, .w, .v, .v, .req, .any, false, (.vcmp 1)⟩,
  ⟨2, 1, some 2, .f2, .m, .w, .v, .v, .req, .any, false, (.vcmp 2)⟩,
  ⟨2, 1, some 3, .f2, .m, .w, .v, .v, .req, .any, false, (.vcmp 3)⟩,
  ⟨2, 1, some 4, .f2, .m, .w, .v, .v, .req, .any, false, (.vcmp 4)⟩,
  ⟨2, 1, some 5, .f2, .m, .w, .v, .v, .req, .any, false, (.vcmp 5)⟩,
  ⟨2, 1, some 6, .f2, .m, .w, .v, .v, .req, .any, false, (.vcmp 6)⟩,
  ⟨2, 1, some 7, .f2, .m, .w, .v, .v, .req, .any, false, (.vcmp 7)⟩,
  ⟨2, 1, some 8, .f2, .m, .w, .v, .v, .req, .any, false, (.vcmp 8)⟩,
  ⟨2, 1, some 9, .f2, .m, .w, .v, .v, .req, .any, false, (.vcmp 9)⟩]

def rows2_2 : List Row := [
  ⟨2, 2, some 0, .f2, .xn 63, .w, .v, .num 0, .opt, .any, false, (.vred 0)⟩,
  ⟨2, 2, some 1, .f2, .xn 63, .w, .v, .num 0, .opt, .any, false, (.vred 1)⟩,
  ⟨2, 2, some 2, .f2, .xn 63, .w, .v, .num 0, .opt, .any, false, (.vred 2)⟩,
  ⟨2, 2, some 3, .f2, .xn 63, .w, .v, .num 0, .opt, .any, false, (.vred 3)⟩,
  ⟨2, 2, some 4, .f2, .xn 63, .w, .v, .num 0, .opt, .any, false, (.vred 4)⟩,
  ⟨2, 2, some 5, .f2, .xn 63, .w, .v, .num 0, .opt, .any, false, (.vred 5)⟩,
  ⟨2, 2, some 6, .f2, .xn 63, .w, .v, .num 0, .opt, .any, false, (.vred 6)⟩,
  ⟨2, 2, some 7, .f2, .xn 63, .w, .v, .num 0, .opt, .any, false, (.vred 7)⟩,
  ⟨2, 2, some 8, .f2, .xn 63, .w, .v, .num 0, .opt, .any, false, (.vred 8)⟩,
  ⟨2, 2, some 9, .f2, .xn 63, .w, .v, .num 0, .opt, .any, false, (.vred 9)⟩]

def rows2_3 : List Row := [
  ⟨2, 3, some 0, .f2, .v, .w, .v, .num 0, .opt, .any, false, (.vscan 0)⟩,
  ⟨2, 3, some 1, .f2, .v, .w, .v, .num 0, .opt, .any, false, (.vscan 1)⟩,
  ⟨2, 3, some 2, .f2, .v, .w, .v, .num 0, .opt, .any, false, (.vscan 2)⟩]

def rows2_4 : List Row := [
  ⟨2, 4, some 0, .f2, .v, .w, .v, .v, .req, .any, false, .vperm⟩,
  ⟨2, 4, some 1, .f2, .v, .w, .v, .xn 63, .opt, .any, false, .vslup⟩,
  ⟨2, 4, some 2, .f2, .v, .w, .v, .xn 63, .opt, .any, false, .vsldn⟩,
  ⟨2, 4, some 3, .f2, .v, .w, .v, .num 0, .opt, .any, false, .vcomp⟩,
  ⟨2, 4, some 4, .f2, .v, .w, .num 0, .num 0, .opt, .any, false, .viota⟩,
  ⟨2, 4, some 5, .f2, .xn 63, .w, .v, .xn 63, .opt, .any, false, .vgetl⟩,
  ⟨2, 4, some 6, .f2, .v, .w, .x, .xn 63, .opt, .any, false, .vsetl⟩]

def rows2_5 : List Row := [
  ⟨2, 5, some 0, .f2, .v, .w, .x, .xn 63, .opt, .any, true, .vlds⟩,
  ⟨2, 5, some 1, .f2, .v, .r, .x, .xn 63, .opt, .any, true, .vsts⟩,
  ⟨2, 5, some 2, .f2, .v, .w, .x, .v, .req, .any, true, .vgath⟩,
  ⟨2, 5, some 3, .f2, .v, .r, .x, .v, .req, .any, true, .vscat⟩,
  ⟨2, 5, some 4, .f2, .v, .w, .x, .v, .req, .any, true, .vldl⟩,
  ⟨2, 5, some 5, .f2, .v, .r, .x, .v, .req, .any, true, .vstl⟩]

def rows2_6 : List Row := [
  ⟨2, 6, some 0, .f2, .m, .bin, .m, .m, .opt, .zero, false, .mand⟩,
  ⟨2, 6, some 1, .f2, .m, .bin, .m, .m, .opt, .zero, false, .mor⟩,
  ⟨2, 6, some 2, .f2, .m, .bin, .m, .m, .opt, .zero, false, .mxor⟩,
  ⟨2, 6, some 3, .f2, .m, .w, .m, .num 0, .opt, .zero, false, .mnot⟩,
  ⟨2, 6, some 4, .f2, .xn 63, .w, .m, .num 0, .opt, .zero, false, .mpop⟩,
  ⟨2, 6, some 5, .f2, .xn 63, .w, .m, .num 0, .opt, .zero, false, .mff⟩,
  ⟨2, 6, some 6, .f2, .xn 63, .w, .mh, .num 0, .opt, .zero, false, .mtox⟩,
  ⟨2, 6, some 7, .f2, .mh, .w, .x, .num 0, .opt, .zero, false, .mfromx⟩]

def rows2_7 : List Row := [
  ⟨2, 7, some 0, .f2, .x, .w, .x, .num 0, .opt, .zero, false, .vsett⟩]

def rows3_0 : List Row := [
  ⟨3, 0, some 0, .f2, .v, .w, .v, .num 0, .opt, .any, false, .vexp2⟩,
  ⟨3, 0, some 1, .f2, .v, .w, .v, .num 0, .opt, .any, false, .vlog2⟩,
  ⟨3, 0, some 2, .f2, .v, .w, .v, .num 0, .opt, .any, false, .vrcp⟩,
  ⟨3, 0, some 3, .f2, .v, .w, .v, .num 0, .opt, .any, false, .vrsq⟩,
  ⟨3, 0, some 4, .f2, .v, .w, .v, .num 0, .opt, .any, false, .vsin⟩,
  ⟨3, 0, some 5, .f2, .v, .w, .v, .num 0, .opt, .any, false, .vcos⟩,
  ⟨3, 0, some 6, .f2, .v, .w, .v, .num 0, .opt, .any, false, .vtanh⟩]

def rows3_1 : List Row := [
  ⟨3, 1, some 0, .fx, .xn 63, .w, .gang, .num 0, .opt, .zero, false, .gang⟩,
  ⟨3, 1, some 1, .fx, .num 0, .none, .num 0, .num 0, .opt, .zero, false, .disb⟩,
  ⟨3, 1, some 2, .fx, .xn 63, .w, .num 0, .num 0, .opt, .zero, false, .gid⟩]

def rows3_2 : List Row := [
  ⟨3, 2, some 0, .f2, .v, .bin, .v, .v, .opt, .zero, false, .pmrg⟩,
  ⟨3, 2, some 1, .f2, .v, .w, .v, .num 1, .opt, .zero, false, .pxch⟩]

def rows4_0 : List Row := [
  ⟨4, 0, some 0, .f2, .num 63, .none, .x, .num 0, .opt, .zero, false, .cpy⟩,
  ⟨4, 0, some 1, .f2, .num 63, .none, .xn 62, .xn 63, .opt, .zero, false, .cpys⟩]

def rows4_1 : List Row := [
  ⟨4, 1, some 0, .f2, .x, .w, .x, .num 0, .opt, .zero, false, .menq⟩,
  ⟨4, 1, some 1, .f2, .x, .w, .x, .num 0, .opt, .zero, false, .mqry⟩,
  ⟨4, 1, some 2, .f2, .x, .w, .x, .num 0, .opt, .zero, false, .mcan⟩]

def rows4_2 : List Row := [
  ⟨4, 2, some 0, .f2, .num 63, .none, .x, .num 0, .opt, .zero, false, .dcfg⟩,
  ⟨4, 2, some 1, .f2, .x, .r, .x, .x, .opt, .zero, false, .dqry⟩]

def rows5_0 : List Row := [
  ⟨5, 0, some 0, .fx, .num 7, .none, .imm 1 none, .num 0, .no, .zero, false, .fenter⟩,
  ⟨5, 0, some 1, .fx, .num 7, .none, .imm 1 none, .num 0, .no, .zero, false, .fleave⟩,
  ⟨5, 0, some 2, .fx, .num 7, .none, .x, .x, .req, .zero, false, .fopen⟩,
  ⟨5, 0, some 3, .fx, .num 7, .none, .x, .num 0, .opt, .zero, false, .fjoin⟩,
  ⟨5, 0, some 4, .fx, .num 0, .none, .num 0, .num 0, .opt, .zero, false, .fpub⟩,
  ⟨5, 0, some 5, .fx, .num 7, .none, .is 0, .num 0, .opt, .zero, false, .fret⟩,
  ⟨5, 0, some 5, .fx, .num 7, .none, .is 1, .num 0, .opt, .zero, false, .fretOwn⟩,
  ⟨5, 0, some 6, .fx, .xn 63, .w, .imm 0 (some 7), .num 0, .opt, .zero, false, .dget⟩,
  ⟨5, 0, some 6, .fx, .xn 63, .w, .imm 8 (some 15), .num 0, .opt, .zero, false, .dgetSt⟩,
  ⟨5, 0, some 7, .fx, .num 7, .none, .x, .num 0, .opt, .zero, false, .dset⟩,
  ⟨5, 0, some 8, .fx, .xn 63, .w, .imm 0 (some 7), .xn 63, .opt, .zero, false, .faddr⟩]

def rows6_0 : List Row := [
  ⟨6, 0, some 0, .f2, .x, .bin, .x, .x, .opt, .fp, false, .fadd⟩,
  ⟨6, 0, some 1, .f2, .x, .bin, .x, .x, .opt, .fp, false, .fsub⟩,
  ⟨6, 0, some 2, .f2, .x, .bin, .x, .x, .opt, .fp, false, .fmul⟩,
  ⟨6, 0, some 3, .f2, .x, .bin, .x, .x, .opt, .fp, false, .fdiv⟩,
  ⟨6, 0, some 4, .f2, .x, .w, .x, .num 0, .opt, .fp, false, .fsqrt⟩,
  ⟨6, 0, some 5, .f2, .x, .bin, .x, .x, .opt, .fpx, false, .fmin⟩,
  ⟨6, 0, some 6, .f2, .x, .bin, .x, .x, .opt, .fpx, false, .fmax⟩,
  ⟨6, 0, some 7, .f2, .x, .w, .x, .num 0, .opt, .fpx, false, .fabs⟩,
  ⟨6, 0, some 8, .f2, .x, .w, .x, .num 0, .opt, .fpx, false, .fneg⟩,
  ⟨6, 0, some 9, .f2, .x, .bin, .x, .x, .opt, .fpx, false, .fsgnj⟩,
  ⟨6, 0, some 10, .f2, .x, .rw, .x, .x, .req, .fp, false, .fma⟩,
  ⟨6, 0, some 11, .f2, .x, .rw, .x, .x, .req, .fp, false, .fms⟩,
  ⟨6, 0, some 12, .f2, .x, .rw, .x, .x, .req, .fp, false, .fnma⟩]

def rows6_1 : List Row := [
  ⟨6, 1, some 0, .f2, .x, .bin, .x, .x, .opt, .fpx, false, .feq⟩,
  ⟨6, 1, some 1, .f2, .x, .bin, .x, .x, .opt, .fpx, false, .flt⟩,
  ⟨6, 1, some 2, .f2, .x, .bin, .x, .x, .opt, .fpx, false, .fle⟩,
  ⟨6, 1, some 3, .f2, .x, .w, .x, .num 0, .opt, .fpx, false, .fclass⟩,
  ⟨6, 1, some 4, .f2, .x, .w, .x, .num 0, .opt, .fp, false, .fcvti⟩,
  ⟨6, 1, some 5, .f2, .x, .w, .x, .num 0, .opt, .fp, false, .fcvtu⟩,
  ⟨6, 1, some 6, .f2, .x, .w, .x, .num 0, .opt, .fp, false, .icvtf⟩,
  ⟨6, 1, some 7, .f2, .x, .w, .x, .num 0, .opt, .fp, false, .ucvtf⟩,
  ⟨6, 1, some 8, .f2, .x, .w, .x, .num 0, .opt, .fp, false, .fcvtf⟩]

def rows7_0 : List Row := [
  ⟨7, 0, some 0, .fb, .xn 63, .r, .num 0, .xn 63, .opt, .sel, false, .beq⟩,
  ⟨7, 0, some 1, .fb, .xn 63, .r, .num 0, .xn 63, .opt, .sel, false, .bne⟩,
  ⟨7, 0, some 2, .fb, .xn 63, .r, .num 0, .xn 63, .opt, .sel, false, .blt⟩,
  ⟨7, 0, some 3, .fb, .xn 63, .r, .num 0, .xn 63, .opt, .sel, false, .bge⟩,
  ⟨7, 0, some 4, .fb, .xn 63, .r, .num 0, .xn 63, .opt, .sel, false, .bltu⟩,
  ⟨7, 0, some 5, .fb, .xn 63, .r, .num 0, .xn 63, .opt, .sel, false, .bgeu⟩]

def rows7_1 : List Row := [
  ⟨7, 1, some 0, .fb, .xn 63, .r, .num 0, .num 0, .opt, .sel, false, .loop⟩,
  ⟨7, 1, some 1, .fb, .num 63, .none, .num 0, .num 0, .opt, .sel, false, .loopi⟩]

def rows7_2 : List Row := [
  ⟨7, 2, some 0, .fi, .xn 63, .w, .num 0, .num 0, .opt, .sel, false, .csrr⟩,
  ⟨7, 2, some 1, .fi, .xn 63, .r, .num 0, .num 0, .opt, .sel, false, .csrw⟩,
  ⟨7, 2, some 2, .fi, .xn 63, .r, .num 0, .num 0, .opt, .sel, false, .csrs⟩,
  ⟨7, 2, some 3, .fi, .xn 63, .r, .num 0, .num 0, .opt, .sel, false, .csrc⟩]

def rows8_0 : List Row := [
  ⟨8, 0, some 0, .f2, .num 0, .none, .x, .num 0, .opt, .zero, false, .post⟩,
  ⟨8, 0, some 1, .f2, .x, .w, .x, .num 0, .opt, .zero, false, .spawn⟩,
  ⟨8, 0, some 2, .f2, .x, .w, .x, .num 0, .opt, .zero, false, .launch⟩,
  ⟨8, 0, some 3, .f2, .x, .w, .x, .num 0, .opt, .zero, false, .tcrd⟩,
  ⟨8, 0, some 4, .f2, .x, .w, .x, .num 0, .opt, .zero, false, .rwait⟩,
  ⟨8, 0, some 5, .f2, .x, .w, .x, .num 0, .opt, .zero, false, .homeq⟩]

def rows8_1 : List Row := [
  ⟨8, 1, some 0, .f2, .x, .w, .x, .x, .opt, .sys, true, .rld⟩,
  ⟨8, 1, some 1, .f2, .x, .r, .x, .x, .opt, .sys, true, .rst⟩,
  ⟨8, 1, some 2, .f2, .x, .rw, .x, .x, .opt, .sys, true, .ramo⟩,
  ⟨8, 1, some 3, .f2, .x, .r, .x, .num 0, .opt, .zero, false, .rfill⟩,
  ⟨8, 1, some 4, .f2, .xn 63, .w, .num 0, .num 0, .opt, .zero, false, .rstat⟩]

def rows63_0 : List Row := [
  ⟨63, 0, some 0, .f2, .num 0, .none, .is 1, .num 0, .no, .zero, false, .eret⟩,
  ⟨63, 0, some 0, .f2, .num 0, .none, .is 2, .num 0, .no, .zero, false, .eretR⟩,
  ⟨63, 0, some 1, .f2, .xn 63, .w, .xn 63, .xn 63, .req, .zero, false, .park⟩,
  ⟨63, 0, some 2, .f2, .xn 63, .w, .xn 63, .num 0, .opt, .zero, false, .kill⟩,
  ⟨63, 0, some 3, .f2, .num 0, .none, .xn 63, .xn 63, .req, .zero, false, .scrub⟩,
  ⟨63, 0, some 4, .f2, .num 0, .none, .xn 63, .xn 63, .req, .zero, false, .invva⟩,
  ⟨63, 0, some 5, .f2, .num 0, .none, .xn 63, .num 0, .opt, .zero, false, .invasid⟩,
  ⟨63, 0, some 6, .f2, .xn 63, .w, .xn 63, .num 0, .opt, .zero, false, .wfe⟩,
  ⟨63, 0, some 7, .f2, .num 0, .none, .xn 63, .xn 63, .req, .zero, false, .slotset⟩,
  ⟨63, 0, some 8, .f2, .xn 63, .w, .xn 63, .num 0, .no, .zero, false, .resume⟩,
  ⟨63, 0, some 8, .f2, .xn 63, .w, .xn 63, .xn 63, .req, .zero, false, .resumeKill⟩]

/-- The rows of one page and major (Tables 7.5 and 7.6); empty where none is assigned. -/
def rowsOf (page major : Nat) : List Row :=
  match page, major with
  | 0, 0 => rows0_0
  | 0, 1 => rows0_1
  | 0, 2 => rows0_2
  | 0, 3 => rows0_3
  | 0, 4 => rows0_4
  | 0, 5 => rows0_5
  | 0, 6 => rows0_6
  | 0, 7 => rows0_7
  | 0, 8 => rows0_8
  | 0, 9 => rows0_9
  | 0, 10 => rows0_10
  | 0, 11 => rows0_11
  | 0, 12 => rows0_12
  | 0, 13 => rows0_13
  | 1, 0 => rows1_0
  | 1, 1 => rows1_1
  | 1, 2 => rows1_2
  | 2, 0 => rows2_0
  | 2, 1 => rows2_1
  | 2, 2 => rows2_2
  | 2, 3 => rows2_3
  | 2, 4 => rows2_4
  | 2, 5 => rows2_5
  | 2, 6 => rows2_6
  | 2, 7 => rows2_7
  | 3, 0 => rows3_0
  | 3, 1 => rows3_1
  | 3, 2 => rows3_2
  | 4, 0 => rows4_0
  | 4, 1 => rows4_1
  | 4, 2 => rows4_2
  | 5, 0 => rows5_0
  | 6, 0 => rows6_0
  | 6, 1 => rows6_1
  | 7, 0 => rows7_0
  | 7, 1 => rows7_1
  | 7, 2 => rows7_2
  | 8, 0 => rows8_0
  | 8, 1 => rows8_1
  | 63, 0 => rows63_0
  | _, _ => []

/-- The page, the major, the place in `rowsOf` and the operands of a map instruction; none for BSIG, POOL
and the device steps. -/
def Instr.key : Instr → Option (Nat × Nat × Nat × Ops)
  | .mov o => some (0, 0, 0, o)
  | .add o => some (0, 0, 1, o)
  | .sub o => some (0, 0, 2, o)
  | .and o => some (0, 0, 3, o)
  | .or o => some (0, 0, 4, o)
  | .xor o => some (0, 0, 5, o)
  | .andn o => some (0, 0, 6, o)
  | .shl o => some (0, 0, 7, o)
  | .shr o => some (0, 0, 8, o)
  | .sha o => some (0, 0, 9, o)
  | .rol o => some (0, 0, 10, o)
  | .slt o => some (0, 0, 11, o)
  | .sltu o => some (0, 0, 12, o)
  | .seq o => some (0, 0, 13, o)
  | .min o => some (0, 0, 14, o)
  | .max o => some (0, 0, 15, o)
  | .addi o => some (0, 1, 0, o)
  | .movi o => some (0, 2, 0, o)
  | .ld o => some (0, 3, 0, o)
  | .st o => some (0, 4, 0, o)
  | .beqz o => some (0, 5, 0, o)
  | .bnez o => some (0, 6, 0, o)
  | .br o => some (0, 7, 0, o)
  | .call o => some (0, 8, 0, o)
  | .mul o => some (0, 9, 0, o)
  | .mulh o => some (0, 9, 1, o)
  | .mulhu o => some (0, 9, 2, o)
  | .div o => some (0, 9, 3, o)
  | .divu o => some (0, 9, 4, o)
  | .rem o => some (0, 9, 5, o)
  | .remu o => some (0, 9, 6, o)
  | .minu o => some (0, 9, 7, o)
  | .maxu o => some (0, 9, 8, o)
  | .clz o => some (0, 9, 9, o)
  | .ctz o => some (0, 9, 10, o)
  | .popc o => some (0, 9, 11, o)
  | .abs o => some (0, 9, 12, o)
  | .neg o => some (0, 9, 13, o)
  | .bfx o => some (0, 9, 14, o)
  | .bfi o => some (0, 9, 15, o)
  | .vmov o => some (0, 10, 0, o)
  | .vadd o => some (0, 10, 1, o)
  | .vsub o => some (0, 10, 2, o)
  | .vmul o => some (0, 10, 3, o)
  | .vfma o => some (0, 10, 4, o)
  | .vmin o => some (0, 10, 5, o)
  | .vmax o => some (0, 10, 6, o)
  | .vand o => some (0, 10, 7, o)
  | .vor o => some (0, 10, 8, o)
  | .vxor o => some (0, 10, 9, o)
  | .vshl o => some (0, 10, 10, o)
  | .vshr o => some (0, 10, 11, o)
  | .vsha o => some (0, 10, 12, o)
  | .vbcst o => some (0, 10, 13, o)
  | .vneg o => some (0, 10, 14, o)
  | .vabs o => some (0, 10, 15, o)
  | .vld o => some (0, 11, 0, o)
  | .vst o => some (0, 12, 0, o)
  | .nop o => some (0, 13, 0, o)
  | .tend o => some (0, 13, 1, o)
  | .yield o => some (0, 13, 2, o)
  | .ret o => some (0, 13, 3, o)
  | .jmpr o => some (0, 13, 4, o)
  | .callr o => some (0, 13, 5, o)
  | .loopx o => some (0, 13, 6, o)
  | .phase o => some (0, 13, 7, o)
  | .fence o => some (0, 13, 8, o)
  | .bar o => some (0, 13, 9, o)
  | .waitany o => some (0, 13, 10, o)
  | .waitall o => some (0, 13, 11, o)
  | .ffr o => some (0, 13, 12, o)
  | .trap o => some (0, 13, 13, o)
  | .tclr o => some (0, 13, 14, o)
  | .ifnc o => some (0, 13, 15, o)
  | .bsig _ => none
  | .pool _ => none
  | .ldb o => some (1, 0, 0, o)
  | .ldbu o => some (1, 0, 1, o)
  | .ldh o => some (1, 0, 2, o)
  | .ldhu o => some (1, 0, 3, o)
  | .ldw o => some (1, 0, 4, o)
  | .ldwu o => some (1, 0, 5, o)
  | .ldd o => some (1, 0, 6, o)
  | .stb o => some (1, 0, 7, o)
  | .sth o => some (1, 0, 8, o)
  | .stw o => some (1, 0, 9, o)
  | .std o => some (1, 0, 10, o)
  | .lds o => some (1, 0, 11, o)
  | .sts o => some (1, 0, 12, o)
  | .lea o => some (1, 0, 13, o)
  | .pf o => some (1, 0, 14, o)
  | .ldp o => some (1, 0, 15, o)
  | .ldf o => some (1, 1, 0, o)
  | .ldfc o => some (1, 1, 1, o)
  | .stf o => some (1, 1, 2, o)
  | .sto o => some (1, 1, 3, o)
  | .sete o => some (1, 1, 4, o)
  | .tstf o => some (1, 1, 5, o)
  | .amoadd o => some (1, 2, 0, o)
  | .amoand o => some (1, 2, 1, o)
  | .amoor o => some (1, 2, 2, o)
  | .amoxor o => some (1, 2, 3, o)
  | .amomin o => some (1, 2, 4, o)
  | .amomax o => some (1, 2, 5, o)
  | .amominu o => some (1, 2, 6, o)
  | .amomaxu o => some (1, 2, 7, o)
  | .amoswp o => some (1, 2, 8, o)
  | .amocas o => some (1, 2, 9, o)
  | .amofadd o => some (1, 2, 10, o)
  | .amoinc o => some (1, 2, 11, o)
  | .amodec o => some (1, 2, 12, o)
  | .vdiv o => some (2, 0, 0, o)
  | .vsqrt o => some (2, 0, 1, o)
  | .vminu o => some (2, 0, 2, o)
  | .vmaxu o => some (2, 0, 3, o)
  | .vfms o => some (2, 0, 4, o)
  | .vfnma o => some (2, 0, 5, o)
  | .vcvt o => some (2, 0, 6, o)
  | .vsel o => some (2, 0, 7, o)
  | .vcmp fn o => some (2, 1, fn.val, o)
  | .vred fn o => some (2, 2, fn.val, o)
  | .vscan fn o => some (2, 3, fn.val, o)
  | .vperm o => some (2, 4, 0, o)
  | .vslup o => some (2, 4, 1, o)
  | .vsldn o => some (2, 4, 2, o)
  | .vcomp o => some (2, 4, 3, o)
  | .viota o => some (2, 4, 4, o)
  | .vgetl o => some (2, 4, 5, o)
  | .vsetl o => some (2, 4, 6, o)
  | .vlds o => some (2, 5, 0, o)
  | .vsts o => some (2, 5, 1, o)
  | .vgath o => some (2, 5, 2, o)
  | .vscat o => some (2, 5, 3, o)
  | .vldl o => some (2, 5, 4, o)
  | .vstl o => some (2, 5, 5, o)
  | .mand o => some (2, 6, 0, o)
  | .mor o => some (2, 6, 1, o)
  | .mxor o => some (2, 6, 2, o)
  | .mnot o => some (2, 6, 3, o)
  | .mpop o => some (2, 6, 4, o)
  | .mff o => some (2, 6, 5, o)
  | .mtox o => some (2, 6, 6, o)
  | .mfromx o => some (2, 6, 7, o)
  | .vsett o => some (2, 7, 0, o)
  | .vexp2 o => some (3, 0, 0, o)
  | .vlog2 o => some (3, 0, 1, o)
  | .vrcp o => some (3, 0, 2, o)
  | .vrsq o => some (3, 0, 3, o)
  | .vsin o => some (3, 0, 4, o)
  | .vcos o => some (3, 0, 5, o)
  | .vtanh o => some (3, 0, 6, o)
  | .gang o => some (3, 1, 0, o)
  | .disb o => some (3, 1, 1, o)
  | .gid o => some (3, 1, 2, o)
  | .pmrg o => some (3, 2, 0, o)
  | .pxch o => some (3, 2, 1, o)
  | .cpy o => some (4, 0, 0, o)
  | .cpys o => some (4, 0, 1, o)
  | .menq o => some (4, 1, 0, o)
  | .mqry o => some (4, 1, 1, o)
  | .mcan o => some (4, 1, 2, o)
  | .dcfg o => some (4, 2, 0, o)
  | .dqry o => some (4, 2, 1, o)
  | .fenter o => some (5, 0, 0, o)
  | .fleave o => some (5, 0, 1, o)
  | .fopen o => some (5, 0, 2, o)
  | .fjoin o => some (5, 0, 3, o)
  | .fpub o => some (5, 0, 4, o)
  | .fret o => some (5, 0, 5, o)
  | .fretOwn o => some (5, 0, 6, o)
  | .dget o => some (5, 0, 7, o)
  | .dgetSt o => some (5, 0, 8, o)
  | .dset o => some (5, 0, 9, o)
  | .faddr o => some (5, 0, 10, o)
  | .fadd o => some (6, 0, 0, o)
  | .fsub o => some (6, 0, 1, o)
  | .fmul o => some (6, 0, 2, o)
  | .fdiv o => some (6, 0, 3, o)
  | .fsqrt o => some (6, 0, 4, o)
  | .fmin o => some (6, 0, 5, o)
  | .fmax o => some (6, 0, 6, o)
  | .fabs o => some (6, 0, 7, o)
  | .fneg o => some (6, 0, 8, o)
  | .fsgnj o => some (6, 0, 9, o)
  | .fma o => some (6, 0, 10, o)
  | .fms o => some (6, 0, 11, o)
  | .fnma o => some (6, 0, 12, o)
  | .feq o => some (6, 1, 0, o)
  | .flt o => some (6, 1, 1, o)
  | .fle o => some (6, 1, 2, o)
  | .fclass o => some (6, 1, 3, o)
  | .fcvti o => some (6, 1, 4, o)
  | .fcvtu o => some (6, 1, 5, o)
  | .icvtf o => some (6, 1, 6, o)
  | .ucvtf o => some (6, 1, 7, o)
  | .fcvtf o => some (6, 1, 8, o)
  | .beq o => some (7, 0, 0, o)
  | .bne o => some (7, 0, 1, o)
  | .blt o => some (7, 0, 2, o)
  | .bge o => some (7, 0, 3, o)
  | .bltu o => some (7, 0, 4, o)
  | .bgeu o => some (7, 0, 5, o)
  | .loop o => some (7, 1, 0, o)
  | .loopi o => some (7, 1, 1, o)
  | .csrr o => some (7, 2, 0, o)
  | .csrw o => some (7, 2, 1, o)
  | .csrs o => some (7, 2, 2, o)
  | .csrc o => some (7, 2, 3, o)
  | .post o => some (8, 0, 0, o)
  | .spawn o => some (8, 0, 1, o)
  | .launch o => some (8, 0, 2, o)
  | .tcrd o => some (8, 0, 3, o)
  | .rwait o => some (8, 0, 4, o)
  | .homeq o => some (8, 0, 5, o)
  | .rld o => some (8, 1, 0, o)
  | .rst o => some (8, 1, 1, o)
  | .ramo o => some (8, 1, 2, o)
  | .rfill o => some (8, 1, 3, o)
  | .rstat o => some (8, 1, 4, o)
  | .eret o => some (63, 0, 0, o)
  | .eretR o => some (63, 0, 1, o)
  | .park o => some (63, 0, 2, o)
  | .kill o => some (63, 0, 3, o)
  | .scrub o => some (63, 0, 4, o)
  | .invva o => some (63, 0, 5, o)
  | .invasid o => some (63, 0, 6, o)
  | .wfe o => some (63, 0, 7, o)
  | .slotset o => some (63, 0, 8, o)
  | .resume o => some (63, 0, 9, o)
  | .resumeKill o => some (63, 0, 10, o)
  | .taskDispatch _ => none
  | .shareInterval => none
  | .preemptionSave _ => none
  | .imageSaveDone _ => none
  | .slotScrubDone _ _ => none
  | .registerFill _ _ => none
  | .weakLoadFault _ _ => none
  | .heldLoadFaultTrap _ => none
  | .weakStoreFault _ _ => none
  | .weakStorePerformed _ _ => none
  | .waitLimitExpiry _ => none
  | .yieldComplete _ => none
  | .wfeTimeout _ => none
  | .feWordStateChange _ => none
  | .pinnedLineUnpin _ _ => none
  | .claimSweepStart _ => none
  | .claimRequestArrival _ => none
  | .claimGrantArrival _ _ => none
  | .claimRelease _ => none
  | .deferredRequestAdmit _ => none
  | .postArrival _ => none
  | .regionAdmission _ => none
  | .launchResult _ _ _ => none
  | .regionComplete _ => none
  | .copyComplete _ => none
  | .matrixRecordIssue _ => none
  | .matrixRecordComplete _ _ => none
  | .partnerSumsArrival _ _ => none
  | .pairTimeout _ _ => none
  | .chainHoldTimeout _ _ => none
  | .indexBuildComplete _ => none
  | .stippleQueryReturn _ => none
  | .remoteReply _ _ _ => none
  | .rfillArrival _ => none
  | .rfillOutcome _ _ => none
  | .pxchDataArrival _ _ _ => none
  | .migrationSlotRequest _ => none
  | .migrationArrival _ _ => none
  | .pageGrowthFill _ _ _ => none
  | .fabricRequestArrival _ => none
  | .requestRetry _ _ => none
  | .packageLost _ => none
  | .lostNoticeArrival _ => none
  | .packageFence => none
  | .flitSlotReceive _ _ => none
  | .nakReplay _ => none
  | .linkRetrain _ => none
  | .linkDown _ => none
  | .keySwitchSend _ => none
  | .keyLow _ => none
  | .linkHold _ => none
  | .holdTimeout _ _ => none
  | .lctlDown _ _ => none
  | .lctlArm _ _ => none
  | .lkeyWrite _ _ => none
  | .fstatWrite _ => none
  | .vtypeWrite _ => none
  | .plumbWrite _ => none
  | .fabricWrite _ => none
  | .csrWrite _ _ _ => none
  | .launchDoorbell _ => none
  | .launchQueueEntry => none
  | .ownerWrite _ _ => none
  | .nextWrite _ _ => none
  | .mboxWrite _ _ => none
  | .dhaltWrite _ _ => none
  | .hostRegisterWrite _ _ _ => none
  | .hostAccess _ => none
  | .smbusRegisterWrite _ => none
  | .smbusRegisterRead _ => none
  | .eventQueueDrain => none
  | .measure => none
  | .openLineage => none
  | .sealAndContinue => none
  | .sealAndStop => none
  | .restore => none
  | .closeLineage => none
  | .ident => none
  | .counterAdvanceArrival _ => none
  | .counterAdvanceAck _ _ _ _ => none
  | .counterAdvanceResend _ _ => none
  | .packageReset _ => none
  | .freeze => none
  | .thermalTrip => none
  | .scanStart _ => none
  | .scanEnd _ _ => none
  | .coreRetirement _ => none
  | .correctedError _ _ _ _ => none
  | .uncorrectableError _ => none
  | .patrolRead _ _ _ => none
  | .strongAccessPerformed _ _ => none
  | .invalidationComplete _ => none
  | .scrubComplete _ => none
  | .linkUp _ _ _ => none
  | .powerLoss => none
  | .stewardMessage _ => none

end Sys2Proof
end

