-- ==== Sys2Proof/Machine/Encoding.lean ====
section
/-! DEFINITION. Fields, immediates and prefixes of the base word formats (R120 to R126), as numbers: what a
row's operands may hold, and the halfwords they are written as. -/

namespace Sys2Proof

/-- The control registers that exist (R153, Tables 8.5, 19.1, 22.4, 23.5, 25.3). -/
def csrExists (n : Nat) : Bool :=
  n ≤ 0x00C || (0x100 ≤ n && n ≤ 0x10D) || (0x400 ≤ n && n ≤ 0x403) || (0x440 ≤ n && n ≤ 0x443) ||
    (0x480 ≤ n && n ≤ 0x49F)

/-- Whether a signed or unsigned field of `w` bits holds `v`; a signed field of no bits holds 0 (R121). -/
def fits (w : Nat) (signed : Bool) (v : Int) : Bool :=
  if signed then
    if w = 0 then v = 0 else decide (-(2 : Int) ^ (w - 1) ≤ v ∧ v < (2 : Int) ^ (w - 1))
  else decide (0 ≤ v ∧ v < (2 : Int) ^ w)

/-- The value of a field of `w` bits read as Table 7.2 says. -/
def readField (w : Nat) (signed : Bool) (n : Nat) : Int :=
  if signed && decide (0 < w) && decide (2 ^ (w - 1) ≤ n % 2 ^ w) then (n % 2 ^ w : Int) - (2 : Int) ^ w
  else (n % 2 ^ w : Int)

/-- How a row reads its immediate (Table 7.2): the width of the base field and whether it is signed when
`n` IMM words extend it; none where no immediate is taken. -/
def Row.immForm (r : Row) : Option (Nat × (Nat → Bool)) :=
  match r.fmt with
  | .fi => if r.page = 7 then some (8, fun _ => false) else some (8, fun _ => true)
  | .fm => some (4, fun n => decide (0 < n))
  | .fb => some (8, fun _ => true)
  | .fj => some (12, fun _ => true)
  | .fx => match r.b with
    | .imm _ _ => some (4, fun _ => false)
    | .gang => some (4, fun _ => false)
    | _ => none
  | .f2 => if r.disp then some (0, fun _ => true) else none

/-- The scale of a displacement (Table 7.2). -/
def Row.scale (r : Row) : Int :=
  match r.fmt with
  | .fm => if r.major = 11 ∨ r.major = 12 then 128 else 8
  | _ => 1

/-- What the role of a field allows a register field of value `n` to be (R125, Table 10.3). -/
def Role.okNum : Role → Nat → Bool
  | .x, n => n < 64
  | .xn k, n => n ≤ k
  | .v, n => n < 16
  | .m, n => n < 8
  | .mh, n => n < 16
  | .num k, n => n ≤ k
  | .is k, n => n = k
  | .imm _ _, n => n = 0
  | .gang, n => n = 0

/-- What the role of field B allows the immediate to be. -/
def Role.okImm : Role → Int → Bool
  | .imm lo hi, i => decide ((lo : Int) ≤ i) && (match hi with | some h => decide (i ≤ h) | none => true)
  | .gang, i => i == 2 || i == 4 || i == 8
  | _, _ => true

/-- The values of Q a row takes (R128, R129). -/
def QRule.ok : QRule → BitVec 4 → Bool
  | .zero, q => q == 0
  | .any, _ => true
  | .sys, q => q.toNat / 4 == 3
  | .fp, q => q.toNat < 8
  | .fpx, q => q.toNat < 2
  | .sel, _ => true

/-- A field operand against its role (R126: a FRAME stands only for an x role). -/
def Role.okOpd (ρ : Role) : Opd → Bool
  | .r n => ρ.okNum n.val
  | .f _ _ => ρ == .x

/-- The number in a register field; a frame operand leaves 0 there (R126). -/
def Opd.num : Opd → Nat
  | .r n => n.val
  | .f _ _ => 0

/-- Register fields as numbers of their files (R125 keeps them in range). -/
def Opd.x : Opd → Fin 64
  | .r n => n
  | .f _ _ => 0
def Opd.v (p : Opd) : Fin 16 := Fin.ofNat 16 p.num
def Opd.m (p : Opd) : Fin 8 := Fin.ofNat 8 p.num
def Ops.cx (o : Ops) : Fin 64 := o.c.getD 0
def Ops.cv (o : Ops) : Fin 16 := Fin.ofNat 16 o.cx.val

def Opd.isFrame : Opd → Bool
  | .r _ => false
  | .f _ _ => true

/-- The least number of IMM words, up to four, with which an immediate fits a form. -/
def immCount (k : Nat) (sg : Nat → Bool) (v : Int) : Option Nat :=
  (List.range 5).find? (fun n => fits (10 * n + k) (sg n) v)

/-- The least number of IMM words before a FRAME for a slot (R124). -/
def slotCount (s : Nat) : Option Nat :=
  (List.range 5).find? (fun n => decide (s < 2 ^ (10 * n + 7)))

/-- `n` IMM words that hold the value `v`, most significant first (R121). -/
def immWords : Nat → Nat → List Half
  | 0, _ => []
  | n + 1, v => BitVec.ofNat 16 (0xF000 + v / 2 ^ (10 * n) % 1024) :: immWords n v

/-- A FRAME word with its IMM run (Table 7.3, R124). -/
def frameWords : Opd → List Half
  | .r _ => []
  | .f d s =>
    immWords ((slotCount s).getD 0) (s / 128) ++ [BitVec.ofNat 16 (0xFC00 + d.val * 128 + s % 128)]

/-- The immediate of the operands as the row's unscaled field value. -/
def Row.field (r : Row) (o : Ops) : Int := o.imm / r.scale

/-- The number of IMM words before the base word. -/
def Row.nimm (r : Row) (o : Ops) : Nat :=
  match r.immForm with
  | some (k, sg) => (immCount k sg (r.field o)).getD 0
  | none => 0

/-- The assembled field of `10 n + k` bits as a number. -/
def Row.fieldBits (r : Row) (o : Ops) : Nat :=
  match r.immForm with
  | some (k, _) => (r.field o % (2 : Int) ^ (10 * r.nimm o + k)).toNat
  | none => 0

/-- The base word (Table 7.1). -/
def Row.baseWord (r : Row) (o : Ops) : Half :=
  let a := o.a.num % 16
  let b := o.b.num % 16
  let i := r.fieldBits o
  let bb := match r.b with
    | .imm _ _ => i % 16
    | .gang => i % 16
    | _ => b
  BitVec.ofNat 16 <| r.major * 4096 + match r.fmt with
    | .f2 => r.sel.getD 0 * 256 + a * 16 + b
    | .fx => r.sel.getD 0 * 256 + a * 16 + bb
    | .fi => a * 256 + i % 256
    | .fm => a * 256 + b * 16 + i % 16
    | .fb => a * 256 + i % 256
    | .fj => i % 4096

/-- The width of the base field of the immediate. -/
def Row.immWidth (r : Row) : Nat :=
  match r.immForm with
  | some (k, _) => k
  | none => 0

/-- PAGE and REG words (Table 7.3). -/
def Row.pageWords (r : Row) (o : Ops) : List Half :=
  if r.page = 0 then [] else [BitVec.ofNat 16 (0xF800 + r.page * 16 + o.q.toNat)]

def regWords (o : Ops) : List Half :=
  match o.c with
  | some c => [BitVec.ofNat 16 (0xF400 + o.a.num / 16 * 256 + o.b.num / 16 * 64 + c.val)]
  | none => []

/-- The prefixes of an instruction in the canonical order (R123). -/
def Row.prefixes (r : Row) (o : Ops) : List Half :=
  r.pageWords o ++ regWords o ++ frameWords o.b ++ frameWords o.a ++
    immWords (r.nimm o) (r.fieldBits o / 2 ^ r.immWidth)

/-- The halfwords of a row's instruction. -/
def Row.encode (r : Row) (o : Ops) : List Half := r.prefixes o ++ [r.baseWord o]

/-- Whether the row takes these operands (R123 to R126, R128 to R130). -/
def Row.okOps (r : Row) (o : Ops) : Bool :=
  r.a.okOpd o.a && r.b.okOpd o.b && (!o.a.isFrame || o.b.isFrame) &&
  (match o.c with
    | some c => r.c.okNum c.val && r.reg != .no
    | none => decide (o.a.num < 16) && decide (o.b.num < 16) && r.reg != .req) &&
  r.q.ok o.q && r.b.okImm o.imm &&
  (if r.page = 7 ∧ r.major = 2 then csrExists o.imm.toNat else true)

/-- Whether the operands have an encoding of at most four prefixes in which no halfword is permanently
undefined (R123, R130). -/
def Row.encodable (r : Row) (o : Ops) : Bool :=
  (match r.immForm with
    | some (k, sg) => (immCount k sg (r.field o)).isSome && o.imm == r.field o * r.scale
    | none => o.imm == 0) &&
  (match o.a with | .f _ s => (slotCount s).isSome | .r _ => true) &&
  (match o.b with | .f _ s => (slotCount s).isSome | .r _ => true) &&
  decide ((r.prefixes o).length ≤ 4) && (r.page != 7 || BitVec.ofNat 4 (r.sel.getD 0) == o.q || r.q != .sel) &&
  (r.page != 0 || o.q == 0) && (r.encode o).all (fun h => h != 0x0000#16 && h != 0xFFFF#16)

end Sys2Proof
end

