-- ==== Sys2Proof/WellFormed.lean ====
section
/-! DEFINITION. Which instructions the encoding has: operands that their row takes and that some legal
prefix chain holds (R123 to R130). -/

namespace Sys2Proof

/-- A row's operands are well formed. -/
def Row.wf (r : Row) (o : Ops) : Bool := r.okOps o && r.encodable o

/-- An instruction that the opcode map can hold; the one-halfword words BSIG and POOL and the device's own
steps carry no operands to check. -/
def Instr.wf (i : Instr) : Bool :=
  match i.key with
  | some (p, m, j, o) => match (rowsOf p m)[j]? with
    | some r => r.wf o
    | none => false
  | none => true

end Sys2Proof
end

