-- ==== Sys2Proof/Decode.lean ====
section
/-! DEFINITION. Decoding halfwords into instructions, total on any halfwords (R118 to R131), and the
encoder written from the same tables. -/

namespace Sys2Proof

/-- What a run of halfwords decodes to. -/
inductive Decoded where
  /-- an instruction of `len` halfwords -/
  | ok (i : Instr) (len : Nat)
  /-- cause 0x01; the offending halfword, counted from the first (R130) -/
  | undefined (k : Nat)
  /-- the instruction needs halfword `k`, which is not there (R119) -/
  | missing (k : Nat)
  deriving DecidableEq, Repr

/-- What the prefixes of a chain have set so far (R122, R123). -/
structure Chain where
  count : Nat := 0
  page : Option (BitVec 6 × BitVec 4) := none
  reg : Option (BitVec 2 × BitVec 2 × BitVec 6) := none
  frames : List (Fin 8 × Nat) := []
  run : List (BitVec 10) := []
  deriving DecidableEq, Repr

/-- The value of an IMM run, first payload most significant (R121). -/
def runValue (run : List (BitVec 10)) : Nat := run.foldl (fun v p => v * 1024 + p.toNat) 0

/-- A register field widened by its REG bits (R125). -/
def widen (hi lo : Nat) : Fin 64 := Fin.ofNat 64 (hi * 16 + lo)

/-- The immediate that the chain and base word give a row, scaled (R121, Table 7.2); none where an IMM word
stands before a base word that takes none. -/
def Row.immOf (r : Row) (ch : Chain) (w : Half) : Option Int :=
  match r.immForm with
  | some (k, sg) =>
    let n := ch.run.length
    some (readField (10 * n + k) (sg n) (runValue ch.run * 2 ^ k + w.toNat % 2 ^ k) * r.scale)
  | none => if ch.run.isEmpty then some 0 else none

/-- Fields A and B of a base word as they stand in it; 0 where the format has none. -/
def Row.fieldA (r : Row) (w : Half) : Nat :=
  match r.fmt with
  | .f2 | .fx => w.toNat / 16 % 16
  | .fi | .fm | .fb => w.toNat / 256 % 16
  | .fj => 0

def Row.fieldB (r : Row) (w : Half) : Nat :=
  match r.fmt with
  | .f2 => w.toNat % 16
  | .fx => match r.b with
    | .imm _ _ => 0
    | .gang => 0
    | _ => w.toNat % 16
  | .fm => w.toNat / 16 % 16
  | .fi | .fb | .fj => 0

/-- Operands B and A after FRAME replacement (R126): the first FRAME replaces B, the second A, and a field
so replaced must be 0. -/
def replaceFrames (frames : List (Fin 8 × Nat)) (a b : Fin 64) : Option (Opd × Opd) :=
  match frames with
  | [] => some (.r a, .r b)
  | [(d, s)] => if b = 0 then some (.r a, .f d s) else none
  | (d, s) :: (d', s') :: _ => if b = 0 ∧ a = 0 then some (.f d' s', .f d s) else none

/-- The operands that a chain and base word give a row, if the row takes them (R123 point 4, R125, R126,
R128, R129). -/
def Row.assemble (r : Row) (ch : Chain) (w : Half) : Option Ops := do
  let (ah, bh) := match ch.reg with
    | some (a, b, _) => (a.toNat, b.toNat)
    | none => (0, 0)
  let imm ← r.immOf ch w
  let (a, b) ← replaceFrames ch.frames (widen ah (r.fieldA w)) (widen bh (r.fieldB w))
  let o : Ops := { q := (ch.page.map (·.2)).getD 0, a, b,
                   c := ch.reg.map (fun t => Fin.ofNat 64 t.2.2.toNat), imm }
  if r.okOps o && (match r.sel with
      | some s => (if r.page = 7 then o.q.toNat else w.toNat / 256 % 16) == s
      | none => true)
  then some o else none

/-- The instruction of a chain and its base word; none is an undefined encoding (R130). -/
def decodeBase (ch : Chain) (w : Half) : Option Instr :=
  let page := (ch.page.map (·.1.toNat)).getD 0
  (rowsOf page (w.toNat / 4096)).findSome? (fun r => (r.assemble ch w).map r.build)

/-- One prefix word added to a chain; none where it breaks points 1 or 2 of R123. -/
def Chain.add (ch : Chain) (w : Half) : Option Chain :=
  let n := w.toNat
  if ch.count = 4 then none
  else match n / 1024 % 4 with
    | 0 => some { ch with count := ch.count + 1, run := ch.run ++ [BitVec.ofNat 10 n] }
    | 1 => if ch.reg.isSome || !ch.run.isEmpty then none
           else some { ch with count := ch.count + 1,
                               reg := some (BitVec.ofNat 2 (n / 256), BitVec.ofNat 2 (n / 64), BitVec.ofNat 6 n) }
    | 2 => if ch.page.isSome || !ch.run.isEmpty then none
           else some { ch with count := ch.count + 1,
                               page := some (BitVec.ofNat 6 (n / 16), BitVec.ofNat 4 n) }
    | _ => if ch.frames.length = 2 then none
           else some { ch with count := ch.count + 1, run := [],
                               frames := ch.frames ++ [(Fin.ofNat 8 (n / 128),
                                                        runValue ch.run * 128 + n % 128)] }

/-- A prefix chain from its halfword `k` on (R122, R123, R130). -/
def decodeChain (ch : Chain) (k : Nat) : List Half → Decoded
  | [] => .missing k
  | w :: rest =>
    if w = 0x0000#16 ∨ w = 0xFFFF#16 then .undefined k
    else if w.toNat / 4096 = 15 then
      match ch.add w with
      | some ch' => decodeChain ch' (k + 1) rest
      | none => .undefined k
    else match decodeBase ch w with
      | some i => .ok i (k + 1)
      | none => .undefined k

/-- The instruction at the head of a run of halfwords. A BSIG word decodes here as an instruction of one
halfword; the issue consumes it with the instruction that follows (R134). -/
def decode (hs : List Half) : Decoded :=
  match hs with
  | [] => .missing 0
  | w :: _ =>
    if w.toNat / 4096 = 14 then
      if w.toNat / 2048 % 2 = 0 then .ok (.bsig (BitVec.ofNat 11 w.toNat)) 1
      else .ok (.pool (BitVec.ofNat 11 w.toNat)) 1
    else decodeChain {} 0 hs

/-- The halfwords of an instruction, in the canonical order of prefixes (R123); none for the device's own
steps, which have no words. -/
def encode (i : Instr) : List Half :=
  match i.key with
  | some (p, m, j, o) => match (rowsOf p m)[j]? with
    | some r => r.encode o
    | none => []
  | none => match i with
    | .bsig s => [BitVec.ofNat 16 (0xE000 + s.toNat)]
    | .pool n => [BitVec.ofNat 16 (0xE800 + n.toNat)]
    | _ => []

/-- The halfwords of an instruction that the opcode table writes as the number `w` of `n` words: the table puts
the word at the lowest address in the most significant bits (bits 31..16 of a two-word row are its PAGE
word). -/
def tableHalves : Nat → Nat → List Half
  | 0, _ => []
  | n + 1, w => BitVec.ofNat 16 (w / 65536 ^ n) :: tableHalves n w

/-- The halfwords in address order: where the least significant word is the prefix, the number counts its
words from the other end. -/
def tableOrder (nbits w : Nat) : List Half :=
  let hs := tableHalves (nbits / 16) w
  if w / 4096 % 16 = 15 then hs.reverse else hs

/-- The instruction the decoder reads from an instruction whose bits are `w`, numbered as the opcode table
numbers them. -/
def decodeTableWord (nbits w : Nat) : Option Instr :=
  let hs := tableOrder nbits w
  match decode hs with
  | .ok i len => if len = hs.length then some i else none
  | _ => none

end Sys2Proof
end

