-- ==== Sys2Proof/Config.lean ====
section
/-! DEFINITION. What the spec leaves open: free values, and the external standards the spec names.
Every constant here is opaque: nothing can evaluate it or prove a value of it. -/

namespace Sys2Proof.Config

/-- Which of the due steps goes next, or (a value at or above their number) whether a thread issues
first; drawn afresh at each step (log 3). -/
opaque schedule : Nat → Nat

/-- How late the device acts on a timeout stated in µs or ms, of which R4 allows a microsecond (log 52). -/
opaque lateness : Nat → Nat

/-- How many newer stores a weak load passes over, among those R91 allows it to (log 6). -/
opaque weakPick : Nat → Nat

/-- Which waiter of an F/E word is served first, an order R73 does not promise (log 7). -/
opaque fePick : Nat → Nat

/-- Which of the eligible slots a RESUME takes (R310, log 25). -/
opaque slotPick : Nat → Nat

/-- Which of the old cached leaves that stand beside a changed table an access uses; a value at or above their number is
the table's own (R334, log 8). -/
opaque oldLeaf : Nat → Nat

/-- Which of the two translation units of its die caches a leaf of an ASID and VA (Table 1.2, R334, log 36). -/
opaque unitOf : BitVec 16 → BitVec 64 → Bool

/-- Which line of a full instruction cache gives way (log 16). -/
opaque lineOut : Nat → Nat

/-- Whether a pending access of a killed thread is aborted rather than performed (R58, R168, log 17). -/
opaque aborted : Nat → Bool

/-- Whether a row before the failing one is written by a record whose output fails (R232, log 23). -/
opaque rowKept : Nat → Bool

/-- A word the spec leaves undefined: Stipple index contents, results of queries on an undefined
index, buffer slots after a query error, synonym reads (R236, R237, R239, R336, log 9). -/
opaque freeWord : Nat → Nat → BitVec 64

/-- The draw from which on a package of which this one has heard nothing has joined the fabric (R343, log 24). -/
opaque joinsAt : BitVec 16 → Nat

/-- The bytes of a request or reply in the payloads of its flits, a layout that the spec does not give (R346, R350, log
50). -/
opaque wireBytes : Payload → List (BitVec 8)

/-- The numbers of the virtual channels, all different (R345, R350, log 50): requests, replies, detoured requests, detoured
replies, the rest. -/
opaque channel : Equiv.Perm (BitVec 3)

/-- Rows of the adjacency map held by another package: ASID, element id, draw to the ids in order, each read or the VA
that failed (R43, log 11). -/
opaque remoteRow : Nat → BitVec 64 → Nat → List (Except (BitVec 64) (BitVec 64))

/-- How many idle flits a transmitter sends in a clock, and before it (R350, log 26). -/
opaque idleSlots : Nat → Nat

/-- Whether a scan finds the signatures of its pattern right (R366, log 27). -/
opaque scanPass : Nat → Bool

/-- Whether a SEAL that has committed ends before further acknowledgements reach it (R373, log 28). -/
opaque sealEnds : Nat → Bool

/-- The value of the two ADDR strap pins (R385). -/
opaque addrStrap : BitVec 2

/-- The NODE of the package with a serial, which the spec gives no way to find (R374, log 29). -/
opaque peerNode : BitVec 128 → Option (BitVec 16)

/-- The secret part of the vendor root's XMSS key (R369, log 12). -/
opaque rootSecret : BitVec 768

/-- What the fuses hold of firmware: the hash of its key and the least image version (R380). -/
opaque firmwareHash : BitVec 512
opaque firmwareMin : Nat

/-- The secret part of the identity key of the package with a serial, and the leaf with which the vendor root signed its
certificate (R369, log 12). -/
opaque identSecret : BitVec 128 → BitVec 768
opaque identLeaf : BitVec 128 → BitVec 20

/-- The seeds of the package's own ML-KEM-1024 key, and its serial (R369, log 12). -/
opaque kemSecret : BitVec 512
opaque serial : BitVec 128

/-- A fresh 256-bit key, IV or seed drawn by the seal engine (R373, log 12). -/
opaque freshKey : Nat → BitVec 256

/-- The device's own encoding of what only it reads and writes in a context image, for which the spec gives no layout: 896
bytes of CONT (R302, R376, log 13). -/
opaque contCode : Equiv.Perm (BitVec 7168)

end Sys2Proof.Config
end

