-- ==== Sys2Proof/Machine/State.lean ====
section
/-! DEFINITION. The state of one package as plain data, and the state after package reset. Comments name the
rule of spec/ that gives each piece; INVENTORY.md lists them with their reset values. -/

namespace Sys2Proof.Machine

/-- A sparse table by number: keys strictly rising. -/
abbrev Tab (α : Type) := List (Nat × α)

/-- Why the machine stands still. -/
inductive Fault where
  /-- Every clock is stopped by FREEZE or a thermal trip, and only a package reset leaves that (R381, R382).
  Raised by the step when no reset is due. Safe: the spec says nothing advances. -/
  | frozen
  /-- The package has no power (R377). Raised by the step when no reset is due. Safe, as above. -/
  | powerOff
  deriving DecidableEq, Repr

/-- Why the model gives an instruction no meaning. -/
inductive Refusal where
  /-- An instruction of the opcode table without a meaning yet, by its mnemonic; raised by Dispatch alone.
  Safe: no claim about it can be proved. -/
  | notModelled (mnemonic : String)
  deriving DecidableEq, Repr

/-- The privilege level of a context (R290). -/
inductive Level where
  | user | sup
  deriving DecidableEq, Repr

/-- Running, parked or out of rotation (Table 2.2); the Trap state is TSTAT.TRAP. -/
inductive Run where
  | running | parked | away
  deriving DecidableEq, Repr

/-- The kinds of wait of R27, in the order of its table; `none` is a park that counts no wait. -/
inductive WaitKind where
  | reg | fe | tag | barrier | region | deque | phase | none
  deriving DecidableEq, Repr

/-- A wait in progress: kind, object (TVAL), and the clock in which it began. -/
structure Wait where
  kind : WaitKind
  obj : Word
  start : Nat
  deriving DecidableEq, Repr

/-- An agent of the memory model (R83): a context (kept across saves and migrations, R87), an engine's
piece of work, the device's own accesses, the host, or a peer package. -/
inductive Agent where
  | thread (cid : Nat)
  | engine (id : Nat)
  | device
  | host
  | peer (node : BitVec 16)
  /-- The instruction fetches of a context: what they must return since its last IFNC (R99). -/
  | fetch (cid : Nat)
  /-- The walks for a page of an ASID, given by its size in bits: what they must read since the INVVA or INVASID that ended
  last (R334). -/
  | walks (asid : BitVec 16) (va : Word) (size : Nat)
  deriving DecidableEq, Repr

/-- A scope (Table 5.1) and the core from which it is named: none for an agent of no core, 1024 + c for an engine of
cluster c, which belongs to no core instance (R83). -/
structure Mark where
  scope : Nat
  core : Option Nat
  deriving DecidableEq, Repr

/-- The mapping of an access (R336): ASID, the VA of its first byte, and whether the page has NC = 1 and may be written. -/
structure Via where
  asid : BitVec 16
  va : Word
  nc : Bool
  w : Bool
  deriving DecidableEq, Repr

/-- One store in coherence order (R86): where, what it replaced, by whom, the releases that cover it (R88),
whether it was strong and at what scope (R89), the agents whose floor has reached it (R91), the engine whose completion
it tells, where it is that of a counter (R88), and the mapping through which it was made, while that stands (R336). -/
structure Record where
  key : Nat
  old : List Byte
  auth : List Agent
  seq : Nat
  rel : List Mark
  strong : Option Mark
  seen : List Agent
  tells : Option Agent := none
  via : Option Via := none
  deriving DecidableEq, Repr

/-- Where the data of a weak load goes: an x register with its extension, a vector register by elements of
`w` bits (zeroing or merging the others), or the instruction that reads a frame slot (R139). -/
inductive LoadDst where
  | x (r : Fin 64) (signed : Bool)
  | v (r : Fin 16) (w : Nat) (zero : Bool)
  | operand
  deriving DecidableEq, Repr

/-- Registers named together: bit masks over x, v, m and D, and VTYPE. -/
structure RegSet where
  x : BitVec 64 := 0
  v : BitVec 16 := 0
  m : BitVec 8 := 0
  d : BitVec 8 := 0
  vtype : Bool := false
  deriving DecidableEq, Repr

/-- A weak load not yet performed (R172): its place in program order, the elements it reads (element
number, VA, and the key of an explicit level), its destination and the inputs that R295 locks. -/
structure PLoad where
  id : Nat
  seq : Nat
  pc : Word
  n : Nat
  elems : List (Nat × Word × Option Nat)
  dst : LoadDst
  inputs : RegSet
  deriving DecidableEq, Repr

/-- A weak store not yet performed: the elements it has still to write, in order, and the first that failed, with whether for
want of frames (R98, R211). -/
structure PStore where
  id : Nat
  seq : Nat
  elems : List (Word × Option Nat × List Byte)
  fault : Option (Word × Bool)
  deriving DecidableEq, Repr

/-- A strong operation not yet performed (R172, R92). -/
inductive StrongOp where
  | load
  | store (w : Word)
  | amo (fn : Nat) (w : Word) (cas : Word)
  deriving DecidableEq, Repr

/-- A strong operation on its way: its place in program order, address and core at issue, its key, its destination (a
frame slot where `frame` holds), its acquire, and whether the thread is held until it is performed. -/
structure PStrong where
  id : Nat
  seq : Nat
  pc : Word
  core : Nat
  op : StrongOp
  va : Word
  key : Nat
  dst : Fin 64
  acq : Bool
  scope : Nat
  hold : Bool
  frame : Bool
  deriving DecidableEq, Repr

/-- An outer-frame write not yet performed (R97), with its core at issue. -/
structure POut where
  id : Nat
  seq : Nat
  core : Nat
  va : Word
  key : Nat
  val : Word
  deriving DecidableEq, Repr

/-- A held load fault (R296, R298). -/
structure LFault where
  seq : Nat
  pc : Word
  va : Word
  pool : Bool
  dst : LoadDst
  inputs : RegSet
  deriving DecidableEq, Repr

/-- A weak store that failed at its home die (R98). -/
structure SFault where
  seq : Nat
  va : Word
  pool : Bool
  deriving DecidableEq, Repr

/-- The plumb checker's block state (R362). -/
structure Blk where
  c : BitVec 11 := 0
  e : BitVec 11 := 0
  valid : Bool := false
  deriving DecidableEq, Repr

/-- A hardware loop (R149) with the block state it keeps (R363). -/
structure Loop where
  start : Word
  stop : Word
  left : Word
  blk : Blk
  deriving DecidableEq, Repr

/-- A wait at the array for an F/E word (R71): the operation's function, its key and VA, data and destination,
and its acquire. -/
structure FeWait where
  fn : Nat
  key : Nat
  va : Word
  val : Word
  dst : Fin 64
  acq : Bool
  scope : Nat
  frame : Bool
  deriving DecidableEq, Repr

/-- A request outstanding on the fabric or at home for RLD, RST or RAMO (R191, R192); its result goes to a frame slot
where `frame` holds. `was` tells whether the destination was full, which a failure puts back (R193), and `core` is that of
the thread at issue (R84). -/
structure RemoteOp where
  core : Nat
  dst : Fin 64
  va : Word
  write : Bool
  acq : Bool
  frame : Bool
  was : Bool
  deriving DecidableEq, Repr

/-- What an unanswered request came from (R346). -/
inductive Origin where
  | thread (cid : Nat)
  | rfill (cid : Nat)
  | copy (id : Nat)
  | sweep (id : Nat)
  | grant (r : ClaimReq)
  | advance (peer lineage : BitVec 128)
  | post (region : Nat) (elem : Word)
  | other
  deriving DecidableEq, Repr

/-- Why a thread is killed: what its fault record says beside its identity (R305). -/
structure Kill where
  reason : Nat
  cause : Nat := 0
  double : Bool := false
  epc : Word := 0
  val : Word := 0
  lpc : Word := 0
  aux : Word := 0
  ident : Option Word := none
  deriving DecidableEq, Repr

/-- The fields of a fault record (Table 19.6); those that a reason does not use hold 0. -/
structure FRec where
  reason : Nat
  cause : Nat := 0
  imgv : Bool := false
  sys : Bool := false
  again : Bool := false
  double : Bool := false
  ndisc : Nat := 0
  epc : Word := 0
  val : Word := 0
  lpc : Word := 0
  ident : Word := 0
  coord : Word := 0
  aux : Word := 0
  img : Word := 0
  dva : List Word := []
  deriving DecidableEq, Repr

/-- A save that has been asked of a context (R300 row 7): image slot, STATE it is to get, who asked for a
PARK, the queue that takes the slot after a pre-emption (R326), whether the context has stopped issuing for it, and
the clock of the request (R301). -/
structure SaveReq where
  img : Word
  state : Nat
  parker : Option Nat
  queue : Option (BitVec 4)
  written : Bool
  asked : Nat
  deriving DecidableEq, Repr

/-- A query handed to the Stipple (R238), with the key of its descriptor and the index that this named then (R237). -/
structure Query where
  id : Nat
  buf : Word
  desc : Word
  param : Word
  vl : Nat
  core : Nat
  place : Option Nat
  index : Option Nat
  deriving DecidableEq, Repr

/-- A thread context (R301, Table 19.5): registers, control registers, and its work in flight. `npc`, `cid`,
`seq`, `got`, `feed`, `sig`, `lone`, `stage`, `replay`, `answer` and `done` are the model's own: the address after the
instruction being issued, the context's number, its place in program order, frame slots already read, the plumb record
of the instruction, the BSIG word consumed with it, whether the instruction before was a BSIG of its own (R134), how far a
parked instruction has come, the resume address of a replayed load, the result that a parked instruction takes when it
issues again, and the finished copies whose tags it has not yet observed. `doom` is a kill that waits for the debug halt of
its die to end (R300), with whether the region's policy follows; `pxch` lists the exchanges whose data it still waits for:
k, the partner's slot and the register (R218); `landed` holds from its arrival by a migration until its access there
completes (R342), and `ifnc` is the number taken at its last IFNC, 0 before any (R99). -/
structure Ctx where
  cid : Nat
  inc : BitVec 16
  task : Nat
  region : Nat
  pc : Word
  npc : Word
  x : Vector Word 64
  v : Vector VWord 16
  m : Vector MWord 8
  xfe : BitVec 64
  vfe : BitVec 16
  mfe : BitVec 8
  pend : RegSet
  rfq : List (Fin 64 × Word)
  d : Vector Word 8
  j : BitVec 8
  o : BitVec 8
  loops : List Loop
  vtype : Word
  cb : Word
  te : Word
  wlim : Word
  gstat : Word
  rstat : Word
  icount : Word
  plumb : Word
  tstat : Word
  tepc : Word
  tcause : Word
  tval : Word
  tlpc : Word
  tscr : Vector Word 4
  evt : Word
  level : Level
  run : Run
  wait : Option Wait
  tags : BitVec 64
  seq : Nat
  loads : List PLoad
  stores : List PStore
  strong : Option PStrong
  outer : List POut
  lfaults : List LFault
  sfaults : List SFault
  got : List (Nat × Word)
  blk : Blk
  kept : Blk
  feed : Option (BitVec 35)
  sig : Option (BitVec 11)
  lone : Bool
  fe : Option FeWait
  barrier : Option (Nat × BitVec 8)
  yieldTo : Option Nat
  wfeStart : Option Nat
  remote : Option RemoteOp
  query : Option Query
  mig : Option Nat
  stage : Nat
  replay : Option Word
  answer : Option Word
  done : List (Nat × Nat)
  save : Option SaveReq
  doom : Option (Kill × Bool)
  pxch : List (Nat × Nat × Fin 16)
  landed : Bool
  ifnc : Nat
  deriving DecidableEq, Repr

/-- A barrel slot (R24): the queue-owner field, HELD and FIXED (R312), the incarnation counter (R15), the two exchange
entries, each with the context that sent its data and its register that waits (R218), the region of the context that a
reservation for a migration waits for (R341), the Scrub state with the region of the context that was there, the first
clock that the slot's present state takes, and its context. -/
structure Slot where
  owner : BitVec 4 := 0
  held : Bool := false
  fixed : Bool := false
  inc : BitVec 16 := 0
  xchg0 : Option (Nat × Fin 16 × VWord) := none
  xchg1 : Option (Nat × Fin 16 × VWord) := none
  reserved : Option Nat := none
  scrub : Bool := false
  scrubOf : Nat := 0
  freed : Nat := 0
  ctx : Option Ctx := none
  deriving DecidableEq, Repr

/-- A task (R17): its binding, the claims it holds by its sweep, its stack range, and how many contexts of
its gang and helpers still run (R31); those that have ended, whether one was killed, the outer frames that
wait for the last TEND (cluster, frame table entry, owner), and the remote stores of killed members that are not yet
answered, each with the frames that are released after them (R58, R303). `late` is the record of a killed last member that
its task's end writes, with AGAIN as it then stands (R56, R305). -/
structure Task where
  id : Nat
  region : Nat
  coord : Word
  spawned : Bool
  again : Bool
  sweep : Option Nat
  stk : Option Nat
  start : Nat
  members : Nat
  past : List Nat
  killed : Bool
  frames : List (Nat × Nat × Bool)
  out : List (List Origin × List (Nat × Nat × Bool))
  late : Option FRec := none
  deriving DecidableEq, Repr

/-- A saved context (R301): the image slot, its STATE, name and CYCLE when saved, its order of saving, the bytes
last written to the image, and the part of it that only the device reads and writes (CONT of Table 19.5),
kept as the context itself. -/
structure Saved where
  asid : BitVec 16
  img : Word
  state : Nat
  name : Nat
  stamp : Nat
  order : Nat
  image : List Byte
  ctx : Ctx
  deriving DecidableEq, Repr

/-- A spawned record (R32), with a number of the model's own. -/
structure Spawn where
  id : Nat
  region : Nat
  entry : Word
  x5 : Word
  x6 : Word
  x7 : Word
  x8 : Word
  deriving DecidableEq, Repr

/-- A region (R316): the device's copy of its effective RCB as 32 words, its place in the tree, its progress and what
RWAIT reports of it. `nextRec` counts the records enqueued, from 1 (R227). `stuck` lists the tasks whose first page could
not grow (R258): the die, the task (0 for the next tile, else the number of the sweep or spawned record), the stack range
it keeps, and whether it has been tried in this share interval. `loose` names the agents whose stores no other release
covers before the region's completion (R21). -/
structure Region where
  id : Nat
  rcb : Vector Word 32
  asid : BitVec 16
  rcbva : Word
  level : Nat
  parent : Option Nat
  cookie : BitVec 32
  live : Bool
  halted : Nat
  faulted : Bool
  lost : Nat
  tiles : Vector Nat 4
  stk : List Nat
  spill : Vector (List Spawn) 4
  nextRec : Nat
  noSave : List Nat
  loose : List Agent
  stuck : List (Nat × Nat × Nat × Bool)
  still : Bool
  deriving DecidableEq, Repr

/-- A launch whose RCB has been read and that awaits admission (R320): from a LAUNCH (the context and its
destination) or a queue entry. -/
structure Launch where
  id : Nat
  asid : BitVec 16
  rcbva : Word
  rcb : Option (Vector Word 32)
  parent : Option Nat
  user : Bool
  cookie : BitVec 32
  cid : Option Nat
  reg : Fin 64
  entry : Option Nat
  bad : Bool
  deriving DecidableEq, Repr

/-- A halfword of a core's instruction cache: where it was fetched, what was read, and the number at its fill. -/
structure Cached where
  asid : BitVec 16
  va : Word
  half : Half
  stamp : Nat
  deriving DecidableEq, Repr

/-- A core (R12): the deque of spawned records, youngest first (R32); s0 to s7 with the writes that may still be less than
three clocks old, youngest first (R28): clock, register and the value it replaced; the instruction cache,
youngest fill first, of at most 512 lines of 128 bytes (Tables 1.2 and 4.6, log 16); a scan (R366). The spec gives s0 to s7 no reset value: 0 is a DESIGN CHOICE (log 5). -/
structure CoreSt where
  deque : List Spawn := []
  s : Vector Word 8 := Vector.replicate 8 0
  sWrites : List (Nat × Fin 8 × Word) := []
  icache : List Cached := []
  scan : Option Nat := none
  present : Bool := true
  deriving DecidableEq, Repr

/-- An entry of a cluster's frame table (R159). -/
structure FrameEnt where
  live : Bool := false
  kind : Nat := 0
  core : Nat := 0
  base : Nat := 0
  size : Nat := 0
  count : BitVec 18 := 0
  orel : Bool := false
  gen : BitVec 12 := 0
  deriving DecidableEq, Repr

/-- A cluster barrier (R182). -/
structure Barrier where
  n : Nat := 0
  a : Nat := 0
  g : BitVec 8 := 0
  deriving DecidableEq, Repr

/-- A copy descriptor (Table 11.3): source, destination, remote nodes, FILL, run length and the outer
dimensions (count, source stride, destination stride). -/
structure CopyDesc where
  dst : Word
  src : Word
  dnode : Option (BitVec 16)
  snode : Option (BitVec 16)
  fill : Bool
  len0 : Nat
  dims : List (Nat × Int × Int)
  deriving DecidableEq, Repr

/-- An index descriptor (Table 11.10). -/
structure IndexDesc where
  pts : Word
  count : Nat
  pstr : Nat
  idx : Word
  idxsz : Word
  deriving DecidableEq, Repr

inductive CopyKind where
  | copy (d : CopyDesc)
  | index (d : IndexDesc)
  deriving DecidableEq, Repr

/-- An entry of a cluster's Trowel queue (R77, R221, R237); `pos` counts the runs of a copy with another package
that are done, `out` marks the request that is without its reply, and `cov` holds the bytes written so far of
destination words that are not yet whole, `stop` the failure that ends the copy behind the request on its way, and `back`
what the last reply brought: bytes, how many were done, and the status. -/
structure Copy where
  id : Nat
  clus : Nat
  core : Nat
  cid : Nat
  name : BitVec 14
  inc : BitVec 16
  task : Nat
  region : Nat
  asid : BitVec 16
  tag : Nat
  desc : Option Word
  seq : Nat
  kind : CopyKind
  pos : Nat
  out : Bool
  cov : List (Nat × Nat)
  stop : Option (Nat × Word)
  back : Option (List Byte × Nat × Nat)
  deriving DecidableEq, Repr

/-- A Stipple index (R236): the DCFG that built it, the key of its descriptor, the kept points with their index numbers,
and the keys of its area (start and length); `ok` falls when a store makes it undefined (R237). -/
structure Index where
  id : Nat
  place : Nat
  area : List (Nat × Nat)
  ok : Bool
  points : List (BitVec 32 × BitVec 32 × BitVec 32 × Nat)
  deriving DecidableEq, Repr

/-- The progress of a matrix record (Table 11.8); whether one that waits is ready follows from its predecessors. -/
inductive RecState where
  | waiting | running | complete
  deriving DecidableEq, Repr

/-- A matrix record (R225, R227): its 16 words, the context that enqueued it with its name, incarnation and core, its
cluster, its scheduler's die, its state and outcome, the Roller it ran on, the bank it used with the record that
loaded that bank, its accumulators, the keys of input lines not yet pinned (R81), its partner's sums, and whether it has
reached its drain (R231). `order` is its place in the order of enqueues, and `issued` the number that it took at its issue,
from which it owns its output lines (R96). -/
structure MRec where
  region : Nat
  id : Nat
  words : Vector Word 16
  va : Word
  cid : Nat
  name : Nat
  inc : BitVec 16
  core : Nat
  clus : Nat
  die : Nat
  order : Nat
  issued : Option Nat
  state : RecState
  code : Nat
  pcode : Nat
  roller : Option Nat
  bank : Option (Nat × Nat)
  acc : List (List Nat)
  lines : List Nat
  sums : Option (List (List Nat))
  drain : Bool
  deriving DecidableEq, Repr

/-- A weight bank (R229): the record that loaded it (by its order), WF, the rows of weights and the scales. -/
structure Bank where
  loader : Nat
  wf : Nat
  rows : List (List Byte)
  scales : List Int
  deriving DecidableEq, Repr

/-- A Roller: two banks, the one loaded last, the record it runs, and the drain it holds for the continuation of a
record (all by their order, R230). -/
structure Roller where
  bank0 : Option Bank := none
  bank1 : Option Bank := none
  last : Nat := 1
  busy : Option Nat := none
  drain : Option (Nat × List (List Nat)) := none
  deriving DecidableEq, Repr

/-- A claim entry (Table 3.6) with its FIFO (R51), the claims now held on it (R60), and the regions recorded with
PEND and AGAIN (R56). -/
structure Entry where
  pend : Bool := false
  run : Bool := false
  again : Bool := false
  xh : Bool := false
  scnt : Nat := 0
  fifo : List ClaimReq := []
  held : List ClaimReq := []
  pendRegion : Nat := 0
  againRegion : Nat := 0
  wasAgain : Bool := false
  deriving DecidableEq, Repr

/-- An exclusion group on this package (R47): header fields, live count, entries, the pending elements
(R55) and deferred requests (R54) with their places in the order of the package, and items held until the table is
live, a POST with the sequence id of its request (R284). -/
structure Group where
  key : GroupKey
  live : Nat
  ever : Bool
  offs : Word
  ids : Word
  count : Nat
  kind : Nat
  rad : Nat
  nx : Nat
  ny : Nat
  nz : Nat
  entries : Tab Entry
  pending : List (Nat × Nat)
  deferred : List (Nat × ClaimReq)
  heldReq : List (Sum ClaimReq (PostMsg × BitVec 32))
  deriving DecidableEq, Repr

/-- A claim sweep (R50): its die, region, element, claim set in ascending id (true for X) with the next
place, and whether all is granted; the claims it holds are the places before `next`. `stamp` is the place that its
element had in the pending order. -/
structure Sweep where
  id : Nat
  die : Nat
  region : Nat
  elem : Nat
  grp : GroupKey
  set : List (Word × Bool)
  next : Nat
  granted : Bool
  dispatched : Bool
  again : Bool
  killed : Bool
  stamp : Nat
  deriving DecidableEq, Repr

/-- The host register block (Table 25.1), how many of the steps of R380 each die's firmware has done, when the latest debug
halt began (R27, R383), and one past the clock of the host's latest write of OWNER (R379). -/
structure HostRegs where
  next : BitVec 2 := 0
  viol : Bool := false
  dbgen : Bool := false
  own : BitVec 2 := 0
  lqbase : Word := 0
  lqsize : Nat := 0
  lqhead : BitVec 32 := 0
  lqtail : BitVec 32 := 0
  eqbase : Word := 0
  eqsize : Nat := 0
  eqhead : BitVec 32 := 0
  eqtail : BitVec 32 := 0
  mbox : List Word := []
  bootst : Vector (BitVec 8) 4 := Vector.replicate 4 0
  booted : Vector Nat 4 := Vector.replicate 4 0
  irqv : Word := 0
  dhalt : BitVec 4 := 0
  haltAt : Nat := 0
  hostAt : Nat := 0
  deriving DecidableEq, Repr

/-- An event entry (Table 23.4), and where its die holds it, its place in the arrival order of the held ones (R365). -/
structure Event where
  type : Nat
  die : Nat
  count : Nat := 1
  cookie : BitVec 32 := 0
  source : Word := 0
  val : Word := 0
  lost : Nat := 0
  seq : Nat := 0
  deriving DecidableEq, Repr

/-- A die: the cached leaves of the translation units of its two memory stacks (R334, Table 1.2; log 36 for which unit holds
which), ASIDTB (R384), held events (R365), the interrupts raised to its steward (R356,
R359), and the clock at which its debug halt began with the timeouts that stand still meanwhile (R383). -/
structure DieSt where
  tlb : List (BitVec 16 × Word × Nat × Word) := []
  asidtb : Word := 0
  held : List Event := []
  errIrq : Bool := false
  keyIrq : Bool := false
  haltAt : Nat := 0
  stopped : List (Nat × Ev) := []
  deriving DecidableEq, Repr

/-- The state of a link (R351, R355, R356). -/
inductive LinkState where
  | down | retraining | up
  deriving DecidableEq, Repr

/-- A flit (R350): its virtual channel, what it carries, and how many bytes of that have gone in flits before it. -/
structure Wire where
  vc : BitVec 3
  off : Nat
  payload : Payload
  deriving DecidableEq, Repr

/-- A flit slot as a transmitter has put it on its line: counter value, key and its generation (R352), the retry fields of
Table 22.2, and the flit. -/
structure Sending where
  counter : Nat
  key : BitVec 256
  gen : BitVec 8
  rseq : BitVec 12
  rack : BitVec 12
  nak : Bool
  flit : Wire
  deriving DecidableEq, Repr

/-- A Scaffold port (R350 to R357): link CSRs, keys, counters, retry layer and waiting flits; the replay buffer holds each
flit with its sequence. `part` is a request or reply of which later flits are still to come, `early` the sequence of a
key-switch flit acted on ahead of its turn (R354), and `line` the slots sent in the present clock. `met` tells whether the
link has been up since the reset, and `redo` whether the training has completed a switch of the peer whose key-switch flit is
still to be replayed (R357). -/
structure Port where
  link : LinkState := .down
  sgen : BitVec 8 := 0
  down : Bool := false
  arm : Bool := false
  agen : BitVec 8 := 0
  peer : Bool := false
  hold : Bool := false
  holdStart : Nat := 0
  klow : Bool := false
  txc : Nat := 0
  rxc : Nat := 0
  keyWords : List Word := []
  key : BitVec 256 := 0
  rxKey : BitVec 256 := 0
  rxGen : BitVec 8 := 0
  rseq : BitVec 12 := 0
  rnext : BitVec 12 := 0
  replay : List (BitVec 12 × Wire) := []
  naks : Nat := 0
  nakDue : Bool := false
  queue : List Wire := []
  part : Option Payload := none
  early : Option (BitVec 12) := none
  line : List Sending := []
  met : Bool := false
  redo : Bool := false
  deriving DecidableEq, Repr

/-- A request without a reply (R346, R348). -/
structure Sent where
  dest : BitVec 16
  req : Request
  origin : Origin
  deriving DecidableEq, Repr

/-- The fabric side of the package: the FABRIC register, whether it has joined, the join number, counters, requests sent
and waiting, payloads held for want of a route (each with whether it is detoured and the port it came in by), replies kept per source with their join number, packages that have joined
or are lost, and whether it has fenced itself (R343 to R348). -/
structure Fabric where
  reg : Word := 0
  joined : Bool := false
  join : BitVec 32 := 0
  seqs : Tab (BitVec 32) := []
  sent : List Sent := []
  waiting : List Sent := []
  transit : List (Payload × Bool × Option (Fin 8)) := []
  joins : Tab (BitVec 32) := []
  replies : List (BitVec 16 × BitVec 32 × Reply) := []
  present : List (BitVec 16) := []
  lost : List (BitVec 16) := []
  fenced : Bool := false
  deriving DecidableEq, Repr

/-- A lineage slot (R372). -/
structure Lineage where
  id : BitVec 128
  asid : BitVec 16
  meas : BitVec 512
  counter : BitVec 40
  deriving DecidableEq, Repr

/-- A record-table entry (R372). -/
structure LineRec where
  id : BitVec 128
  counter : BitVec 40
  taken : Option (BitVec 40)
  deriving DecidableEq, Repr

/-- How far a SEAL has come (R373): its tree is being stilled; the image is written but for its signature; it is signed;
the counter is committed; the advances are sent. -/
inductive SealPhase where
  | stilling | written | signed | committed | sent
  deriving DecidableEq, Repr

/-- A SEAL in progress (R373): the root region, the certificates of the peers as they were checked, how far it has come, and
once its image is written the bytes that the signature covers and the image length; and the peers that have acknowledged that
their record table is full (R374). -/
structure SealJob where
  root : Nat
  certs : List (List Byte)
  phase : SealPhase
  body : List Byte
  total : Nat
  full : List (BitVec 128)
  deriving DecidableEq, Repr

/-- What the seal engine keeps (R369 to R376): lineage slots, record table, pending advances with the
peer they go to, measurements, signatures made (the first certifies the KEM key, R369; log 48), and the SEAL in progress. -/
structure Seal where
  lslots : Vector (Option Lineage) 32 := Vector.replicate 32 none
  records : List LineRec := []
  pending : List (BitVec 128 × Advance) := []
  meas : List (BitVec 16 × BitVec 512) := []
  leaf : Nat := 1
  job : Option SealJob := none
  deriving DecidableEq, Repr

/-- Clocks and power (R377, R381, R382). -/
inductive Power where
  | on | frozen | off
  deriving DecidableEq, Repr

/-- The whole package. `agenda`, `bounds`, `timers`, `tick`, `cur`, `last` and `ids` are the model's own (logs 2
and 3): the device's steps that are due, the clocks by which those with a stated bound must be done (R4), timeouts,
draws, the issuing slot, the last turn taken in this clock, and the next number. `ended` holds what is still on its way of
members whose TEND was not the last of their task (R31), with the slot they had. `owed` lists the fault records, with their
regions, that wait for an engine to write a line of their ring (R79, R306). -/
structure State where
  clock : Nat
  agenda : List Ev
  bounds : List (Nat × Ev)
  timers : List (Nat × Ev)
  tick : Nat
  cur : Nat
  last : Option Nat
  ids : Nat
  power : Power
  thermtrip : Bool
  slots : Tab Slot
  tasks : Tab Task
  saved : List Saved
  ended : List (Nat × Ctx)
  owed : List (Nat × FRec)
  cores : Tab CoreSt
  frames : Tab (Vector FrameEnt 64)
  barriers : Tab Barrier
  rollers : Tab Roller
  copies : List Copy
  records : List MRec
  indexes : List Index
  pins : List (Nat × Nat × Nat)
  dies : Vector DieSt 4
  mem : List Host.Cell
  full : List Nat
  poison : List Nat
  hist : List Record
  hostMem : List Host.Cell
  regions : Tab Region
  launches : Tab Launch
  groups : List Group
  sweeps : Tab Sweep
  host : HostRegs
  fabric : Fabric
  ports : Vector Port 8
  scanpri : BitVec 4
  plfloor : BitVec 2
  lineage : Seal
  hostReply : Option (List Byte)
  smbusAck : Bool
  deriving DecidableEq, Repr

/-- What a byte of memory that nothing has written reads as (R69 for the explicit levels; a DESIGN CHOICE for
ordinary memory, log 4). -/
def unlisted : Byte := 0

/-- The canonical form of a memory: addresses strictly rising, no entry equal to `unlisted`. -/
def Memory.wf : List Host.Cell → Bool
  | [] => true
  | [c] => c.2 != unlisted
  | c :: c' :: l => c.2 != unlisted && decide (c.1 < c'.1) && Memory.wf (c' :: l)

/-- The package right after reset: no context, no work, memory with nothing listed, every register block at
its reset value (R15, R24, R69, R70, Tables 22.4, 25.1, 25.3); the first share interval stands at
clock 4096 (R323). The firmware steps of R380 have not yet reported. -/
def State.reset : State where
  clock := 0
  agenda := []
  bounds := []
  timers := [(4096, .shareInterval)]
  tick := 0
  cur := 0
  last := none
  ids := 1
  power := .on
  thermtrip := false
  slots := []
  tasks := []
  saved := []
  ended := []
  owed := []
  cores := []
  frames := []
  barriers := []
  rollers := []
  copies := []
  records := []
  indexes := []
  pins := []
  dies := Vector.replicate 4 {}
  mem := []
  full := []
  poison := []
  hist := []
  hostMem := []
  regions := []
  launches := []
  groups := []
  sweeps := []
  host := {}
  fabric := {}
  ports := Vector.replicate 8 {}
  scanpri := 15
  plfloor := 0
  lineage := {}
  hostReply := none
  smbusAck := false

end Sys2Proof.Machine
end

