-- ==== Sys2Proof/Machine/Memory.lean ====
section
/-! DEFINITION. Memory as one list of bytes by key, the keys of every level (R64 to R67, R331), the full/empty tags
(R70) and the order of the dies, clusters and cores (R9 to R14). -/

namespace Sys2Proof.Machine

/-- One byte of a memory. -/
def Mem.read (m : List Host.Cell) (a : Nat) : Byte :=
  match m with
  | [] => unlisted
  | (b, v) :: t => if b = a then v else Mem.read t a

/-- The memory with one byte written; the canonical form is kept. -/
def Mem.write : List Host.Cell → Nat → Byte → List Host.Cell
  | [], a, v => if v = unlisted then [] else [(a, v)]
  | (b, w) :: t, a, v =>
    if a < b then (if v = unlisted then (b, w) :: t else (a, v) :: (b, w) :: t)
    else if a = b then (if v = unlisted then t else (a, v) :: t)
    else (b, w) :: Mem.write t a v

/-- `n` bytes from `a` up. -/
def Mem.readN (m : List Host.Cell) (a : Nat) : Nat → List Byte
  | 0 => []
  | n + 1 => Mem.read m a :: Mem.readN m (a + 1) n

/-- The memory with bytes written from `a` up. -/
def Mem.writeN (m : List Host.Cell) (a : Nat) : List Byte → List Host.Cell
  | [] => m
  | b :: l => Mem.writeN (Mem.write m a b) (a + 1) l

/-- The little-endian number of `n` bytes at `a`. -/
def Mem.num (m : List Host.Cell) (a n : Nat) : Nat := ofBytes (Mem.readN m a n)

/-! Keys. Ordinary memory of die d: d * 2^37 + PA. -/

def ordKey (die pa : Nat) : Nat := die * 2 ^ 37 + pa
def dieKey (die off : Nat) : Nat := 2 ^ 40 + die * 2 ^ 26 + off
def clusKey (cl off : Nat) : Nat := 2 ^ 41 + cl * 2 ^ 22 + off
def coreKey (core off : Nat) : Nat := 2 ^ 42 + core * 2 ^ 18 + off
def laneKey (core lane off : Nat) : Nat := 2 ^ 43 + (core * 16 + lane) * 2 ^ 12 + off

/-- The key under which a burst sent to another package stands among the stores, with no bytes here, for the releases that come
to cover it (R88, R89, log 56). -/
def farKey (dest : BitVec 16) (seq : BitVec 32) : Nat := 2 ^ 64 + dest.toNat * 2 ^ 32 + seq.toNat

/-- Whether a key carries a full/empty tag (R70). -/
def tagged (key : Nat) : Bool := decide (2 ^ 40 ≤ key) && decide (key < 2 ^ 43)

/-- Whether the tagged word at a key is full. -/
def isFull (s : State) (key : Nat) : Bool := s.full.contains key

/-- The state with a word's tag set. -/
def setFull (s : State) (key : Nat) (b : Bool) : State :=
  if b then (if s.full.contains key then s else { s with full := key :: s.full })
  else { s with full := s.full.filter (· != key) }

/-! Thread names (R14), clusters in the order die, local number, and their package index (R11). -/

def nameDie (t : Nat) : Nat := t / 4096 % 4
def nameCluster (t : Nat) : Nat := t / 256
def nameCore (t : Nat) : Nat := t / 16
def nameSlot (t : Nat) : Nat := t % 16

/-- The package index 8·py + px of a cluster (R11, Table 1.1). -/
def clusIndex (cl : Nat) : Nat :=
  let px := cl % 4 + (if cl / 16 = 1 ∨ cl / 16 = 2 then 4 else 0)
  let py := cl / 4 % 4 + (if cl / 16 = 2 ∨ cl / 16 = 3 then 4 else 0)
  8 * py + px

/-- The cluster of a package index. -/
def clusOfIndex (i : Nat) : Nat :=
  let px := i % 8
  let py := i / 8 % 8
  let die := if py < 4 then (if px < 4 then 0 else 1) else (if px < 4 then 3 else 2)
  die * 16 + 4 * (py % 4) + px % 4

/-- The die-wide physical number of a core (R339, Table 21.5). -/
def physCore (core : Nat) : Nat :=
  let die := core / 256
  let turn (x y : Nat) : Nat := match die with
    | 0 => 4 * y + x
    | 1 => 4 * (3 - x) + y
    | 2 => 4 * (3 - y) + (3 - x)
    | _ => 4 * x + (3 - y)
  let cl := core / 16 % 16
  let c := core % 16
  16 * turn (cl % 4) (cl / 4) + turn (c % 4) (c / 4)

/-- The core of a die's physical number. -/
def coreOfPhys (die n : Nat) : Nat :=
  ((List.range 256).find? (fun c => physCore (die * 256 + c) = n)).getD 0 + die * 256

/-! Table accessors with what an unlisted key stands for. -/

def State.slot (s : State) (t : Nat) : Slot := Tab.getD s.slots t {}
def State.setSlot (s : State) (t : Nat) (v : Slot) : State := { s with slots := Tab.set s.slots t v }
def State.core (s : State) (c : Nat) : CoreSt := Tab.getD s.cores c {}
def State.setCore (s : State) (c : Nat) (v : CoreSt) : State := { s with cores := Tab.set s.cores c v }
def State.ftab (s : State) (cl : Nat) : Vector FrameEnt 64 := Tab.getD s.frames cl (Vector.replicate 64 {})
def State.setFtab (s : State) (cl : Nat) (v : Vector FrameEnt 64) : State :=
  { s with frames := Tab.set s.frames cl v }
def State.barrier (s : State) (cl k : Nat) : Barrier := Tab.getD s.barriers (cl * 16 + k) {}
def State.setBarrier (s : State) (cl k : Nat) (v : Barrier) : State :=
  { s with barriers := Tab.set s.barriers (cl * 16 + k) v }
def State.roller (s : State) (cl : Nat) : Roller := Tab.getD s.rollers cl {}
def State.setRoller (s : State) (cl : Nat) (v : Roller) : State := { s with rollers := Tab.set s.rollers cl v }
def State.region? (s : State) (r : Nat) : Option Region := Tab.get? s.regions r
def State.modRegion (s : State) (r : Nat) (f : Region → Region) : State :=
  { s with regions := Tab.modify s.regions r f }
def State.die (s : State) (d : Nat) : DieSt := s.dies[d % 4]
def State.modDie (s : State) (d : Nat) (f : DieSt → DieSt) : State :=
  { s with dies := s.dies.set (d % 4) (f (s.die d)) }

/-- A step made due (log 2). -/
def State.due (s : State) (i : Ev) : State := { s with agenda := s.agenda ++ [i] }

/-- A step made due that is done by a clock at the latest (R4). -/
def State.dueBy (s : State) (t : Nat) (i : Ev) : State := { s.due i with bounds := s.bounds ++ [(t, i)] }

/-- A timeout of the device that stands until a clock (R4). -/
def State.timer (s : State) (t : Nat) (i : Ev) : State :=
  let rec ins : List (Nat × Ev) → List (Nat × Ev)
    | [] => [(t, i)]
    | e :: l => if t < e.1 then (t, i) :: e :: l else e :: ins l
  { s with timers := ins s.timers }

/-- Clocks in a microsecond (R13). -/
def micro : Nat := 2500

/-- A timeout stated in µs or ms, given in clocks from now: the device acts on it up to a microsecond late (R4), as a free
value says (log 52). -/
def State.timeout (s : State) (n : Nat) (i : Ev) : State :=
  State.timer { s with tick := s.tick + 1 } (s.clock + (n + Config.lateness s.tick % (micro + 1))) i

/-! Lines that Rollers have read and not yet consumed (R81). -/

/-- Whether a pin (region, record, key of a 128-byte line) meets `n` bytes at a key. -/
def pinMeets (key n : Nat) (p : Nat × Nat × Nat) : Bool := decide (p.2.2 < key + n) && decide (key < p.2.2 + 128)

/-- Whether an engine holds a line pinned (R81). -/
def pinned (s : State) (key n : Nat) : Bool := s.pins.any (pinMeets key n)

/-- A Roller consumes the line that it pinned first for a record, and its fetch unit pins the next. -/
def consumePin (s : State) (region id : Nat) : State :=
  match s.pins.find? (fun p => p.1 == region && p.2.1 == id) with
  | none => s
  | some p =>
    let next := match s.records.find? (fun m => m.region == region && m.id == id) with
      | some m => (m.lines.take 1).map (fun k => (region, id, k))
      | none => []
    { s with
      pins := s.pins.erase p ++ next
      records := s.records.map (fun m => if m.region = region ∧ m.id = id then { m with lines := m.lines.drop 1 } else m) }

/-- Rollers consume their lines, in order, until none meets `n` bytes at a key: a write of the device waits for no longer
(R81). -/
def unpinFor (key n : Nat) : Nat → State → State
  | 0, s => s
  | fuel + 1, s => match s.pins.find? (pinMeets key n) with
    | none => s
    | some p => unpinFor key n fuel (consumePin s p.1 p.2.1)

/-- What is still to be consumed, in lines. -/
def pinFuel (s : State) : Nat := s.pins.length + (s.records.map (·.lines.length)).sum

/-- Whether a die is under debug halt (R383). -/
def State.halted (s : State) (d : Nat) : Bool := s.host.dhalt.getLsbD d

/-- A fresh number (log 2). -/
def State.fresh (s : State) : Nat × State := (s.ids, { s with ids := s.ids + 1 })

/-! Fields of the RCB (Table 20.1): word k of the device's copy. -/

def Region.w (r : Region) (k : Nat) : Word := r.rcb.getD k 0
def Region.f (r : Region) (k hi lo : Nat) : Nat := bits (r.w k) hi lo
def Region.prio (r : Region) : Nat := r.f 1 59 56
def Region.weight (r : Region) : Nat := r.f 1 55 48
def Region.sup (r : Region) : Bool := bit (r.w 1) 47
def Region.tsp (r : Region) : Nat := r.f 1 46 44
def Region.rad (r : Region) : Nat := r.f 1 43 42
def Region.fpol (r : Region) : Nat := r.f 1 41 40
def Region.migp (r : Region) : Nat := r.f 1 39 38
def Region.novict (r : Region) : Bool := bit (r.w 1) 37
def Region.nopre (r : Region) : Bool := bit (r.w 1) 36
def Region.shq (r : Region) : Nat := r.f 1 35 32
def Region.ctab (r : Region) : Word := r.w 4
def Region.arg (r : Region) : Word := r.w 7
def Region.gp (r : Region) : Word := r.w 8
def Region.barm (r : Region) : Nat := r.f 9 63 48
def Region.d1w (r : Region) : Nat := r.f 9 47 32
def Region.mrecs (r : Region) : Nat := r.f 9 31 16
def Region.mslot (r : Region) : Nat := r.f 9 15 0
def Region.tvec (r : Region) : Word := r.w 10
def Region.wlim (r : Region) : Word := wd (r.f 11 31 0)
def Region.quota (r : Region) : Nat := r.f 13 39 0
def Region.stkb (r : Region) : Word := r.w 14
def Region.nstk (r : Region) : Nat := r.f 15 63 32
def Region.stksz (r : Region) : Nat := r.f 15 31 0
def Region.pool (r : Region) : Word := r.w 16
def Region.saveVa (r : Region) : Word := r.w 17
def Region.frlog (r : Region) : Nat := r.f 18 37 32
def Region.nsave (r : Region) : Nat := r.f 18 31 0
def Region.fring (r : Region) : Word := r.w 19
def Region.cntva (r : Region) : Word := r.w 25
def Region.ofv (r : Region) : Bool := bit (r.w 24) 63
def Region.ofw (r : Region) : Nat := r.f 24 47 32
def Region.ofb (r : Region) : Nat := r.f 24 21 0
/-- The allocations of R63: size and base of core scratchpad, lane slices, cluster memory, die scratchpad. -/
def Region.alloc (r : Region) (lv : Nat) : Nat × Nat :=
  match lv with
  | 0 => (r.f 20 50 32, r.f 20 17 0)
  | 1 => (r.f 21 44 32, r.f 21 11 0)
  | 2 => (r.f 22 54 32, r.f 22 21 0)
  | _ => (r.f 23 58 32, r.f 23 25 0)
def Region.grpKey (r : Region) : GroupKey := ⟨r.asid, r.ctab⟩

end Sys2Proof.Machine
end

