-- ==== Sys2Proof/Machine/Access.lean ====
section
/-! DEFINITION. Events to the host (R365), stores in coherence order (R86), address checks (R61 to R63), homes,
walks and stack growth (R329 to R338). -/

namespace Sys2Proof.Machine

/-! Events (R365, R378). -/

/-- The 32 bytes of an event entry (Table 23.4). -/
def Event.bytes (e : Event) : List Byte :=
  toBytes 8 (e.type * 2 ^ 56 + e.die % 4 * 2 ^ 54 + e.count % 65536 * 2 ^ 32 + e.cookie.toNat) ++
    toBytes 8 e.source.toNat ++ toBytes 8 e.val.toNat ++ toBytes 8 (e.lost * 2 ^ 32)

/-- Whether the host event ring is full (R378). -/
def eqFull (h : HostRegs) : Bool := (h.eqtail - h.eqhead).toNat = h.eqsize

/-- A release by `a` at a scope completes: its mark covers every store that `a` has performed, and those of
engines it has observed (R88). -/
def releaseMark (s : State) (a : Agent) (m : Mark) : State :=
  { s with hist := s.hist.map (fun r =>
      if r.auth.contains a && !r.rel.contains m then { r with rel := m :: r.rel } else r) }

/-- An entry written to the ring, and EQTAIL advanced with a release at system scope. -/
def eqPut (s : State) (e : Event) : State :=
  let h := s.host
  { releaseMark s .device ⟨3, none⟩ with
    hostMem := Mem.writeN s.hostMem (h.eqbase.toNat + 32 * (h.eqtail.toNat % h.eqsize)) e.bytes
    host := { h with eqtail := h.eqtail + 1 } }

/-- The event-overflow interrupt (R365, IRQV of Table 25.1). -/
def irq (s : State) : State :=
  if s.host.irqv = 0 then s else { s with hostMem := Mem.writeN s.hostMem s.host.irqv.toNat (toBytes 8 1) }

/-- The place of the next held event among those of all dies, in arrival order (R365). -/
def State.heldSeq (s : State) : Nat := ((List.range 4).flatMap (fun d => (s.die d).held.map (·.seq))).foldl max 0 + 1

/-- An event placed in the ring, held by its die, coalesced, or counted as lost (R365). -/
def State.event (s : State) (e : Event) : State :=
  let held := (s.die e.die).held
  if held.isEmpty && !eqFull s.host then eqPut s e
  else if held.length < 256 then
    (s.modDie e.die (fun d => { d with held := d.held ++ [{ e with seq := s.heldSeq }] })).due .eventQueueDrain
  else
    let first := held.all (fun h => h.count = 1 ∧ h.lost = 0)
    let same (h : Event) : Bool := h.source == e.source && h.type == e.type
    let held' :=
      if held.any same then
        let rec bump : List Event → List Event
          | [] => []
          | h :: l => if same h then { h with count := min 65535 (h.count + 1) } :: l else h :: bump l
        bump held
      else match held.reverse with
        | [] => []
        | h :: l => (l.reverse) ++ [{ h with lost := h.lost + 1 }]
    let s := s.modDie e.die (fun d => { d with held := held' })
    if first then irq s else s

/-! Stores (R86, R360). -/

/-- The 8-byte granules that `n` bytes at a key touch (R358). -/
def granules (key n : Nat) : List Nat := (List.range ((key % 8 + n + 7) / 8)).map (fun i => key / 8 + i)

/-- The first uncorrectable granule that an access meets (R360). -/
def badGran (s : State) (key n : Nat) : Option Nat := (granules key n).find? s.poison.contains

/-- Whether it meets one. -/
def poisoned (s : State) (key n : Nat) : Bool := (badGran s key n).isSome

/-- The first that a store meets: one that covers all of a granule clears it; a narrower one does not (R360). -/
def badStore (s : State) (key n : Nat) : Option Nat :=
  (granules key n).find? (fun g => s.poison.contains g && !(decide (key ≤ 8 * g) && decide (8 * g + 8 ≤ key + n)))

def storePoisoned (s : State) (key n : Nat) : Bool := (badStore s key n).isSome

/-- A Stipple index is undefined once a store meets its area (R237). -/
def Index.spoil (key n : Nat) (x : Index) : Index :=
  if x.area.any (fun p => decide (p.1 < key + n) && decide (key < p.1 + p.2)) then { x with ok := false } else x

/-- A store performed: it becomes the latest in the coherence order of its bytes (R86). `via` is the mapping through which
it was made, where it was made through one (R336). A write of the device itself has waited for the lines that are pinned
(R81). -/
def State.store (s : State) (key : Nat) (bs : List Byte) (a : Agent) (seq : Nat) (strong : Option Mark)
    (via : Option Via := none) : State :=
  let s := if a = .device then unpinFor key bs.length (pinFuel s) s else s
  let old := Mem.readN s.mem key bs.length
  { s with
    mem := Mem.writeN s.mem key bs
    indexes := s.indexes.map (Index.spoil key bs.length)
    poison := s.poison.filter (fun g => !(decide (key ≤ 8 * g) && decide (8 * g + 8 ≤ key + bs.length)))
    hist := { key, old, auth := [a], seq, rel := [], strong, seen := [a], via } :: s.hist }

/-- The package-scope mark of the device's own strong accesses. -/
def pkgMark : Option Mark := some ⟨2, none⟩

/-! Uncorrectable data (R359, R360). -/

/-- The array code and the physical unit of a key (Table 23.1). R339 numbers clusters and cores alone and R340 leaves the
numbers of raw logs to the design: the unit of a memory stack, of its LLC and of a die scratchpad is given as 0 (DESIGN
CHOICE, log 100). -/
def arrayOf (key : Nat) : Nat × Nat :=
  if key < 2 ^ 40 then (1, 0)
  else if key < 2 ^ 41 then (8, 0)
  else if key < 2 ^ 42 then (7, physCore ((key - 2 ^ 41) / 2 ^ 22 * 16 + (key / 128) % 16))
  else if key < 2 ^ 43 then (6, physCore ((key - 2 ^ 42) / 2 ^ 18))
  else (9, physCore ((key - 2 ^ 43) / 2 ^ 16))

/-- The die of a key. -/
def dieOfKey (key : Nat) : Nat :=
  if key < 2 ^ 40 then key / 2 ^ 37
  else if key < 2 ^ 41 then (key - 2 ^ 40) / 2 ^ 26
  else if key < 2 ^ 42 then (key - 2 ^ 41) / 2 ^ 22 / 16
  else if key < 2 ^ 43 then (key - 2 ^ 42) / 2 ^ 18 / 256
  else (key - 2 ^ 43) / 2 ^ 16 / 256

/-- The address that an event gives for a granule: a PA, a VA of the explicit level, or an offset in a lane slice (Table
23.4). -/
def eventAddr (key : Nat) : Word :=
  if key < 2 ^ 40 then wd (key % 2 ^ 37)
  else if key < 2 ^ 41 then wd (0xFD * 2 ^ 48 + (key - 2 ^ 40) / 2 ^ 26 * 2 ^ 46 + key % 2 ^ 26)
  else if key < 2 ^ 42 then wd (0xFE * 2 ^ 48 + clusIndex ((key - 2 ^ 41) / 2 ^ 22) * 2 ^ 40 + key % 2 ^ 22)
  else if key < 2 ^ 43 then wd (0xFF * 2 ^ 48 + key % 2 ^ 18)
  else wd (key % 2 ^ 12)

/-- An uncorrectable error found: the die's error interrupt to its steward and the event (R359). -/
def noteError (s : State) (array unit die : Nat) (addr : Word) : State :=
  (s.modDie die (fun d => { d with errIrq := true })).event
    { type := 2, die, source := wd (array * 2 ^ 56 + unit % 256 * 2 ^ 48), val := addr }

/-- The same for an access that meets a granule. -/
def noteBad (s : State) (g : Nat) : State :=
  noteError s (arrayOf (8 * g)).1 (arrayOf (8 * g)).2 (dieOfKey (8 * g)) (eventAddr (8 * g))

/-! Addresses (R61 to R63, Tables 4.1 to 4.4). -/

/-- Where an access goes: ordinary memory of a home die, or a key of an explicit level. -/
inductive Place where
  | ord (die : Nat)
  | arr (key : Nat)
  deriving DecidableEq, Repr

/-- The home die of an ordinary-memory VA (R329). -/
def homeDie (va : Word) : Nat := Nat.xor (bits va 22 21) (bits va 30 29)

/-- Whether `n` bytes at `off` lie in an allocation (R63). -/
def inAlloc (al : Nat × Nat) (off n : Nat) : Bool := decide (al.2 ≤ off) && decide (off + n ≤ al.2 + al.1)

/-- The place of `n` bytes at a VA for a requester on `core`, with the windows and reserved bits of R61 and
R62 and an allocation test by level (0 core, 2 cluster, 3 die); none is cause 0x08. -/
def placeWith (al : Nat → Nat → Bool) (core : Nat) (va : Word) (n : Nat) : Option Place :=
  let v := va.toNat
  let win := bits va 55 48
  if bits va 63 56 ≠ 0 then none
  else if win < 0xF0 then (if v + n ≤ 0x00F0000000000000 then some (.ord (homeDie va)) else none)
  else if win < 0xFD then none
  else if win = 0xFF then
    let off := bits va 17 0
    if bits va 47 18 = 0 ∧ off + n ≤ 2 ^ 18 ∧ al 0 off = true then some (.arr (coreKey core off)) else none
  else if win = 0xFE then
    let off := bits va 21 0
    let cl := bits va 47 40
    if bits va 39 22 = 0 ∧ (cl < 64 ∨ cl = 0xFF) ∧ off + n ≤ 2 ^ 22 ∧ al 2 off = true then
      some (.arr (clusKey (if cl = 0xFF then core / 16 else clusOfIndex cl) off))
    else none
  else
    let off := bits va 25 0
    if bits va 45 26 = 0 ∧ off + n ≤ 2 ^ 26 ∧ al 3 off = true then some (.arr (dieKey (bits va 47 46) off))
    else none

/-- The place for an access of a region's thread or copy (R63). -/
def place (r : Region) (core : Nat) (va : Word) (n : Nat) : Option Place :=
  placeWith (fun lv off => inAlloc (r.alloc lv) off n) core va n

/-! Walks (R331 to R334). -/

/-- How a walk ends: a PA, its leaf and the level of that, not mapped, and if so at which level, or at a table entry that is
uncorrectable (Table 23.1), by its granule. -/
inductive Walk where
  | ok (pa : Nat) (leaf : Word) (level : Nat)
  | none (level : Nat)
  | bad (g : Nat)
  deriving DecidableEq, Repr

/-- The 64-bit word at a PA of a die. -/
def memPa (s : State) (die pa : Nat) : Word := wd (Mem.num s.mem (ordKey die pa) 8)

/-- The index of a walk level (Table 21.2). -/
def walkIndex (va : Word) (level : Nat) : Nat :=
  match level with
  | 1 => bits va 55 43
  | 2 => bits va 42 30
  | 3 => bits va 29 21
  | _ => bits va 20 16

/-- Whether a table entry is valid with no reserved bit set (Table 21.3). -/
def pteOk (p : Word) : Bool :=
  bit p 0 && bits p 63 37 == 0 && !bit p 6 && (!bit p 1 || bits p 15 8 == 0)

/-- A leaf's frame and offset at a level (R333). -/
def leafPa (va p : Word) (level : Nat) : Option Nat :=
  let f := bits p 36 16 * 2 ^ 16
  match level with
  | 4 => some (f + bits va 15 0)
  | 3 => if f % 2 ^ 21 = 0 then some (f + bits va 20 0) else none
  | 2 => if f % 2 ^ 28 = 0 then some (f + bits va 29 23 * 2 ^ 21 + bits va 20 0) else none
  | _ => none

/-- The page bits of a leaf found at a level. -/
def pageBits (level : Nat) : Nat := match level with | 4 => 16 | 3 => 21 | _ => 30

/-- The level of a page of so many bits. -/
def pageLevel (b : Nat) : Nat := match b with | 16 => 4 | 21 => 3 | _ => 2

/-- Whether the walks of an agent are those for a page that holds a VA. -/
def Agent.walksFor (asid : BitVec 16) (va : Word) : Agent → Bool
  | .walks a v size => a == asid && va.toNat / 2 ^ size == v.toNat / 2 ^ size
  | _ => false

/-- What a table entry at a key held before each of its latest changes, the newest first, up to the change that a completed
INVVA or INVASID has made certain for the page of a VA (R334). -/
def entryOlds (asid : BitVec 16) (va : Word) (key : Nat) : List Host.Cell → List Record → List Word
  | _, [] => []
  | mem, r :: l =>
    if r.key < key + 8 && key < r.key + r.old.length then
      if r.seen.any (·.walksFor asid va) then []
      else
        let mem := Mem.writeN mem r.key r.old
        wd (Mem.num mem key 8) :: entryOlds asid va key mem l
    else entryOlds asid va key mem l

/-- The word of a table entry with those it held before that passed a test: a change from invalid to valid is seen at once
(R334). -/
def entryWords (s : State) (asid : BitVec 16) (va : Word) (key : Nat) (ok : Word → Bool) : List Word :=
  wd (Mem.num s.mem key 8) :: (entryOlds asid va key s.mem s.hist).filter ok

/-- The ways in which a walk from a table at a level may end, that of the tables as they stand first: each entry is read as it
stands, or as it stood before a change that is not yet certain (R332, R334). `fuel` counts the levels left. -/
def walksFrom (s : State) (die : Nat) (asid : BitVec 16) (va : Word) : Nat → Nat → Nat → List Walk
  | 0, level, _ => [.none level]
  | fuel + 1, level, t =>
    let key := ordKey die (t + 8 * walkIndex va level)
    match badGran s key 8 with
    | some g => [.bad g]
    | none => (entryWords s asid va key pteOk).flatMap (fun p =>
      if !pteOk p then [.none level]
      else if bit p 1 then
        match leafPa va p level with
        | some pa => [.ok pa p level]
        | none => [.none level]
      else if level = 4 then [.none 4]
      else walksFrom s die asid va fuel (level + 1) (bits p 36 8 * 2 ^ 8))

/-- The PA of the ASID table entry of an ASID on a die (R331). -/
def asidEntry (s : State) (die : Nat) (asid : BitVec 16) : Nat :=
  bits (s.die die).asidtb 36 20 * 2 ^ 20 + 16 * asid.toNat

/-- The root that an ASID's entry names (Table 21.1); a walk faults on V = 0 alone (R333). -/
def asidRoot (s : State) (die : Nat) (asid : BitVec 16) : Option Nat :=
  let e := memPa s die (asidEntry s die asid)
  if bit e 0 then some (bits e 36 16 * 2 ^ 16) else none

/-- The ways in which a walk of the tables of the home die may end (R333, R334). -/
def walks (s : State) (die : Nat) (asid : BitVec 16) (va : Word) : List Walk :=
  let key := ordKey die (asidEntry s die asid)
  match badGran s key 8 with
  | some g => [.bad g]
  | none => (entryWords s asid va key (bit · 0)).flatMap (fun e =>
    if bit e 0 then walksFrom s die asid va 4 1 (bits e 36 16 * 2 ^ 16) else [.none 0])

/-- The walk of the tables as they stand. -/
def walk (s : State) (die : Nat) (asid : BitVec 16) (va : Word) : Walk := (walks s die asid va).headD (.none 0)

/-- The cached leaves of a page, with the bits of its page offset (R334). A leaf that was found beside an older one stands
with it until one of INVVA and INVASID ends both. -/
def tlbFind (s : State) (die : Nat) (asid : BitVec 16) (va : Word) : List (Nat × Word) :=
  ((s.die die).tlb.filter (fun e => e.1 == asid && va.toNat / 2 ^ e.2.2.1 == e.2.1.toNat / 2 ^ e.2.2.1)).map
    (fun e => (e.2.2.1, e.2.2.2))

/-- A leaf put into the cache of a die: each of its two units holds at most 65,536 (R334, Table 1.2), and which unit holds a
leaf is a free value (log 36); the oldest goes first. -/
def DieSt.cache (d : DieSt) (e : BitVec 16 × Word × Nat × Word) : DieSt :=
  if d.tlb.length < 65536 then { d with tlb := e :: d.tlb }
  else
    let unit (x : BitVec 16 × Word × Nat × Word) : Bool := Config.unitOf x.1 x.2.1
    { d with tlb := (e :: d.tlb.filter (fun x => unit x == unit e)).take 65536 ++ d.tlb.filter (fun x => unit x != unit e) }

/-- A translation through the cache of the home die (R334): of the cached leaves that differ from the table's, of the walks
that meet an older entry, and of the table's own leaf a free value says which is used (log 8); the leaf of a walk is
cached. -/
def translate (s : State) (die : Nat) (asid : BitVec 16) (va : Word) : Walk × State :=
  let ws := walks s die asid va
  let w := ws.headD (.none 0)
  let held := tlbFind s die asid va
  let cached := held.filterMap (fun e => (leafPa va e.2 (pageLevel e.1)).map (fun pa => Walk.ok pa e.2 (pageLevel e.1)))
  let old := (cached ++ ws.tail).filter (· != w)
  match (if old.isEmpty then w else old.getD (Config.oldLeaf s.tick) w) with
  | .ok pa leaf level =>
    let b := pageBits level
    (.ok pa leaf level, if held.contains (b, leaf) then s else s.modDie die (·.cache (asid, va, b, leaf)))
  | w => (w, s)

/-! Growth (R337, R338). -/

/-- Why an access fails at its home: an uncorrectable granule by its number. -/
inductive Bad where
  | unmapped | prot | pool
  | poison (g : Nat)
  deriving DecidableEq, Repr

/-- The interrupt and the event of an access that has met uncorrectable data (R359). -/
def Bad.note (b : Bad) (s : State) : State :=
  match b with
  | .poison g => noteBad s g
  | _ => s

/-- The growth window of the earliest admitted live region of the ASID that holds a VA; a halted region has none
(R337). -/
def growthRegion (s : State) (asid : BitVec 16) (va : Word) : Option Region :=
  (s.regions.find? (fun e => e.2.live && e.2.halted == 0 && e.2.asid == asid && decide (e.2.stkb.toNat ≤ va.toNat) &&
    decide (va.toNat < e.2.stkb.toNat + e.2.nstk * e.2.stksz))).map (·.2)

/-- The key of a strong access of the device at package scope to the word at a mapped VA, or why it fails. The walk here
never grows. -/
def devTry (s : State) (asid : BitVec 16) (va : Word) (write : Bool) : Except Bad Nat :=
  if bits va 63 56 ≠ 0 ∨ 0xF0 ≤ bits va 55 48 then .error .unmapped
  else match (translate s (homeDie va) asid va).1 with
    | .ok pa leaf _ =>
      let key := ordKey (homeDie va) pa
      if !bit leaf (if write then 3 else 2) then .error .prot
      else match (if write then badStore s key 8 else badGran s key 8) with
        | some g => .error (.poison g)
        | none => .ok key
    | .none _ => .error .unmapped
    | .bad g => .error (.poison g)

/-- The same, where why it fails does not matter. -/
def devKey (s : State) (asid : BitVec 16) (va : Word) (write : Bool) : Option Nat := (devTry s asid va write).toOption

/-- The word of a mapped array at a VA, or why it cannot be read. -/
def devRead (s : State) (asid : BitVec 16) (va : Word) : Except Bad Nat :=
  (devTry s asid va false).map (fun k => Mem.num s.mem k 8)

/-- A frame from the page pool of a die (R338 step 4): LEFT decremented, the pool-low event sent, and the
frame's PA, or the failure. A frame that is misaligned or not of the die is lost to the pool. Each word of the block and of
the array is translated by itself. -/
def takeFrame (s : State) (r : Region) (die : Nat) : Except Bad Nat × State :=
  let at_ (k : Nat) : Word := r.pool + wd (64 * die + 8 * k)
  match devTry s r.asid (at_ 1) true, devRead s r.asid (at_ 1) with
  | .error b, _ => (.error b, b.note s)
  | _, .error b => (.error b, b.note s)
  | .ok key, .ok left =>
    if left = 0 then (.error .pool, s)
    else
      let s := s.store key (toBytes 8 (left - 1)) .device 0 pkgMark
      match devRead s r.asid (at_ 2), devRead s r.asid (at_ 0) with
      | .error b, _ => (.error b, b.note s)
      | .ok low, arr =>
        let s := if left = low + 1 then s.event { type := 10, die, source := r.rcbva, val := wd die } else s
        match arr with
        | .error b => (.error b, b.note s)
        | .ok arr => match devRead s r.asid (wd (arr + 8 * (left - 1))) with
          | .error b => (.error b, b.note s)
          | .ok pa => (if pa % 65536 = 0 ∧ pa < 2 ^ 37 then .ok pa else .error .unmapped, s)

/-- A 64 KiB frame set to zero: its listed bytes are dropped (R338). -/
def zeroFrame (s : State) (die pa : Nat) : State :=
  let k := ordKey die pa
  { s with mem := s.mem.filter (fun c => !(decide (k ≤ c.1) && decide (c.1 < k + 65536)))
           hist := s.hist.filter (fun h => !(decide (k ≤ h.key) && decide (h.key < k + 65536)))
           poison := s.poison.filter (fun g => !(decide (k ≤ 8 * g) && decide (8 * g < k + 65536))) }

/-- The fill of a stack page whose walk failed at level 3 or 4 (R338 steps 2 and 3). -/
def growPage (s : State) (die : Nat) (asid : BitVec 16) (va : Word) (level : Nat) : Except Bad Unit × State :=
  match growthRegion s asid va, asidRoot s die asid with
  | some r, some root =>
    if level ≠ 3 ∧ level ≠ 4 then (.error .unmapped, s)
    else
      let t3 := bits (memPa s die (bits (memPa s die (root + 8 * walkIndex va 1)) 36 8 * 2 ^ 8 + 8 * walkIndex va 2)) 36 8 * 2 ^ 8
      let e3 := t3 + 8 * walkIndex va 3
      let table : Except Bad Unit × State :=
        if level = 4 then (.ok (), s)
        else match takeFrame s r die with
          | (.error b, s) => (.error b, s)
          | (.ok f, s) =>
            (.ok (), (zeroFrame s die f).store (ordKey die e3) (toBytes 8 (f + 1)) .device 0 pkgMark)
      match table with
      | (.error b, s) => (.error b, s)
      | (.ok (), s) =>
        match takeFrame s r die with
        | (.error b, s) => (.error b, s)
        | (.ok f, s) =>
          let t4 := bits (memPa s die e3) 36 8 * 2 ^ 8
          (.ok (), (zeroFrame s die f).store (ordKey die (t4 + 8 * walkIndex va 4))
            (toBytes 8 (f + 0x2F)) .device 0 pkgMark)
  | _, _ => (.error .unmapped, s)

/-- What an access needs of a leaf. -/
inductive Need where
  | r | w | x | rw
  deriving DecidableEq, Repr

/-- Whether a leaf permits it (Table 21.3). -/
def Need.ok (leaf : Word) : Need → Bool
  | .r => bit leaf 2
  | .w => bit leaf 3
  | .x => bit leaf 4
  | .rw => bit leaf 2 && bit leaf 3

/-- The key of an access of `n` bytes at its home, with growth (R333, R337), permission and error checks. -/
def resolve (s : State) (asid : BitVec 16) (p : Place) (va : Word) (n : Nat) (need : Need) :
    Except Bad Nat × State :=
  let err (key : Nat) : Except Bad Nat :=
    match (match need with | .w => badStore s key n | _ => badGran s key n) with
    | some g => .error (.poison g)
    | none => .ok key
  match p with
  | .arr key => (err key, s)
  | .ord die =>
    let done (w : Walk) : Except Bad Nat :=
      match w with
      | .ok pa leaf _ => if !need.ok leaf then .error .prot else err (ordKey die pa)
      | .none _ => .error .unmapped
      | .bad g => .error (.poison g)
    match translate s die asid va, walk s die asid va with
    | (.none _, s), .none level =>
      match growPage s die asid va level with
      | (.error b, s) => (.error b, s)
      | (.ok (), s) => let t := translate s die asid va; (done t.1, t.2)
    | (w, s), _ => (done w, s)

/-- What an access of the device to the word at a VA does beside its read or write: a page that is missing in a growth window
is filled (R337), and uncorrectable data is reported, whether of the word or of a table entry (R359). -/
def touch (s : State) (asid : BitVec 16) (va : Word) (write : Bool) : State :=
  if bits va 63 56 ≠ 0 ∨ 0xF0 ≤ bits va 55 48 then s
  else
    let s := match walk s (homeDie va) asid va with
      | .none level => (growPage s (homeDie va) asid va level).2
      | _ => s
    match devTry s asid va write with
    | .error b => b.note s
    | .ok _ => s

/-- The same for `n` words from a VA that are read. -/
def touchWords (s : State) (asid : BitVec 16) (n : Nat) (va : Word) : State :=
  (List.range n).foldl (fun s i => touch s asid (va + wd (8 * i)) false) s

/-- The mapping through which an access of ordinary memory is made (R336). -/
def viaOf (s : State) (asid : BitVec 16) (va : Word) : Option Via :=
  if bits va 63 56 ≠ 0 ∨ 0xF0 ≤ bits va 55 48 then none
  else
    let leaf := match walk s (homeDie va) asid va with
      | .ok _ leaf _ => leaf
      | _ => 0
    some ⟨asid, va, bit leaf 7, bit leaf 3⟩

/-! Memory held by the XU (R49). -/

/-- Whether `n` bytes at a VA meet the bytes [b, e). -/
def meets (va : Word) (n b e : Nat) : Bool := decide (va.toNat < e) && decide (b < va.toNat + n)

/-- Whether a store of `n` bytes meets the claim table or adjacency map of a live group of the ASID (R49). -/
def heldByXu (s : State) (asid : BitVec 16) (va : Word) (n : Nat) : Bool :=
  s.groups.any (fun g => decide (0 < g.live) && g.key.asid == asid &&
    (meets va n g.key.ctab.toNat (g.key.ctab.toNat + 64 + 8 * g.count) ||
      (g.kind == 0 && (meets va n g.offs.toNat (g.offs.toNat + 8 * (g.count + 1)) ||
        match devKey s asid (g.offs + wd (8 * g.count)) false with
        | some k => meets va n g.ids.toNat (g.ids.toNat + 8 * Mem.num s.mem k 8)
        | none => false))))

end Sys2Proof.Machine
end

