-- ==== Sys2Proof/Machine/Own.lean ====
section
/-! DEFINITION. The lines that engines own (R79, R96): the runs of a copy (R222), the fields of a matrix record (Table 11.6),
and which accesses wait for whom. -/

namespace Sys2Proof.Machine

/-! Copies. -/

/-- The source and destination of each run, the outermost dimension first. -/
def runsFrom : List (Nat × Int × Int) → Word → Word → List (Word × Word)
  | [], s, d => [(s, d)]
  | (c, ss, ds) :: l, s, d => (List.range c).flatMap (fun (i : Nat) =>
      runsFrom l (s + BitVec.ofInt 64 (Int.ofNat i * ss)) (d + BitVec.ofInt 64 (Int.ofNat i * ds)))

/-- The runs of a copy in the order of R222. -/
def CopyDesc.runs (d : CopyDesc) : List (Word × Word) :=
  if d.len0 = 0 then [] else runsFrom d.dims.reverse d.src d.dst

/-- The bytes of a copy in all. -/
def CopyDesc.total (d : CopyDesc) : Nat := d.dims.foldl (fun n k => n * k.1) d.len0

/-! Matrix records. -/

def MRec.w (m : MRec) (k hi lo : Nat) : Nat := bits (m.words.getD k 0) hi lo
def MRec.npred (m : MRec) : Nat := m.w 0 43 42
def MRec.rows (m : MRec) : Nat := m.w 0 41 32
def MRec.cntv (m : MRec) : Bool := bit (m.words.getD 0 0) 31
def MRec.tagv (m : MRec) : Bool := bit (m.words.getD 0 0) 30
def MRec.tag (m : MRec) : Nat := m.w 0 29 24
def MRec.isLead (m : MRec) : Bool := bit (m.words.getD 0 0) 22 && bit (m.words.getD 0 0) 23
def MRec.isPartner (m : MRec) : Bool := bit (m.words.getD 0 0) 22 && !bit (m.words.getD 0 0) 23
/-- CHN, RES and DRP, which a partner's record does not use (R231). -/
def MRec.chn (m : MRec) : Bool := bit (m.words.getD 0 0) 21 && !m.isPartner
def MRec.res (m : MRec) : Bool := bit (m.words.getD 0 0) 20 && !m.isPartner
def MRec.drp (m : MRec) : Bool := bit (m.words.getD 0 0) 19 && !m.isPartner
def MRec.wld (m : MRec) : Bool := bit (m.words.getD 0 0) 18
def MRec.wsg (m : MRec) : Bool := bit (m.words.getD 0 0) 17
def MRec.asg (m : MRec) : Bool := bit (m.words.getD 0 0) 16
def MRec.rf (m : MRec) : Nat := m.w 0 15 12
def MRec.of (m : MRec) : Nat := m.w 0 11 8
def MRec.wf (m : MRec) : Nat := m.w 0 7 4
def MRec.af (m : MRec) : Nat := m.w 0 3 0
def MRec.pred0 (m : MRec) : Nat := m.w 14 31 0
def MRec.pred1 (m : MRec) : Nat := m.w 14 63 32
def MRec.partner (m : MRec) : Nat := m.w 15 7 0

/-- The bits of an element of a format code. -/
def elemBits (f : Nat) : Nat := match f with | 0 => 8 | 1 => 8 | 2 => 4 | 3 => 16 | 4 => 16 | _ => 32

/-- The VA of row i of an operand: base and stride are words k and k + 1. -/
def MRec.row (m : MRec) (k i : Nat) : Word := m.words.getD k 0 + wd i * m.words.getD (k + 1) 0

/-! Destination lines (R79, R96). -/

/-- Whether a VA names ordinary memory. -/
def isOrd (va : Word) : Bool := bits va 63 56 == 0 && decide (bits va 55 48 < 0xF0)

/-- Whether `n` bytes at a VA meet a 128-byte line of the run of `len` bytes at `start`. -/
def lineMeets (start : Word) (len : Nat) (va : Word) (n : Nat) : Bool :=
  decide (start.toNat / 128 * 128 < va.toNat + n) && decide (va.toNat < (start.toNat + len + 127) / 128 * 128)

/-- Whether a copy owns a line that `n` bytes at a VA meet, which it has not written yet. -/
def Copy.owns (k : Copy) (asid : BitVec 16) (va : Word) (n : Nat) : Bool :=
  k.asid == asid && match k.kind with
    | .copy d => d.dnode.isNone && (d.runs.drop k.pos).any (fun e => isOrd e.2 && lineMeets e.2 d.len0 va n)
    | .index _ => false

/-- Whether a running record owns such a line of its output. -/
def MRec.owns (m : MRec) (s : State) (asid : BitVec 16) (va : Word) (n : Nat) : Bool :=
  m.state == .running && m.code == 0 && !m.chn && !m.isPartner &&
  (match s.region? m.region with
    | some r => r.asid == asid
    | none => false) &&
  (List.range m.rows).any (fun i => lineMeets (m.row 7 i) (32 * elemBits m.of) va n)

/-- Whether an access of a thread, at a place in its program order, waits for an engine to write its line (R79). -/
def recalled (s : State) (cid seq : Nat) (asid : BitVec 16) (va : Word) (n : Nat) : Bool :=
  isOrd va && (s.copies.any (fun k => !(k.cid == cid && decide (seq ≤ k.seq)) && k.owns asid va n) ||
    s.records.any (fun m => m.owns s asid va n))

/-- Whether an engine issued at a number that passes a test owns a line that `n` bytes at a VA meet. -/
def issuedOwns (s : State) (p : Nat → Bool) (asid : BitVec 16) (va : Word) (n : Nat) : Bool :=
  isOrd va && (s.copies.any (fun k => p k.id && k.owns asid va n) ||
    s.records.any (fun m => m.issued.any p && m.owns s asid va n))

/-- Whether an engine owns such a line (R79, R96). -/
def anyOwns (s : State) (asid : BitVec 16) (va : Word) (n : Nat) : Bool := issuedOwns s (fun _ => true) asid va n

/-- Whether an engine owns any line of an ASID. -/
def asidOwned (s : State) (asid : BitVec 16) : Bool :=
  s.copies.any (fun k => k.asid == asid && match k.kind with
    | .copy d => d.dnode.isNone && (d.runs.drop k.pos).any (fun e => isOrd e.2)
    | .index _ => false) ||
  s.records.any (fun m => m.state == .running && (s.region? m.region).any (fun r => r.asid == asid))

/-- Whether a copy still has to wait for an engine issued before it. -/
def Copy.behind (s : State) (k : Copy) : Bool :=
  match k.kind with
  | .copy d => (d.runs.drop k.pos).any (fun e =>
      (d.snode.isNone && !d.fill && issuedOwns s (· < k.id) k.asid e.1 d.len0) ||
      (d.dnode.isNone && issuedOwns s (· < k.id) k.asid e.2 d.len0))
  | .index _ => false

/-- Whether a running record still has to wait for one with its output. -/
def MRec.behind (s : State) (m : MRec) : Bool :=
  match m.issued, s.region? m.region with
  | some i, some r => (List.range m.rows).any (fun k => issuedOwns s (· < i) r.asid (m.row 7 k) (32 * elemBits m.of))
  | _, _ => false

/-- Whether an access of the engine issued at a number waits for another engine that owns its line (R79, R96). It waits for
every engine issued before it, and for one issued after it that itself waits for none before: so no two wait for each other, a
case of which the rules do not speak (DESIGN CHOICE, log 101). -/
def engineRecalled (s : State) (stamp : Nat) (asid : BitVec 16) (va : Word) (n : Nat) : Bool :=
  isOrd va && (s.copies.any (fun k => k.id != stamp && k.owns asid va n && (decide (k.id < stamp) || !k.behind s)) ||
    s.records.any (fun m => m.issued.any (fun i => i != stamp && (decide (i < stamp) || !m.behind s)) && m.owns s asid va n))

/-- Whether a write of the device itself to `n` bytes of ordinary memory waits: for an engine that owns the line (R79, R96), or
for a pinned line (R81). -/
def heldUp (s : State) (stamp : Nat) (asid : BitVec 16) (va : Word) (n : Nat) : Bool :=
  engineRecalled s stamp asid va n || (match devKey s asid va true with
    | some k => pinned s k n
    | none => false)

end Sys2Proof.Machine
end

