-- ==== Sys2Proof/Machine/Order.lean ====
section
/-! DEFINITION. Phase consistency (R83 to R98): scopes and their instances, releases, acquires, and the stores a weak
load may return. -/

namespace Sys2Proof.Machine

/-- The instance of a scope that holds a core (R83); an agent of no core belongs to the package's and the
system's. -/
def inst (scope : Nat) (core : Option Nat) : Option Nat :=
  match scope, core with
  | 0, c => c.filter (· < 1024)
  | 1, c => c.map (fun n => if n < 1024 then n / 16 else n - 1024)
  | _, _ => some 0

/-- Where an engine of a cluster stands in the instances of R83: in its cluster, in no core. -/
def seat (clus : Nat) : Option Nat := some (1024 + clus)

/-- Whether a release or strong store marked `m` pairs with an acquire at scope `sc` by an agent on `core`
(R84, R89): one instance of the narrower scope holds both. Scope 4 marks an access of a peer package, which
only the system instance holds. -/
def pairs (m : Mark) (sc : Nat) (core : Option Nat) : Bool :=
  if m.scope = 4 then decide (3 ≤ sc)
  else
    let n := min m.scope sc
    match inst n m.core, inst n core with
    | some a, some b => a == b
    | _, _ => false

/-- An acquire by `a` at a scope takes effect: its floor reaches every store that a release pairing with it
covers, and every strong store that pairs (R89). -/
def acquireMark (s : State) (a : Agent) (sc : Nat) (core : Option Nat) : State :=
  { s with hist := s.hist.map (fun r =>
      if !r.seen.contains a && (r.rel.any (pairs · sc core) || r.strong.any (pairs · sc core)) then
        { r with seen := a :: r.seen } else r) }

/-- Whether a record overlaps `n` bytes at a key. -/
def Record.meets (r : Record) (key n : Nat) : Bool :=
  decide (r.key < key + n) && decide (key < r.key + r.old.length)

/-- Whether a store and an access of these bytes at `key` were made through two mappings of one frame that are not both of
pages with NC = 1, nor both read-only by now (R336). -/
def Record.synonym (r : Record) (key : Nat) (via : Option Via) : Bool :=
  match r.via, via with
  | some w, some v => (w.asid != v.asid || w.va.toNat + key != v.va.toNat + r.key) && !(w.nc && v.nc) && (w.w || v.w)
  | _, _ => false

/-- Whether a load of these bytes is one through a synonym: any value stored there, or the initial one, may be returned. -/
def mixed (key n : Nat) (via : Option Via) (h : List Record) : Bool :=
  via.isSome && h.any (fun r => r.meets key n && r.synonym key via)

/-- How many stores meet these bytes. -/
def meeting (key n : Nat) (h : List Record) : Nat := (h.filter (·.meets key n)).length

/-- How many of the newest stores to these bytes a weak load by `a` may pass over (R91): those before the first
that it has stored, loaded or acquired. Stores are passed over whole: R91 does not say whether the other bytes of a load that
must return a newer, narrower store may still come from older ones, and here they do not (DESIGN CHOICE, log 115). -/
def passable (a : Agent) (key n : Nat) : List Record → Nat
  | [] => 0
  | r :: l =>
    if r.meets key n then
      if r.seen.contains a then 0 else 1 + passable a key n l
    else passable a key n l

/-- The memory before the newest `k` stores that overlap these bytes. -/
def undo (mem : List Host.Cell) (key n : Nat) : Nat → List Record → List Host.Cell
  | 0, _ => mem
  | _, [] => mem
  | k + 1, r :: l =>
    if r.meets key n then undo (Mem.writeN mem r.key r.old) key n k l else undo mem key n (k + 1) l

/-- A load by `a` has returned the store below the newest `k`: that one and every older one are behind its floor
(R91). -/
def sawBelow (a : Agent) (key n : Nat) : Nat → List Record → List Record
  | _, [] => []
  | 0, r :: l =>
    (if r.meets key n && !r.seen.contains a then { r with seen := a :: r.seen } else r) :: sawBelow a key n 0 l
  | k + 1, r :: l =>
    if r.meets key n then r :: sawBelow a key n k l else r :: sawBelow a key n (k + 1) l

/-- The engines whose completion on a counter the stores below the newest `k` tell. -/
def toldBelow (key n : Nat) : Nat → List Record → List Agent
  | _, [] => []
  | 0, r :: l => if r.meets key n then r.tells.toList ++ toldBelow key n 0 l else toldBelow key n 0 l
  | k + 1, r :: l => if r.meets key n then toldBelow key n k l else toldBelow key n (k + 1) l

/-- The later releases of an agent cover the writes of the engines whose completions it has read (R88). -/
def vouch (a : Agent) (engs : List Agent) (h : List Record) : List Record :=
  if engs.isEmpty then h
  else h.map (fun r => if engs.any r.auth.contains && !r.auth.contains a then { r with auth := a :: r.auth } else r)

/-- A load by `a` that passes over the newest `k` stores. -/
def readPast (s : State) (a : Agent) (key n k : Nat) : Nat × State :=
  (Mem.num (undo s.mem key n k s.hist) key n,
   { s with hist := vouch a (toldBelow key n k s.hist) (sawBelow a key n k s.hist) })

/-- A load by `a` of `n` bytes that may pass over up to `most` stores: the free value of log 6 picks. -/
def readAny (s : State) (a : Agent) (key n most : Nat) : Nat × State :=
  if most = 0 then readPast s a key n 0
  else readPast { s with tick := s.tick + 1 } a key n (Config.weakPick s.tick % (most + 1))

/-- A weak load by `a` of `n` bytes: the free value of log 6 picks among the stores R91 allows; through a synonym among
all (R336). -/
def weakRead (s : State) (a : Agent) (key n : Nat) (via : Option Via := none) : Nat × State :=
  readAny s a key n (if mixed key n via s.hist then meeting key n s.hist else passable a key n s.hist)

/-- A strong load returns the latest store (R92); through a synonym, any (R336). -/
def strongRead (s : State) (a : Agent) (key n : Nat) (via : Option Via := none) : Nat × State :=
  readAny s a key n (if mixed key n via s.hist then meeting key n s.hist else 0)

/-- The writes of an engine's finished work become visible to the context that observes its completion, and its
later releases cover them (R80, R88, R96). -/
def observe (s : State) (a : Agent) (eng : Agent) : State :=
  { s with hist := s.hist.map (fun r =>
      if r.auth.contains eng && !r.auth.contains a then
        { r with auth := a :: r.auth, seen := if r.seen.contains a then r.seen else a :: r.seen } else r) }

end Sys2Proof.Machine
end

