-- ==== Sys2Proof/Machine/Context.lean ====
section
/-! DEFINITION. The issuing context, the steps of one instruction as a computation that may stop, and the reading
and writing of registers with their full/empty bits (R25, R26, R295). -/

namespace Sys2Proof.Machine

/-- A context at task start, before the dispatcher sets its entry state (R258). -/
def Ctx.blank : Ctx where
  cid := 0
  inc := 0
  task := 0
  region := 0
  pc := 0
  npc := 0
  x := Vector.replicate 64 0
  v := Vector.replicate 16 0
  m := Vector.replicate 8 0
  xfe := BitVec.allOnes 64
  vfe := BitVec.allOnes 16
  mfe := BitVec.allOnes 8
  pend := {}
  rfq := []
  d := Vector.replicate 8 0
  j := 0
  o := 0
  loops := []
  vtype := 0x3010
  cb := 0
  te := 0
  wlim := 0
  gstat := 0
  rstat := 0
  icount := 0
  plumb := 0
  tstat := 0
  tepc := 0
  tcause := 0
  tval := 0
  tlpc := 0
  tscr := Vector.replicate 4 0
  evt := 0
  level := .user
  run := .running
  wait := none
  tags := 0
  seq := 0
  loads := []
  stores := []
  strong := none
  outer := []
  lfaults := []
  sfaults := []
  got := []
  blk := {}
  kept := {}
  feed := none
  sig := none
  lone := false
  fe := none
  barrier := none
  yieldTo := none
  wfeStart := none
  remote := none
  query := none
  mig := none
  stage := 0
  replay := none
  answer := none
  done := []
  save := none
  doom := none
  pxch := []
  landed := false
  ifnc := 0

/-- Why an instruction does not complete in this issue: it parks with a wait of R27, it traps, or it leaves
the rotation. `storeFault` is the report of failed weak stores at a release (R98); `hold` stays at the instruction, which
issues again without having parked. -/
inductive Stop where
  | park (k : WaitKind) (obj : Word)
  | trap (cause : Nat) (val : Word)
  | storeFault
  | away
  | hold
  deriving DecidableEq, Repr

/-- What one instruction does: it changes the state and gives a value, or stops. An instruction that stops has
written nothing before it does (R23). -/
abbrev M := EStateM Stop State

/-- How an instruction that completes goes on: at the next instruction or an address, with the loop-end test
of R150; at a branch target, without it; inside the loop it has pushed; in a trap of the given cause that it
takes after completing (R148); at an address with the block state that a return has put back (R363); or its context
is gone. -/
inductive Ctl where
  | seq
  | onto (npc : Word)
  | jump (pc : Word)
  | enter
  | trapAfter (cause : Nat) (val : Word)
  | back (pc : Word)
  | gone
  deriving DecidableEq, Repr

def park {α : Type} (k : WaitKind) (obj : Word) : M α := throw (.park k obj)
def trap {α : Type} (c : Nat) (v : Word) : M α := throw (.trap c v)

/-- The issuing context. -/
def State.ctx (s : State) : Ctx := (s.slot s.cur).ctx.getD Ctx.blank
def State.setCtx (s : State) (c : Ctx) : State := s.setSlot s.cur { s.slot s.cur with ctx := some c }
def State.mod (s : State) (f : Ctx → Ctx) : State := s.setCtx (f s.ctx)

def ctx : M Ctx := do return (← get).ctx
def modC (f : Ctx → Ctx) : M Unit := modify (·.mod f)

/-- The region of the issuing context; a region of zeros where there is none. -/
def Region.blank : Region where
  id := 0
  rcb := Vector.replicate 32 0
  asid := 0
  rcbva := 0
  level := 0
  parent := none
  cookie := 0
  live := false
  halted := 0
  faulted := false
  lost := 0
  tiles := Vector.replicate 4 0
  stk := []
  spill := Vector.replicate 4 []
  nextRec := 1
  noSave := []
  loose := []
  stuck := []
  still := false

def State.regionOf (s : State) (c : Ctx) : Region := (s.region? c.region).getD Region.blank
def region : M Region := do let s ← get; return s.regionOf s.ctx

/-- Core, cluster and die of the issuing thread. -/
def State.myCore (s : State) : Nat := nameCore s.cur
def State.myClus (s : State) : Nat := nameCluster s.cur
def State.myDie (s : State) : Nat := nameDie s.cur

/-- The slot of a context, by its number. -/
def State.slotOf (s : State) (cid : Nat) : Option Nat :=
  (s.slots.find? (fun e => match e.2.ctx with | some c => c.cid == cid | none => false)).map (·.1)

/-- Whether a context stands in the Trap state (Table 19.2). -/
def Ctx.inTrap (c : Ctx) : Bool := bit c.tstat 1

/-! Full/empty bits. Registers are numbered x n, v 64 + n, m 80 + n (R27). -/

/-- Whether a register is full; x0 and m0 always are (R25). -/
def Ctx.isFull (c : Ctx) (n : Nat) : Bool :=
  if n < 64 then n == 0 || bit c.xfe n
  else if n < 80 then bit c.vfe (n - 64)
  else n == 80 || bit c.mfe (n - 80)

/-- Whether a register has a pending result. -/
def Ctx.isPend (c : Ctx) (n : Nat) : Bool :=
  if n < 64 then bit c.pend.x n else if n < 80 then bit c.pend.v (n - 64) else bit c.pend.m (n - 80)

/-- A register's full bit set to a value. -/
def Ctx.setFull (c : Ctx) (n : Nat) (b : Bool) : Ctx :=
  if n < 64 then { c with xfe := setBit c.xfe n b }
  else if n < 80 then { c with vfe := setBit c.vfe (n - 64) b }
  else { c with mfe := setBit c.mfe (n - 80) b }

/-- A register's pending bit set to a value. -/
def Ctx.setPend (c : Ctx) (n : Nat) (b : Bool) : Ctx :=
  { c with pend :=
      if n < 64 then { c.pend with x := setBit c.pend.x n b }
      else if n < 80 then { c.pend with v := setBit c.pend.v (n - 64) b }
      else { c.pend with m := setBit c.pend.m (n - 80) b } }

/-- Whether a set names a register. -/
def RegSet.has (r : RegSet) (n : Nat) : Bool :=
  if n < 64 then bit r.x n else if n < 80 then bit r.v (n - 64) else bit r.m (n - 80)

/-- A set with the register numbers of a list; x0 and m0 are constants. -/
def RegSet.add (r : RegSet) (l : List Nat) : RegSet :=
  l.foldl (fun r n =>
    if n = 0 ∨ n = 80 then r
    else if n < 64 then { r with x := setBit r.x n true }
    else if n < 80 then { r with v := setBit r.v (n - 64) true }
    else { r with m := setBit r.m (n - 80) true }) r

/-- The set of register numbers of a list. -/
def RegSet.of (l : List Nat) : RegSet := RegSet.add {} l

/-- The register a load fills, by its number. -/
def LoadDst.num : LoadDst → Nat
  | .x r _ => r.val
  | .v r _ _ => 64 + r.val
  | .operand => 0

/-- The destination of the outstanding load or held load fault whose inputs meet a test (R295, R298). -/
def Ctx.lockedBy (c : Ctx) (p : RegSet → Bool) : Option Nat :=
  match c.loads.find? (fun l => p l.inputs) with
  | some l => some l.dst.num
  | none => (c.lfaults.find? (fun l => p l.inputs)).map (·.dst.num)

/-- A read of a register parks while it is empty (R25). -/
def needFull (n : Nat) : M Unit := do
  if (← ctx).isFull n then pure () else park .reg (wd n)

/-- What a load read is not written while the load, or its held fault, is outstanding (R295, R298): `p` tells the inputs
that are about to be written. -/
def needUnlocked (p : RegSet → Bool) : M Unit := do
  match (← ctx).lockedBy p with
  | some d => park .reg (wd d)
  | none => pure ()

/-- A destination parks while a result for it is pending, or while a load that reads it is outstanding
(R25, R295). -/
def needDst (n : Nat) : M Unit := do
  if n != 0 && n != 80 && (← ctx).isPend n then park .reg (wd n)
  else needUnlocked (·.has n)

/-- VTYPE is not written while a load that read it is outstanding (R295). -/
def needVtype : M Unit := needUnlocked (·.vtype)

/-- A display register is not written while a load that read it is outstanding (R295). -/
def needDisplay (d : Nat) : M Unit := needUnlocked (fun r => bit r.d d)

/-! Values. -/

/-- The value of x n; x0 reads 0 (R139). -/
def Ctx.getX (c : Ctx) (n : Fin 64) : Word := if n = 0 then 0 else c.x[n]

/-- x n written and made full; a write of x0 is discarded (R139). -/
def Ctx.putX (c : Ctx) (n : Fin 64) (w : Word) : Ctx :=
  if n = 0 then c else { c with x := c.x.set n w, xfe := setBit c.xfe n true }

def Ctx.getV (c : Ctx) (n : Fin 16) : VWord := c.v[n]
def Ctx.putV (c : Ctx) (n : Fin 16) (w : VWord) : Ctx := { c with v := c.v.set n w, vfe := setBit c.vfe n true }

/-- m0 reads as all ones (R197). -/
def Ctx.getM (c : Ctx) (n : Fin 8) : MWord := if n = 0 then BitVec.allOnes 128 else c.m[n]

/-- m n written and made full; a write of m0 is discarded (R197). -/
def Ctx.putM (c : Ctx) (n : Fin 8) (w : MWord) : Ctx :=
  if n = 0 then c else { c with m := c.m.set n w, mfe := setBit c.mfe n true }

def readX (n : Fin 64) : M Word := do needFull n; return (← ctx).getX n
def writeX (n : Fin 64) (w : Word) : M Unit := modC (·.putX n w)
def readV (n : Fin 16) : M VWord := do needFull (64 + n); return (← ctx).getV n
def writeV (n : Fin 16) (w : VWord) : M Unit := modC (·.putV n w)
def readM (n : Fin 8) : M MWord := do needFull (80 + n); return (← ctx).getM n
def writeM (n : Fin 8) (w : MWord) : M Unit := modC (·.putM n w)

/-- A write of s n by a core at a clock (R28). -/
def CoreSt.putS (k : CoreSt) (clock : Nat) (n : Fin 8) (w : Word) : CoreSt :=
  { k with s := k.s.set n w
           sWrites := (clock, n, k.s[n]) :: k.sWrites.filter (fun e => decide (clock < e.1 + 3)) }

/-- What a read of s n at a clock returns: a write at clock t is seen from t + 3 on (R28). -/
def CoreSt.getS (k : CoreSt) (clock : Nat) (n : Fin 8) : Word :=
  (k.sWrites.filter (fun e => e.2.1 == n && decide (clock < e.1 + 3))).foldl (fun _ e => e.2.2) k.s[n]

/-- A destination whose result comes later: emptied with a result pending (R25); x0 takes none. -/
def Ctx.awaitReg (c : Ctx) (n : Nat) : Ctx :=
  if n = 0 ∨ n = 80 then c else (c.setFull n false).setPend n true

/-- A result arrives for x n: it sets the register full, and RFILLs held behind it are applied next (R25,
Table 9.13). -/
def Ctx.fillX (c : Ctx) (n : Fin 64) (w : Word) : Ctx :=
  let c := (c.putX n w).setPend n false
  (c.rfq.filter (·.1 == n)).foldl (fun c e => c.putX n e.2) { c with rfq := c.rfq.filter (·.1 != n) }

/-- The result that x n waited for does not come: x n is as it was, and RFILLs held behind it are applied (R193, R195). -/
def Ctx.giveBack (c : Ctx) (n : Fin 64) (was : Bool) : Ctx :=
  let c := if n = 0 then c else (c.setFull n was).setPend n false
  (c.rfq.filter (·.1 == n)).foldl (fun c e => c.putX n e.2) { c with rfq := c.rfq.filter (·.1 != n) }

end Sys2Proof.Machine
end

