-- ==== Sys2Proof/Machine/Crypto.lean ====
section
/-! DEFINITION. The standards that the spec names for sealing and for link encryption (R352, R371, R375), taken from their
own texts (PRESUMED, log 12): the hash functions of FIPS 202, AES-256 of FIPS 197, and GCM of SP 800-38D. -/

namespace Sys2Proof.Machine

/-! The sponge of FIPS 202. Its state is five planes of five lanes, plane y first. -/

/-- The exclusive or of two lists, element by element. -/
def xorL {w : Nat} (a b : List (BitVec w)) : List (BitVec w) := List.zipWith (· ^^^ ·) a b

/-- Every lane combined with the parities of the two sheets beside it. -/
def sheetMix (a : List (List (BitVec 64))) : List (List (BitVec 64)) :=
  let par := a.foldl xorL (List.replicate 5 0)
  a.map (xorL (xorL par.rotateRight ((par.rotateLeft).map (·.rotateLeft 1))))

/-- The walk that turns each lane and moves it to the place of the next: after step k of 24 the lane taken at (x, y) has been
turned by k(k + 1)/2 and stands at (y, 2x + 3y). -/
def laneWalk : Nat → Nat → Nat → BitVec 64 → List (List (BitVec 64)) → List (List (BitVec 64))
  | 0, _, _, _, a => a
  | n + 1, x, y, v, a =>
    let k := 24 - n
    let z := (2 * x + 3 * y) % 5
    let row := a.getD z []
    laneWalk n y z (row.getD y 0) (a.set z (row.set y (v.rotateLeft (k * (k + 1) / 2 % 64))))

/-- Each row combined with its own neighbours to the right. -/
def rowMix (r : List (BitVec 64)) : List (BitVec 64) :=
  xorL r (List.zipWith (fun b c => ~~~b &&& c) (r.rotateLeft) (r.rotateLeft 2))

/-- The shift register that yields the round constants, stepped once. -/
def constStep (r : Byte) : Byte := (r <<< 1) ^^^ (if r.getLsbD 7 then 0x71 else 0)

/-- The constant of a round and the shift register after it: seven bits of the register go to the places 2^j - 1. -/
def roundConst (r : Byte) : BitVec 64 × Byte :=
  (List.range 7).foldl (fun (e : BitVec 64 × Byte) j =>
    let r := constStep e.2
    (if r.getLsbD 1 then e.1 ^^^ (1#64 <<< (2 ^ j - 1)) else e.1, r)) (0, r)

/-- The permutation: 24 rounds, each with its constant at lane (0, 0). -/
def permuteFrom : Nat → Byte → List (List (BitVec 64)) → List (List (BitVec 64))
  | 0, _, a => a
  | n + 1, r, a =>
    let (c, r) := roundConst r
    let a := sheetMix a
    let a := (laneWalk 24 1 0 ((a.getD 0 []).getD 1 0) a).map rowMix
    permuteFrom n r (a.modify 0 (·.modify 0 (· ^^^ c)))

def permute : List (List (BitVec 64)) → List (List (BitVec 64)) := permuteFrom 24 1

/-- Pieces of `n` elements. -/
def pieces {α : Type} (n : Nat) (l : List α) : List (List α) :=
  (List.range ((l.length + n - 1) / n)).map (fun i => (l.drop (n * i)).take n)

/-- A little-endian lane. -/
def laneOf (l : List Byte) : BitVec 64 := BitVec.ofNat 64 (l.foldr (fun b v => b.toNat + 256 * v) 0)

/-- A block of at most 200 bytes taken into the state. -/
def takeBlock (a : List (List (BitVec 64))) (l : List Byte) : List (List (BitVec 64)) :=
  permute (List.zipWith xorL a (pieces 5 ((pieces 8 (l ++ List.replicate (200 - l.length) 0)).map laneOf)))

/-- The message with its suffix and the padding to whole blocks of `rate` bytes. -/
def padTo (rate : Nat) (suffix : Byte) (l : List Byte) : List Byte :=
  match rate - l.length % rate with
  | 1 => l ++ [suffix ^^^ 0x80]
  | k => l ++ suffix :: (List.replicate (k - 2) 0 ++ [0x80])

/-- The first `rate` bytes of the state. -/
def giveBlock (rate : Nat) (a : List (List (BitVec 64))) : List Byte :=
  (a.flatten.flatMap (fun v => (List.range 8).map (fun i => v.extractLsb' (8 * i) 8))).take rate

/-- Blocks of output. -/
def squeeze (rate : Nat) : Nat → List (List (BitVec 64)) → List Byte
  | 0, _ => []
  | n + 1, a => giveBlock rate a ++ squeeze rate n (permute a)

/-- `n` bytes of the sponge over a message. -/
def sponge (rate : Nat) (suffix : Byte) (n : Nat) (l : List Byte) : List Byte :=
  (squeeze rate ((n + rate - 1) / rate)
    ((pieces rate (padTo rate suffix l)).foldl takeBlock (List.replicate 5 (List.replicate 5 0)))).take n

/-- SHAKE128 and SHAKE256 with `n` bytes of output, SHA3-256 and SHA3-512. -/
def shake128 : Nat → List Byte → List Byte := sponge 168 0x1F
def shakeBytes : Nat → List Byte → List Byte := sponge 136 0x1F
def sha3w256 : List Byte → List Byte := sponge 136 0x06 32
def sha3w512 : List Byte → List Byte := sponge 72 0x06 64

/-- SHAKE256 with 64 bytes of output, the first byte least significant. -/
def shake256 (l : List Byte) : BitVec 512 :=
  BitVec.ofNat 512 ((shakeBytes 64 l).foldr (fun b v => b.toNat + 256 * v) 0)

/-! AES-256. -/

/-- Multiplication by x in GF(2^8) of AES. -/
def xtime (b : Byte) : Byte := if b.getLsbD 7 then (b <<< 1) ^^^ 0x1B else b <<< 1

/-- The product in GF(2^8). -/
def gmul (a b : Byte) : Byte :=
  ((List.range 8).foldl (fun (e : Byte × Byte) i => (if b.getLsbD i then e.1 ^^^ e.2 else e.1, xtime e.2)) (0, a)).1

/-- The S-box: inverse (the 254th power), then the affine map. -/
def subByte (b : Byte) : Byte :=
  let sq (x : Byte) : Byte := gmul x x
  let p := (List.range 5).foldl (fun (e : Byte × Byte) _ => (gmul e.1 e.2, sq e.2)) (sq b, sq (sq b))
  let i := gmul p.1 p.2
  i ^^^ i.rotateLeft 1 ^^^ i.rotateLeft 2 ^^^ i.rotateLeft 3 ^^^ i.rotateLeft 4 ^^^ 0x63

/-- The expanded key: 60 words of 4 bytes, grown by one word at a time. -/
def expandKey (k : List Byte) : List (List Byte) :=
  (List.range 52).foldl (fun (w : List (List Byte)) j =>
    let i := j + 8
    let t := w.getD (i - 1) []
    let t := if i % 8 = 0 then
        let r := (t.drop 1 ++ t.take 1).map subByte
        ((r.getD 0 0) ^^^ (1 <<< (i / 8 - 1) : Byte)) :: r.drop 1
      else if i % 8 = 4 then t.map subByte else t
    w ++ [List.zipWith (· ^^^ ·) (w.getD (i - 8) []) t]) ((List.range 8).map (fun i => (k.drop (4 * i)).take 4))

/-- A state of 16 bytes, by columns: SubBytes and ShiftRows. -/
def subShift (s : List Byte) : List Byte := (List.range 16).map (fun i => subByte (s.getD ((i + 4 * (i % 4)) % 16) 0))

def mixColumn (c : List Byte) : List Byte :=
  let g (i : Nat) : Byte := c.getD (i % 4) 0
  (List.range 4).map (fun i => xtime (g i) ^^^ (xtime (g (i + 1)) ^^^ g (i + 1)) ^^^ g (i + 2) ^^^ g (i + 3))

def mixColumns (s : List Byte) : List Byte := (List.range 4).flatMap (fun i => mixColumn ((s.drop (4 * i)).take 4))

/-- A block encrypted under an expanded key. -/
def aesBlock (w : List (List Byte)) (b : List Byte) : List Byte :=
  let key (r : Nat) : List Byte := ((w.drop (4 * r)).take 4).flatten
  let add (s : List Byte) (r : Nat) : List Byte := List.zipWith (· ^^^ ·) s (key r)
  let s := (List.range 13).foldl (fun s r => add (mixColumns (subShift s)) (r + 1)) (add b 0)
  add (subShift s) 14

/-! GCM. -/

/-- The number of bytes, most significant first. -/
def beNat (l : List Byte) : Nat := l.foldl (fun v b => v * 256 + b.toNat) 0

/-- `n` bytes of a number, most significant first. -/
def beBytes (n v : Nat) : List Byte := (List.range n).map (fun i => BitVec.ofNat 8 (v / 256 ^ (n - 1 - i)))

/-- The product in GF(2^128) of GCM, whose first bit is the most significant. -/
def ghashMul (x y : BitVec 128) : BitVec 128 :=
  ((List.range 128).foldl (fun (e : BitVec 128 × BitVec 128) i =>
    (if x.getMsbD i then e.1 ^^^ e.2 else e.1,
     if e.2.getLsbD 0 then (e.2 >>> 1) ^^^ (0xE1#128 <<< 120) else e.2 >>> 1)) (0, y)).1

/-- Bytes padded with zeros to whole blocks. -/
def padBlocks (l : List Byte) : List Byte := l ++ List.replicate ((16 - l.length % 16) % 16) 0

/-- GHASH of whole blocks. -/
def ghash (h : BitVec 128) (l : List Byte) : BitVec 128 :=
  (List.range (l.length / 16)).foldl (fun y i => ghashMul (y ^^^ BitVec.ofNat 128 (beNat ((l.drop (16 * i)).take 16))) h) 0

/-- Bytes combined with the key stream that starts at counter block 2. -/
def gcmCtr (w : List (List Byte)) (iv : List Byte) (l : List Byte) : List Byte :=
  (List.range ((l.length + 15) / 16)).flatMap (fun i =>
    List.zipWith (· ^^^ ·) ((l.drop (16 * i)).take 16) (aesBlock w (iv ++ beBytes 4 (i + 2))))

/-- The tag of a ciphertext with its associated data. -/
def gcmTag (w : List (List Byte)) (iv aad ct : List Byte) : BitVec 128 :=
  let h := BitVec.ofNat 128 (beNat (aesBlock w (List.replicate 16 0)))
  let s := ghash h (padBlocks aad ++ padBlocks ct ++ beBytes 8 (8 * aad.length) ++ beBytes 8 (8 * ct.length))
  s ^^^ BitVec.ofNat 128 (beNat (aesBlock w (iv ++ beBytes 4 1)))

/-- AES-256-GCM with a 96-bit IV: ciphertext and tag. -/
def gcmSeal (key : BitVec 256) (iv : BitVec 96) (aad pt : List Byte) : List Byte × BitVec 128 :=
  let w := expandKey (beBytes 32 key.toNat)
  let ct := gcmCtr w (beBytes 12 iv.toNat) pt
  (ct, gcmTag w (beBytes 12 iv.toNat) aad ct)

/-- AES-256-GCM opened; none where the tag fails. -/
def gcmOpen (key : BitVec 256) (iv : BitVec 96) (aad ct : List Byte) (tag : BitVec 128) : Option (List Byte) :=
  let w := expandKey (beBytes 32 key.toNat)
  if gcmTag w (beBytes 12 iv.toNat) aad ct = tag then some (gcmCtr w (beBytes 12 iv.toNat) ct) else none

end Sys2Proof.Machine
end

