-- ==== Sys2Proof/Machine/Fabric.lean ====
section
/-! DEFINITION. Sending over the Scaffold fabric: nodes and routes (R343 to R345), requests with sequence ids
(R346), and the transmit side of a port (R350 to R356). -/

namespace Sys2Proof.Machine

/-- This package's own NODE (R384). -/
def State.node (s : State) : BitVec 16 := BitVec.ofNat 16 (bits s.fabric.reg 10 0)

/-- The torus extents X and Y (R343). -/
def State.extX (s : State) : Nat := bits s.fabric.reg 27 24 + 1
def State.extY (s : State) : Nat := bits s.fabric.reg 31 28 + 1

/-- Coordinates (a, b, x, y) of a node. -/
def coords (n : Nat) : Nat × Nat × Nat × Nat := (n % 4, n / 4 % 2, n / 8 % 16, n / 128)

/-- Whether a node lies inside the extents. -/
def inExtents (s : State) (n : BitVec 16) : Bool :=
  let (_, _, x, y) := coords n.toNat
  decide (n.toNat ≤ 2047) && decide (x < s.extX) && decide (y < s.extY)

/-- Whether another node counts as lost: it has been declared lost, or this package has fenced itself (R348). -/
def isLost (s : State) (n : BitVec 16) : Bool := n != s.node && (s.fabric.lost.contains n || s.fabric.fenced)

/-- Whether a node is present (R343): inside the extents, joined and not lost since. Of a package of which this one has
heard nothing, a free value says from when on it has joined (log 24). -/
def isPresent (s : State) (n : BitVec 16) : Bool :=
  inExtents s n && !isLost s n &&
    (if n = s.node then s.fabric.joined else s.fabric.present.contains n || decide (Config.joinsAt n ≤ s.tick))

/-- The outcome code of a request to a node that cannot be sent (R193, R194): 6 for a lost package, 2 for one
outside the extents or never joined. -/
def absentCode (s : State) (n : BitVec 16) : Option Nat :=
  if isLost s n then some 6 else if isPresent s n then none else some 2

/-- The neighbour at a port (R344), coded as in R340. -/
def neighbour (s : State) (p : Nat) : Option Nat :=
  let (a, b, x, y) := coords s.node.toNat
  let mk (a b x y : Nat) : Option Nat := some (128 * y + 8 * x + 4 * b + a)
  match p with
  | 0 => if a < 3 then mk (a + 1) b x y else none
  | 1 => if 0 < a then mk (a - 1) b x y else none
  | 2 => if b < 1 then mk a (b + 1) x y else none
  | 3 => if 0 < b then mk a (b - 1) x y else none
  | 4 => if s.extX = 1 then none else mk a b ((x + 1) % s.extX) y
  | 5 => if s.extX = 1 then none else mk a b ((x + s.extX - 1) % s.extX) y
  | 6 => if s.extY = 1 then none else mk a b x ((y + 1) % s.extY)
  | _ => if s.extY = 1 then none else mk a b x ((y + s.extY - 1) % s.extY)

def State.port (s : State) (p : Fin 8) : Port := s.ports[p]
def State.modPort (s : State) (p : Fin 8) (f : Port → Port) : State :=
  { s with ports := s.ports.set p (f (s.port p)) }

/-- Whether routing may use a port for requests and replies (R345, R355, R356); a fenced package uses none (R348). -/
def usable (s : State) (p : Nat) : Bool :=
  match neighbour s p with
  | some n =>
    let q := s.port (Fin.ofNat 8 p)
    q.link == .up && q.agen != 0 && !q.hold && !isLost s (BitVec.ofNat 16 n)
  | none => false

/-- The shorter way round a torus dimension, + on a tie (R345). -/
def wayRound (x x' ext plus : Nat) : Nat :=
  let d := (x' + ext - x) % ext
  if d ≤ ext - d then plus else plus + 1

/-- The port a flit takes next towards a destination (R345), and whether that is a detour: the phase's port, the other order
of a and b, or a neighbouring plane; none where every one is blocked. It does not go back by the port it came in by, so that a
detour goes on with its phase. -/
def route (s : State) (dest : BitVec 16) (came : Option (Fin 8) := none) : Option (Fin 8 × Bool) :=
  let (a, b, x, y) := coords s.node.toNat
  let (a', b', x', y') := coords dest.toNat
  let pa := if a < a' then 0 else 1
  let pb := if b < b' then 2 else 3
  let plane := [if b = 0 then 2 else 3, if a = 3 then 1 else 0]
  let own : List Nat :=
    if x ≠ x' then [wayRound x x' s.extX 4]
    else if y ≠ y' then [wayRound y y' s.extY 6]
    else if a ≠ a' then (if b ≠ b' then [pa, pb] else [pa])
    else [pb]
  let ok (p : Nat) : Bool := usable s p && came != some (Fin.ofNat 8 p)
  match own.find? ok with
  | some p => some (Fin.ofNat 8 p, false)
  | none => (plane.find? ok).map (fun p => (Fin.ofNat 8 p, true))

/-- A transmitter's counter moved on by a number of slots, with KEY_LOW and HOLD where they are reached (R352, R356);
2^48 - 1 is never issued. -/
def useSlots (s : State) (p : Fin 8) (k : Nat) : State :=
  let o := (s.port p).txc
  let n := min (o + k) (2 ^ 48 - 2)
  let s := s.modPort p (fun q => { q with txc := n })
  let s := if o < 2 ^ 48 - 2 ^ 32 ∧ 2 ^ 48 - 2 ^ 32 ≤ n then s.due (.keyLow p) else s
  if o < 2 ^ 48 - 2 ∧ n = 2 ^ 48 - 2 then s.due (.linkHold p) else s

/-- Whether a payload is one that a link under the bootstrap key does not admit (R355). -/
def isPlain (b : Payload) : Bool :=
  match b with
  | .request _ _ => true
  | .reply _ _ _ _ => true
  | .more => true
  | _ => false

/-- TYPE of Table 22.2; a later flit has that of the flit before it. -/
def flitType (b : Payload) : Nat :=
  match b with
  | .idle => 0
  | .request _ _ => 1
  | .more => 1
  | .reply _ _ _ _ => 2
  | .control _ => 3
  | .keySwitch _ => 4

/-- The bytes that a flit carries in its bytes 8 to 63. -/
def Wire.data (w : Wire) : List Byte := ((Config.wireBytes w.payload).drop w.off).take 56

/-- LEN (Table 22.2): the bytes in this flit and those that continue in later flits. -/
def Wire.len (w : Wire) : Nat := (Config.wireBytes w.payload).length - w.off

/-- The header of a flit (Table 22.2). -/
def Sending.header (f : Sending) : Word :=
  wd (f.rseq.toNat * 2 ^ 52 + f.rack.toNat * 2 ^ 40 + f.nak.toNat * 2 ^ 39 + f.flit.vc.toNat * 2 ^ 36 +
    flitType f.flit.payload * 2 ^ 32 + f.flit.len % 2 ^ 32)

/-- The IV of a slot (R352): NODE and port of the transmitter, the generation of the key, and the counter value. -/
def slotIv (node : BitVec 16) (p : Fin 8) (gen : BitVec 8) (counter : Nat) : BitVec 96 :=
  BitVec.ofNat 96 (node.toNat * 2 ^ 80 + p.val * 2 ^ 76 + gen.toNat * 2 ^ 68 + counter % 2 ^ 48)

/-- The 80 bytes of a slot (R350, R352): the flit encrypted, and its tag. -/
def Sending.slot (f : Sending) (node : BitVec 16) (p : Fin 8) : List Byte :=
  let (ct, tag) := gcmSeal f.key (slotIv node p f.gen f.counter) []
    (toBytes 8 f.header.toNat ++ f.flit.data ++ List.replicate (56 - f.flit.data.length) 0)
  ct ++ beBytes 16 tag.toNat

/-- A flit put into the next slot of a transmitter under a retry sequence, with the acknowledgement of the other direction
(R350, R351). -/
def putSlot (s : State) (p : Fin 8) (seq : BitVec 12) (w : Wire) : State :=
  let s := s.modPort p (fun (q : Port) => { q with
    nakDue := false, line := q.line ++ [⟨q.txc, q.key, q.agen, seq, q.rnext - 1, q.nakDue, w⟩] })
  useSlots s p 1

/-- The next slot of a transmitter used for a flit; false where the counter leaves no slot but that of a key switch (R356). -/
def takeSlot (s : State) (p : Fin 8) (seq : BitVec 12) (w : Wire) : Bool × State :=
  if 2 ^ 48 - 2 ≤ (s.port p).txc then (false, s) else (true, putSlot s p seq w)

/-- An idle flit in the next slot (R350). -/
def idleSlot (s : State) (p : Fin 8) : State := (takeSlot s p (s.port p).rseq ⟨Config.channel 4, 0, .idle⟩).2

/-- The slots of a transmitter in which no flit waits, up to three in a clock (R350): those of the clocks that were passed
over, and those of the clock that begins (log 26). -/
def idleSlots (s : State) (p : Fin 8) (skipped : Nat) : State :=
  if (s.port p).link != .up || (s.port p).hold then s
  else
    let n := Config.idleSlots s.tick % (3 * skipped + 1)
    let k := Config.idleSlots (s.tick + 1) % 4
    (List.range k).foldl (fun s _ => idleSlot s p) { useSlots s p n with tick := s.tick + 2 }

/-- A flit sent when the retry layer admits it (R351, R354 to R356); otherwise it waits in the link. Without progress of
RACK for 10 µs the link retrains. -/
def sendFlit (s : State) (p : Fin 8) (w : Wire) : State :=
  let q := s.port p
  let wait (s : State) : State := s.modPort p (fun (q : Port) => { q with queue := q.queue ++ [w] })
  if q.link == .up && !q.hold && decide (q.replay.length < 256) && (!isPlain w.payload || (q.agen != 0 && !(q.arm && q.peer))) then
    match takeSlot s p q.rseq w with
    | (false, s) => wait s
    | (true, s) =>
      let s := s.modPort p (fun (q : Port) => { q with rseq := q.rseq + 1, replay := q.replay ++ [(q.rseq, w)] })
      if s.timers.any (·.2 == .linkRetrain p) then s else s.timeout (10 * micro) (.linkRetrain p)
  else wait s

/-- Whether a virtual channel is one of detoured traffic (R345). -/
def isDetoured (vc : BitVec 3) : Bool := vc == Config.channel 2 || vc == Config.channel 3

/-- The flits of a payload (R350), 56 bytes in each; `det` tells a detour (R345). -/
def flitsOf (det : Bool) (b : Payload) : List Wire :=
  let cut (k : BitVec 3) : List Wire :=
    let n := (Config.wireBytes b).length
    (List.range (max 1 ((n + 55) / 56))).map (fun i => ⟨Config.channel k, 56 * i, b⟩)
  match b with
  | .request _ _ => cut (if det then 2 else 0)
  | .reply _ _ _ _ => cut (if det then 3 else 1)
  | _ => [⟨Config.channel 4, 0, b⟩]

/-- A payload sent through a port. -/
def transmit (s : State) (p : Fin 8) (det : Bool) (b : Payload) : State := (flitsOf det b).foldl (fun s w => sendFlit s p w) s

/-- A payload sent towards its destination, or held here until a route appears (R345); what names this package is here
already, and is taken within half of the 2 ms of R348. `det` tells whether it has been detoured, which it stays, and `came` the
port it came in by. -/
def forward (s : State) (dest : BitVec 16) (b : Payload) (det : Bool := false) (came : Option (Fin 8) := none) : State :=
  if dest = s.node then
    match b with
    | .request _ r => s.dueBy (s.clock + 1000 * micro) (.fabricRequestArrival r)
    | .reply _ src seq r => s.dueBy (s.clock + 1000 * micro) (.remoteReply src seq r)
    | _ => s
  else match route s dest came with
  | some (p, d) => transmit s p (det || d) b
  | none => { s with fabric := { s.fabric with transit := s.fabric.transit ++ [(b, det, came)] } }

/-! Packages out of reach (R348). -/

/-- The state without the timeouts that a test picks. -/
def dropTimers (s : State) (p : Ev → Bool) : State := { s with timers := s.timers.filter (fun e => !p e.2) }

/-- Whether every port of the package is unreachable (R348). -/
def cutOff (s : State) : Bool := !(List.range 8).any (usable s)

/-- A timeout of 500 µs that stands while a condition holds. -/
def watchFor (s : State) (b : Bool) (e : Ev) : State :=
  if !b then dropTimers s (· == e)
  else if s.timers.any (·.2 == e) then s else s.timeout (500 * micro) e

/-- The other packages that this one has heard of or has asked. -/
def knownNodes (s : State) : List (BitVec 16) :=
  ((s.fabric.present ++ (s.fabric.sent ++ s.fabric.waiting).map (·.dest)).eraseDups).filter (fun n => n != s.node && !isLost s n)

/-- A package that has been unreachable by every route for 500 µs is lost, and one that has been cut off for as long fences
itself (R348). -/
def watchFence (s : State) : State :=
  if !s.fabric.joined || s.fabric.fenced then s
  else (knownNodes s).foldl (fun s n => watchFor s (route s n).isNone (.packageLost n)) (watchFor s (cutOff s) .packageFence)

/-- The same for a package that is asked something. -/
def watchDest (s : State) (n : BitVec 16) : State :=
  if s.fabric.joined && !s.fabric.fenced && n != s.node && !isLost s n && (route s n).isNone then
    watchFor s true (.packageLost n)
  else s

/-- The interval after which a missing reply makes a request be sent again (R348). -/
def retryClocks : Nat := 100 * micro

/-- The bursts to a node that a completed release at system scope covers and the node has not yet been told of (R89, log
56). -/
def covered (s : State) (dest : BitVec 16) : List (BitVec 32) :=
  s.hist.filterMap (fun r =>
    if farKey dest 0 ≤ r.key ∧ r.key < farKey dest 0 + 2 ^ 32 ∧ r.rel.any (fun m => decide (3 ≤ m.scope)) then
      some (BitVec.ofNat 32 (r.key - farKey dest 0))
    else none)

/-- The burst of a copy kept among the stores (log 56). -/
def farStore (dest : BitVec 16) (seq : BitVec 32) (o : Origin) : Option Record :=
  match o with
  | .copy id => some { key := farKey dest seq, old := [], auth := [.engine id], seq := 0, rel := [], strong := none, seen := [] }
  | _ => none

/-- A new request to a node (R346): it takes the next sequence id, and waits while 4,096 are unanswered. -/
def fabSend (s : State) (dest : BitVec 16) (name : Nat) (inc asid : BitVec 16) (body : ReqBody) (o : Origin) : State :=
  let f := s.fabric
  let seq := Tab.getD f.seqs dest.toNat 0
  let r : Request :=
    { src := s.node, join := f.join, seq, name := BitVec.ofNat 14 name, inc, asid, cov := covered s dest, body }
  let s := { s with hist := (farStore dest seq o).toList ++ s.hist }
  let s := watchDest { s with fabric := { f with seqs := Tab.set f.seqs dest.toNat (seq + 1) } } dest
  if 4096 ≤ (f.sent.filter (·.dest == dest)).length then
    { s with fabric := { s.fabric with waiting := s.fabric.waiting ++ [⟨dest, r, o⟩] } }
  else
    let s := { s with fabric := { s.fabric with sent := s.fabric.sent ++ [⟨dest, r, o⟩] } }
    (forward s dest (.request dest r)).timeout retryClocks (.requestRetry dest seq)

/-- The latest 4,096 replies kept per source (R347). -/
def keepReplies (src : BitVec 16) (l : List (BitVec 16 × BitVec 32 × Reply)) : List (BitVec 16 × BitVec 32 × Reply) :=
  ((l.filter (·.1 == src)).take 4096) ++ l.filter (·.1 != src)

/-- A request performed: its reply is recorded and sent (R347). -/
def answerReq (s : State) (src : BitVec 16) (seq : BitVec 32) (r : Reply) : State :=
  forward { s with fabric := { s.fabric with replies := keepReplies src ((src, seq, r) :: s.fabric.replies) } }
    src (.reply src s.node seq r)

end Sys2Proof.Machine
end

