-- ==== Sys2Proof/Machine/Flags.lean ====
section
/-! DEFINITION. What a write leaves in each control register (R5, R6, Tables 2.4 to 2.7, 9.14, 10.1, 19.2, 23.2),
the plumb checker's block state (R362 to R364) and the loop-end test (R150). -/

namespace Sys2Proof.Machine

/-- The width in bits of an element type (Table 10.2). -/
def etWidth (et : Nat) : Nat :=
  match et with
  | 0 => 8 | 1 => 16 | 2 => 32 | 3 => 64 | 4 => 8 | 5 => 16 | 6 => 32 | 7 => 64
  | 8 => 16 | 9 => 16 | 10 => 32 | 11 => 64 | _ => 8

/-- The value that a write of `w` leaves in VTYPE (R198). -/
def vtypePut (old w : Word) : Word :=
  let et := if 13 ≤ bits w 15 12 then bits old 15 12 else bits w 15 12
  let cst := if 13 ≤ bits w 39 36 then bits old 39 36 else bits w 39 36
  wd (cst * 2 ^ 36 + bits w 35 33 * 2 ^ 33 + bits w 19 18 * 2 ^ 18 + et * 2 ^ 12 +
    min (bits w 7 0) (1024 / etWidth et))

/-- The element type, length and rounding mode that VTYPE holds. -/
def vtET (t : Word) : Nat := bits t 15 12
def vtVL (t : Word) : Nat := bits t 7 0
def vtRM (t : Word) : Nat := bits t 19 18

/-- GSTAT after a write: PINSP takes its bit, DISB is cleared by a 1 (Table 2.7). -/
def gstatPut (old rw w1c : Word) : Word :=
  setBit (setBit old 16 (bit rw 16)) 7 (bit old 7 && !bit w1c 7)

/-- RSTAT after a write (Table 9.14). -/
def rstatPut (old rw : Word) : Word :=
  setBits (setBits (setBits old 39 32 (bits rw 39 32)) 31 24 (bits rw 31 24)) 15 8 (bits rw 15 8)

/-- PLUMB's MISS and MODE after a write, under a floor (R361). -/
def plumbPut (floor : Nat) (old rw : Word) : Word :=
  let mode := if bits rw 1 0 = 3 then bits old 1 0 else max (bits rw 1 0) floor
  wd (bits rw 31 16 * 2 ^ 16 + mode)

/-- TSTAT after a write: LDR is cleared by a 1 (Table 19.2). -/
def tstatPut (old w1c : Word) : Word := setBit old 3 (bit old 3 && !bit w1c 3)

/-- The full/empty bits of the x registers after a write of FSTAT: a register with a pending result is not
affected (R26). -/
def fstatPut (c : Ctx) (rw : Word) : Word :=
  setBit ((c.xfe &&& c.pend.x) ||| (rw &&& ~~~c.pend.x)) 0 true

/-- A user or supervisor register written (R153): `rw` is the value for RW fields, `w1c` the bits that clear
W1C fields. Registers without a writable field keep their value. -/
def Ctx.putCsr (c : Ctx) (floor n : Nat) (rw w1c : Word) : Ctx :=
  match n with
  | 0x000 => { c with vtype := vtypePut c.vtype rw }
  | 0x001 => { c with cb := rw }
  | 0x002 => { c with te := rw }
  | 0x003 => { c with wlim := wd (bits rw 31 0) }
  | 0x004 => { c with gstat := gstatPut c.gstat rw w1c }
  | 0x005 => { c with xfe := fstatPut c rw }
  | 0x00A => { c with plumb := plumbPut floor c.plumb rw }
  | 0x00C => { c with rstat := rstatPut c.rstat rw }
  | 0x100 => { c with tstat := tstatPut c.tstat w1c }
  | 0x101 => { c with tepc := rw }
  | 0x106 => { c with tscr := c.tscr.set 0 rw }
  | 0x107 => { c with tscr := c.tscr.set 1 rw }
  | 0x108 => { c with tscr := c.tscr.set 2 rw }
  | 0x109 => { c with tscr := c.tscr.set 3 rw }
  | 0x10A => { c with evt := c.evt &&& ~~~w1c }
  | _ => c

/-! The plumb checker. -/

/-- The record code of a register (R362). -/
def roleCode (ρ : Role) (p : Opd) : Nat :=
  match p with
  | .f d _ => 88 + d.val
  | .r n => match ρ with
    | .x => n.val
    | .xn _ => n.val
    | .v => 64 + n.val % 16
    | .m => 80 + n.val % 8
    | .mh => 80 + n.val % 8
    | _ => 0x7F

/-- The 35-bit record of an instruction (R362). -/
def rowRecord (r : Row) (o : Ops) : BitVec 35 :=
  let a := roleCode r.a o.a
  let writes : Bool := match r.acc with
    | .w => true
    | .rw => true
    | .bin => true
    | _ => false
  let readsA : Bool := match r.acc with
    | .r => true
    | .rw => true
    | .bin => o.c.isNone
    | _ => false
  let c := match o.c with
    | some n => roleCode r.c (.r n)
    | none => 0x7F
  let rd := ([roleCode r.b o.b, c] ++ (if readsA then [a] else [])).filter (· != 0x7F)
  BitVec.ofNat 35 (r.page * 2 ^ 29 + r.major * 2 ^ 25 + r.sel.getD 0 * 2 ^ 21 +
    (if writes then a else 0x7F) * 2 ^ 14 + rd.getD 0 0x7F * 2 ^ 7 + rd.getD 1 0x7F)

/-- The record of an instruction of the opcode map; BSIG and POOL feed nothing. -/
def instrRecord (i : Instr) : Option (BitVec 35) :=
  match i.key with
  | some (p, m, j, o) => ((rowsOf p m)[j]?).map (fun r => rowRecord r o)
  | none => none

/-- Bits of a record fed into the running value, most significant first (R362). -/
def feedBits : Nat → BitVec 35 → BitVec 11 → BitVec 11
  | 0, _, c => c
  | n + 1, r, c =>
    let fb := c.getLsbD 10 != r.getLsbD n
    feedBits n r (if fb then (c <<< 1) ^^^ 0x449#11 else c <<< 1)

def feedRecord (c : BitVec 11) (r : BitVec 35) : BitVec 11 := feedBits 35 r c

/-- The block state after a completed instruction. -/
def Blk.feed (b : Blk) : Option (BitVec 35) → Blk
  | some r => { b with c := feedRecord b.c r }
  | none => b

/-- The block state with the BSIG word that is consumed with the instruction at hand (R134, R362). -/
def Ctx.block (c : Ctx) : Blk :=
  match c.sig with
  | some g => { c := 0x7FF, e := g, valid := true }
  | none => c.blk

/-- The mode that PLUMB holds. -/
def plumbMode (p : Word) : Nat := bits p 1 0

/-- Whether a comparison of a block state finds a mismatch (R363, R364). -/
def Blk.bad (b : Blk) : Bool := b.valid && b.c != b.e

/-- The mismatch word of Table 23.3. -/
def Blk.word (b : Blk) : Word := wd (b.e.toNat * 65536 + b.c.toNat)

/-- MISS counted up, saturating (Table 23.2). -/
def missUp (p : Word) : Word := setBits p 31 16 (min 65535 (bits p 31 16 + 1))

/-- Whether the BSIG word consumed with the instruction ends a block that mismatches, in mode 1 (R363, R364). -/
def Ctx.sigMiss (c : Ctx) : Bool := c.sig.isSome && c.blk.bad && plumbMode c.plumb == 1

/-- The BSIG word at hand consumed: its comparison in mode 1 counts, and a new block begins. -/
def Ctx.takeSig (c : Ctx) : Ctx :=
  { c with plumb := if c.sigMiss then missUp c.plumb else c.plumb, blk := c.block, sig := none }

/-! Hardware loops. -/

/-- The loop-end test (R150) over the active loops, innermost first; a back edge restores the block state saved
with its loop (R363). -/
def loopEnd (npc : Word) (blk : Blk) : List Loop → Word × Blk × List Loop
  | [] => (npc, blk, [])
  | l :: ls =>
    if npc = l.stop then
      if l.left - 1 ≠ 0 then (l.start, l.blk, { l with left := l.left - 1 } :: ls)
      else loopEnd npc blk ls
    else (npc, blk, l :: ls)

/-- A context continues at `npc` after the loop-end test, which the Trap state leaves out (R152). -/
def Ctx.continueAt (c : Ctx) (npc : Word) : Ctx :=
  if c.inTrap then { c with pc := npc }
  else
    let (pc, blk, loops) := loopEnd npc c.blk c.loops
    { c with pc, blk, loops }

/-! An instruction completes. -/

/-- What every instruction that completes leaves in its context (R154, R35, R362). -/
def Ctx.tally (c : Ctx) (ret : Bool) : Ctx :=
  { c with
    plumb := if c.sigMiss then missUp c.plumb else c.plumb
    sig := none, lone := false
    icount := if c.level == .user && !ret then c.icount + 1 else c.icount
    gstat := if bits c.gstat 40 32 = 0 then c.gstat else setBits c.gstat 40 32 (bits c.gstat 40 32 - 1)
    blk := if ret then c.blk else c.block.feed c.feed
    got := [], stage := 0, wait := none, fe := none, answer := none, run := .running, seq := c.seq + 1,
    landed := false }

/-- The loop that was pushed last keeps the block state as it stands after its instruction (R363). -/
def Ctx.keepBlk (c : Ctx) : Ctx :=
  { c with loops := match c.loops with
      | l :: ls => { l with blk := c.blk } :: ls
      | [] => [] }

/-- A context whose instruction has completed, at the address where it goes on; a replayed load goes on at the
address that ERET.R kept (R297). Neither ERET nor such a replay applies the loop-end test at TEPC: R299 sets the pc to it,
and R150 does not name ERET among its exceptions (log 37). -/
def Ctx.complete (c : Ctx) (k : Ctl) : Ctx :=
  match k with
  | .gone => c
  | .jump pc => { c.tally false with pc, replay := none }
  | .back pc => { c.tally true with pc }
  | .enter => { (c.tally false).keepBlk with pc := c.npc }
  | .trapAfter _ _ => { c.tally false with pc := c.npc }
  | .onto npc => (c.tally false).continueAt npc
  | .seq => match c.replay with
    | some t => { c.tally false with pc := t, replay := none }
    | none => (c.tally false).continueAt c.npc

end Sys2Proof.Machine
end

