-- ==== Sys2Proof/Machine/Image.lean ====
section
/-! DEFINITION. The context image (R301, R302, Table 19.5) and contexts by number, wherever they are. -/

namespace Sys2Proof.Machine

/-- The identity word of a context (Table 9.12, REGN 0). -/
def identWord (s : State) (name : Nat) (inc : BitVec 16) : Word :=
  wd (s.node.toNat * 2 ^ 48 + inc.toNat * 2 ^ 32 + name % 16384 * 2 ^ 16)

/-- `n` words of a number, least significant first. -/
def wordsOf (n v : Nat) : List Word := (List.range n).map (fun i => wd (v / 2 ^ (64 * i)))

/-- The stack range of a context's task (R259): low and top. -/
def stackRange (s : State) (c : Ctx) : Word × Word :=
  let r := s.regionOf c
  match (Tab.get? s.tasks c.task).bind (·.stk) with
  | some k => (r.stkb + wd (k * r.stksz), r.stkb + wd ((k + 1) * r.stksz))
  | none => (0, 0)

/-- The coordinate that a context's task was given at its start (R17). -/
def coordOf (s : State) (c : Ctx) : Word := match Tab.get? s.tasks c.task with
  | some t => t.coord
  | none => 0

/-- The code of a wait kind in WAIT. -/
def WaitKind.code : WaitKind → Nat
  | .reg => 1 | .fe => 2 | .tag => 3 | .barrier => 4 | .region => 5 | .deque => 6 | .phase => 7 | .none => 0

/-- The words 0x040 to 0xC08 of an image, which system software may change. -/
def rwWords (c : Ctx) : List Word :=
  (setBit c.xfe 0 true :: (c.x.toList.drop 1)) ++
  (c.v.toList.flatMap (fun v => wordsOf 16 v.toNat)) ++
  ((c.m.toList.drop 1).flatMap (fun m => wordsOf 2 m.toNat)) ++
  [wd (c.vfe.toNat + c.mfe.toNat / 2 * 2 ^ 16), 0] ++
  c.d.toList ++
  [wd (c.o.toNat * 256 + c.j.toNat)] ++
  ((List.range 4).flatMap (fun k => match c.loops.reverse[k]? with
    | some l => [l.start, l.stop, l.left]
    | none => [0, 0, 0])) ++
  [0, 0, 0] ++
  [c.vtype, c.cb, c.te, c.wlim, c.gstat, c.rstat, c.icount, c.plumb] ++
  [c.tstat, c.tepc, c.tcause, c.tval, c.tlpc] ++ c.tscr.toList ++ [c.evt]

/-- The wait word: the wait in progress, or a barrier arrival that is kept. -/
def waitWord (c : Ctx) : Word :=
  match c.barrier, c.wait with
  | some (k, g), _ => wd (8 + 256 * (k + 256 * g.toNat))
  | none, some w => wd (w.kind.code + 256 * (w.obj.toNat % 2 ^ 56))
  | none, none => 0

/-! What only the device reads and writes of a context: its pending fills, exchanges, held load faults, weak-store fault list
and plumb block state, and what its task is (CONT of Table 19.5; log 13 for their order). -/

def Blk.packed (b : Blk) : Word := wd (b.c.toNat + b.e.toNat * 2 ^ 11 + b.valid.toNat * 2 ^ 22)
def RegSet.packed (r : RegSet) : Word := wd (r.v.toNat + r.m.toNat * 2 ^ 16 + r.d.toNat * 2 ^ 24 + r.vtype.toNat * 2 ^ 32)

/-- The destination of a held load. -/
def LoadDst.packed (d : LoadDst) : Word :=
  match d with
  | .x r sg => wd (1 + r.val * 4 + sg.toNat * 2 ^ 10)
  | .v r w z => wd (2 + r.val * 4 + z.toNat * 2 ^ 10 + w * 2 ^ 16)
  | .operand => 3

/-- The words of CONT behind the context's number; the image holds 112 of them, and the device keeps the rest beside it. -/
def contWords (s : State) (c : Ctx) : List Word :=
  let t := Tab.get? s.tasks c.task
  let flag (n : Nat) (b : Bool) : Nat := b.toNat * 2 ^ n
  [wd (flag 0 c.replay.isSome + flag 1 (t.any (·.spawned)) + flag 2 (t.any (·.again)) + flag 3 (c.ifnc != 0) +
      c.got.length % 256 * 2 ^ 8 + c.lfaults.length % 256 * 2 ^ 16 + c.sfaults.length % 256 * 2 ^ 24 +
      c.rfq.length % 256 * 2 ^ 32 + c.pxch.length % 256 * 2 ^ 40 + c.loops.length % 256 * 2 ^ 48),
    c.blk.packed, c.kept.packed, c.replay.getD 0, c.pend.packed, wd c.seq] ++
  c.loops.map (·.blk.packed) ++
  c.got.flatMap (fun e => [wd e.1, e.2]) ++
  c.lfaults.flatMap (fun f => [wd (f.seq * 2 + f.pool.toNat), f.pc, f.va, f.dst.packed, f.inputs.x, f.inputs.packed]) ++
  c.sfaults.flatMap (fun f => [wd (f.seq * 2 + f.pool.toNat), f.va]) ++
  c.rfq.flatMap (fun e => [wd e.1.val, e.2]) ++
  c.pxch.map (fun e => wd (e.1 + e.2.2.val * 2 ^ 4 + e.2.1 * 2 ^ 8))

/-- The bytes 0xC40 to 0xFFF, which only the device writes. -/
def contOf (s : State) (c : Ctx) : List Byte :=
  let st := stackRange s c
  ([c.tags, c.pend.x, waitWord c, (s.regionOf c).rcbva, coordOf s c, st.1, st.2, wd c.cid].flatMap
    (fun w => toBytes 8 w.toNat)) ++
  toBytes 896 (Config.contCode (BitVec.ofNat 7168 (ofBytes ((contWords s c).flatMap (fun w => toBytes 8 w.toNat))))).toNat

/-- One bit-serial step of the reflected CRC-32C. -/
def crcBits : Nat → BitVec 32 → BitVec 32
  | 0, c => c
  | n + 1, c => crcBits n (if c.getLsbD 0 then (c >>> 1) ^^^ 0x82F63B78#32 else c >>> 1)

/-- CRC-32C (R302). -/
def crc32c (l : List Byte) : BitVec 32 :=
  ~~~(l.foldl (fun c b => crcBits 8 (c ^^^ b.setWidth 32)) (BitVec.allOnes 32))

/-- The header word of an image. -/
def headerWord (c : Ctx) (name state : Nat) : Word :=
  wd (0xC7E1 * 2 ^ 48 + c.inc.toNat * 2 ^ 32 + name % 16384 * 2 ^ 16 + state % 256 * 2 ^ 8 +
    (c.loops.length % 8 + (if c.level = .sup then 8 else 0) + (if c.inTrap then 16 else 0)))

/-- The 4,096 bytes of an image. -/
def imageBytes (s : State) (c : Ctx) (name state stamp : Nat) : List Byte :=
  let hd := toBytes 8 (headerWord c name state).toNat
  let cont := contOf s c
  hd ++ toBytes 8 c.pc.toNat ++ toBytes 8 (crc32c (hd ++ cont)).toNat ++ toBytes 8 stamp ++
    List.replicate 32 0 ++ (rwWords c).flatMap (fun w => toBytes 8 w.toNat) ++ List.replicate 48 0 ++ cont

/-- The word at a byte offset of an image. -/
def imgWord (img : List Byte) (off : Nat) : Word := wd (ofBytes ((img.drop off).take 8))

/-- The bytes of an image outside 0x040 to 0xC0F. -/
def imgFixed (img : List Byte) : List Byte := img.take 0x40 ++ img.drop 0xC10

/-- Loop k as an image holds it. -/
def imgLoop (img : List Byte) (l : Loop) (k : Nat) : Loop :=
  { l with start := imgWord img (0xB08 + 24 * k), stop := imgWord img (0xB10 + 24 * k),
           left := imgWord img (0xB18 + 24 * k) }

/-- A context with the words 0x040 to 0xC0F of an image applied under the access codes of their registers
(R302): RW fields take the image's value, RO fields keep the context's, W1C fields take the image's (log 18). -/
def applyImage (c : Ctx) (floor : Nat) (img : List Byte) : Ctx :=
  let w (off : Nat) : Word := imgWord img off
  let big (off n : Nat) : Nat := ofBytes ((img.drop off).take n)
  let c := { c with
    xfe := setBit (w 0x40) 0 true
    x := Vector.ofFn (fun i : Fin 64 => if i.val = 0 then 0 else w (0x40 + 8 * i.val))
    v := Vector.ofFn (fun i : Fin 16 => BitVec.ofNat 1024 (big (0x240 + 128 * i.val) 128))
    m := Vector.ofFn (fun i : Fin 8 => if i.val = 0 then 0 else BitVec.ofNat 128 (big (0xA30 + 16 * i.val) 16))
    vfe := BitVec.ofNat 16 (w 0xAB0).toNat
    mfe := BitVec.ofNat 8 (bits (w 0xAB0) 22 16 * 2 + 1)
    d := Vector.ofFn (fun i : Fin 8 => w (0xAC0 + 8 * i.val))
    j := BitVec.ofNat 8 (w 0xB00).toNat
    o := BitVec.ofNat 8 (bits (w 0xB00) 15 8)
    loops := c.loops.zipIdx.map (fun (e : Loop × Nat) => imgLoop img e.1 (c.loops.length - 1 - e.2)) }
  let regs : List (Nat × Nat) := [(0x000, 0xB80), (0x001, 0xB88), (0x002, 0xB90), (0x003, 0xB98), (0x00A, 0xBB8),
    (0x101, 0xBC8), (0x106, 0xBE8), (0x107, 0xBF0), (0x108, 0xBF8), (0x109, 0xC00)]
  let c := regs.foldl (fun c r => c.putCsr floor r.1 (w r.2) 0) c
  { c with
    gstat := setBit (setBit c.gstat 16 (bit (w 0xBA0) 16)) 7 (bit (w 0xBA0) 7)
    rstat := rstatPut c.rstat (w 0xBA8)
    tstat := setBit c.tstat 3 (bit (w 0xBC0) 3)
    evt := wd (bits (w 0xC08) 3 0) }

/-! Contexts by number. -/

/-- A context in a slot, saved, or ended with accesses on their way (R31). -/
def State.findCtx (s : State) (cid : Nat) : Option Ctx :=
  match s.slotOf cid with
  | some t => (s.slot t).ctx
  | none => match s.saved.find? (·.ctx.cid == cid) with
    | some v => some v.ctx
    | none => (s.ended.find? (·.2.cid == cid)).map (·.2)

/-- The thread name of a context: that of its slot, or the one it had. -/
def State.nameOf (s : State) (cid : Nat) : Nat :=
  match s.slotOf cid with
  | some t => t
  | none => match s.saved.find? (·.ctx.cid == cid) with
    | some v => v.name
    | none => ((s.ended.find? (·.2.cid == cid)).map (·.1)).getD 0

/-- The words written at a key in which new bytes differ from the old; one that is uncorrectable is met, and stays as it is
(R360). -/
def putWords (key : Nat) (old new : List Byte) (s : State) : State :=
  (List.range (new.length / 8)).foldl (fun s i =>
    let w := (new.drop (8 * i)).take 8
    if w = (old.drop (8 * i)).take 8 then s
    else match badGran s (key + 8 * i) 8 with
      | some g => noteBad s g
      | none => s.store (key + 8 * i) w .device 0 pkgMark) s

/-- A saved image changed by work in flight (Table 2.9): the context as the image now has it, with `f` applied, is
written back; bytes outside 0x040 to 0xC0F that system software has changed stay as they are. -/
def modSaved (s : State) (sv : Saved) (f : Ctx → Ctx) : State :=
  let put (s : State) (sv : Saved) : State :=
    { s with saved := s.saved.map (fun e => if e.ctx.cid = sv.ctx.cid then sv else e) }
  match devKey s sv.asid sv.img true with
  | none => put s { sv with ctx := f sv.ctx }
  | some key =>
    let now := Mem.readN s.mem key 4096
    let c := f (applyImage sv.ctx s.plfloor.toNat now)
    let img := imageBytes s c sv.name sv.state sv.stamp
    let mix := (List.range 4096).map (fun i =>
      if (0x40 ≤ i ∧ i < 0xC10) ∨ now.getD i 0 = sv.image.getD i 0 then img.getD i 0 else now.getD i 0)
    put (putWords key now mix s) { sv with ctx := c, image := img }

/-- A context changed, in its slot, in its image, or after its end. -/
def State.modCtx (s : State) (cid : Nat) (f : Ctx → Ctx) : State :=
  match s.slotOf cid with
  | some t =>
    let sl := s.slot t
    match sl.ctx with
    | some c => s.setSlot t { sl with ctx := some (f c) }
    | none => s
  | none => match s.saved.find? (·.ctx.cid == cid) with
    | some sv => modSaved s sv f
    | none => { s with ended := s.ended.map (fun (e : Nat × Ctx) => if e.2.cid = cid then (e.1, f e.2) else e) }

/-! Image slots (R301). -/

/-- The key of a free image slot at a VA: its header word is readable, writable and 0. -/
def imgFree (s : State) (asid : BitVec 16) (va : Word) : Option Nat :=
  match devKey s asid va true, devKey s asid va false with
  | some k, some _ => if Mem.num s.mem k 8 = 0 then some k else none
  | _, _ => none

/-- The lowest-addressed free image slot of a save area. -/
def freeImg (s : State) (r : Region) : Nat → Nat → Option Word
  | 0, _ => none
  | n + 1, k =>
    let va := r.saveVa + wd (4096 * k)
    if (imgFree s r.asid va).isSome then some va else freeImg s r n (k + 1)

/-- An image slot reserved for a context (R301): STATE 0 with its NAME and INC. -/
def reserveImg (s : State) (asid : BitVec 16) (va : Word) (c : Ctx) (name : Nat) : State :=
  match imgFree s asid va with
  | none => s
  | some k => s.store k (toBytes 8 (0xC7E1 * 2 ^ 48 + c.inc.toNat * 2 ^ 32 + name % 16384 * 2 ^ 16)) .device 0 pkgMark

/-- A whole image written; none where that fails. -/
def writeImg (s : State) (asid : BitVec 16) (va : Word) (img : List Byte) : Option State :=
  let s := touch s asid va true
  match devKey s asid va true with
  | none => none
  | some k => some (s.store k img .device 0 pkgMark)

end Sys2Proof.Machine
end

