-- ==== Sys2Proof/Machine/Fetch.lean ====
section
/-! DEFINITION. Instruction fetch (R99, R118, R119) and the landing rule (R136). -/

namespace Sys2Proof.Machine

/-- What a weak load by `a` may return, read without moving its floor. -/
def weakPeek (s : State) (a : Agent) (key n : Nat) (via : Option Via) : Nat × State :=
  let most := if mixed key n via s.hist then meeting key n s.hist else passable a key n s.hist
  let k := if most = 0 then 0 else Config.weakPick s.tick % (most + 1)
  (Mem.num (undo s.mem key n k s.hist) key n, { s with tick := s.tick + (if most = 0 then 0 else 1) })

/-- The line of a cached halfword: its ASID and its number of 128 bytes. -/
def Cached.line (e : Cached) : BitVec 16 × Nat := (e.asid, e.va.toNat / 128)

/-- A halfword put into an instruction cache of four ways, whose set is VA[13:7] (Table 4.6): where its line is a fifth of the
set, the one that a draw names gives way (log 16). -/
def CoreSt.fill (k : CoreSt) (e : Cached) (draw : Nat) : CoreSt :=
  let set := ((k.icache.map (·.line)).filter (fun l => l.2 % 128 == e.line.2 % 128)).eraseDups
  let out := if set.contains e.line || decide (set.length < 4) then none else set[Config.lineOut draw % 4]?
  { k with icache := e :: k.icache.filter (fun x => !(x.asid == e.asid && x.va == e.va) && some x.line != out) }

/-- Whether a context may be given what a cache holds for a key: what was filled before its last IFNC it may not, nor what is
older than the stores that this IFNC lets its fetches miss no more (R99). -/
def fetchOk (s : State) (c : Ctx) (key : Nat) (via : Option Via) (e : Cached) : Bool :=
  decide (c.ifnc < e.stamp) &&
    (let most := passable (.fetch c.cid) key 2 s.hist
     mixed key 2 via s.hist || most == meeting key 2 s.hist ||
       (List.range (most + 1)).any (fun k => Mem.num (undo s.mem key 2 k s.hist) key 2 == e.half.toNat))

/-- One halfword fetched through the core's instruction cache; the error is the cause (R119, Table 23.1). What the cache
holds stands until an IFNC discards it, so that fetch observes no store before (R99). -/
def fetchHalf (s : State) (c : Ctx) (core : Nat) (va : Word) : Except Bad Half × State :=
  let r := s.regionOf c
  if 0xF0 ≤ bits va 63 48 then (.error .unmapped, s)
  else match resolve s r.asid (.ord (homeDie va)) va 2 .x with
    | (.error b, s) => (.error b, s)
    | (.ok key, s) =>
      let co := s.core core
      let via := viaOf s r.asid va
      match (co.icache.find? (fun e => e.asid == r.asid && e.va == va)).filter (fetchOk s c key via) with
      | some e => (.ok e.half, s)
      | none =>
        let (v, s) := weakPeek s (.thread c.cid) key 2 via
        let h := BitVec.ofNat 16 v
        (.ok h, s.setCore core (co.fill ⟨r.asid, va, h, s.ids⟩ s.tick))

/-- The cause of a failed fetch. -/
def Bad.fetchCause : Bad → Nat
  | .poison _ => 0x0D
  | _ => 0x08

/-- Halfwords fetched from an address until one fails, an instruction is complete, or six stand (R118). -/
def fetchFrom (c : Ctx) (core : Nat) (va : Word) : Nat → List Half → State → List Half × Option Bad × State
  | 0, hs, s => (hs, none, s)
  | n + 1, hs, s =>
    match fetchHalf s c core (va + wd (2 * hs.length)) with
    | (.error e, s) => (hs, some e, s)
    | (.ok h, s) => match decode (hs ++ [h]) with
      | .missing _ => fetchFrom c core va n (hs ++ [h]) s
      | _ => (hs ++ [h], none, s)

/-- Whether a halfword is a BSIG word. -/
def isBsig (h : Half) : Bool := h.toNat / 2048 == 28

/-- Whether a landing of a context at an address breaks R136. A halfword that cannot be fetched breaks nothing here. R136 does
not say how the target is read: here through the core of the thread itself, also in a gang, and what was read is not kept, so
that the fetch of the target may see another halfword (DESIGN CHOICE, log 102). -/
def landingBad (s : State) (c : Ctx) (core : Nat) (t : Word) : Bool :=
  plumbMode c.plumb != 0 && match (fetchHalf s c core t).1 with
    | .ok h => !isBsig h
    | .error _ => false

/-- A landing of the issuing context (R136). -/
def landing (t : Word) : M Unit := do
  let s ← get
  if landingBad s s.ctx s.myCore t then trap 0x03 t else pure ()

end Sys2Proof.Machine
end

