-- ==== Sys2Proof/Machine/Formats.lean ====
section
/-! DEFINITION. Number formats and exact arithmetic (R101 to R108): values as exact dyadic numbers, rounded once. -/

namespace Sys2Proof.Machine

/-- A binary format (Table 6.1): exponent bits and fraction bits. -/
structure FloatFmt where
  eb : Nat
  fb : Nat
  deriving DecidableEq, Repr

def f16 : FloatFmt := ⟨5, 10⟩
def bf16 : FloatFmt := ⟨8, 7⟩
def f32 : FloatFmt := ⟨8, 23⟩
def f64 : FloatFmt := ⟨11, 52⟩

def FloatFmt.bias (f : FloatFmt) : Nat := 2 ^ (f.eb - 1) - 1
def FloatFmt.width (f : FloatFmt) : Nat := f.eb + f.fb + 1
def FloatFmt.infBits (f : FloatFmt) : Nat := (2 ^ f.eb - 1) * 2 ^ f.fb
def FloatFmt.signBit (f : FloatFmt) : Nat := 2 ^ (f.eb + f.fb)
/-- The canonical NaN (Table 6.1). -/
def FloatFmt.nan (f : FloatFmt) : Nat := f.infBits + 2 ^ (f.fb - 1)

/-- A value: not a number, an infinity, or (-1)^neg * m * 2^e. -/
inductive Fp where
  | nan
  | inf (neg : Bool)
  | num (neg : Bool) (m : Nat) (e : Int)
  deriving DecidableEq, Repr

/-- The value of an encoding (R103). -/
def FloatFmt.decode (f : FloatFmt) (b : Nat) : Fp :=
  let neg := b / f.signBit % 2 == 1
  let ex := b / 2 ^ f.fb % 2 ^ f.eb
  let fr := b % 2 ^ f.fb
  if ex = 2 ^ f.eb - 1 then (if fr = 0 then .inf neg else .nan)
  else if ex = 0 then .num neg fr (1 - (f.bias : Int) - f.fb)
  else .num neg (fr + 2 ^ f.fb) ((ex : Int) - f.bias - f.fb)

/-- Whether a remainder rounds the magnitude up: `mode` of Table 6.2, `odd` the last kept bit. -/
def roundsUp (mode : Nat) (neg odd : Bool) (rem half : Nat) : Bool :=
  match mode with
  | 0 => decide (half < rem) || (decide (rem = half) && odd)
  | 1 => false
  | 2 => neg && decide (0 < rem)
  | _ => !neg && decide (0 < rem)

/-- A magnitude m * 2^e as a multiple of 2^u, rounded. -/
def roundAt (mode : Nat) (neg : Bool) (m : Nat) (e u : Int) : Nat :=
  if u ≤ e then m * 2 ^ (e - u).toNat
  else
    let k := (u - e).toNat
    let q := m / 2 ^ k
    if roundsUp mode neg (q % 2 == 1) (m % 2 ^ k) (2 ^ (k - 1)) then q + 1 else q

/-- An exact number rounded to a format, as its encoding (R104). -/
def FloatFmt.round (f : FloatFmt) (mode : Nat) (neg : Bool) (m : Nat) (e : Int) : Nat :=
  let sign := if neg then f.signBit else 0
  if m = 0 then sign
  else
    let low : Int := 1 - (f.bias : Int) - f.fb
    let u := max (e + Nat.log2 m - f.fb) low
    let b := (u - low).toNat * 2 ^ f.fb + roundAt mode neg m e u
    if b < f.infBits then sign + b
    else if mode = 0 ∨ (mode = 2 ∧ neg) ∨ (mode = 3 ∧ !neg) then sign + f.infBits
    else sign + f.infBits - 1

/-- A value encoded in a format; NaN is canonical (R105). -/
def FloatFmt.encode (f : FloatFmt) (mode : Nat) : Fp → Nat
  | .nan => f.nan
  | .inf neg => (if neg then f.signBit else 0) + f.infBits
  | .num neg m e => f.round mode neg m e

/-- The signed integer that stands for a magnitude over 2^u, for u at most its exponent. -/
def scaled (neg : Bool) (m : Nat) (e u : Int) : Int :=
  let v : Int := m * 2 ^ (e - u).toNat
  if neg then -v else v

def Fp.neg : Fp → Fp
  | .nan => .nan
  | .inf s => .inf (!s)
  | .num s m e => .num (!s) m e

/-- The exact sum; a zero sum of unlike signs is -0 under RDN alone. -/
def Fp.add (mode : Nat) : Fp → Fp → Fp
  | .nan, _ => .nan
  | _, .nan => .nan
  | .inf a, .inf b => if a = b then .inf a else .nan
  | .inf a, _ => .inf a
  | _, .inf b => .inf b
  | .num s m e, .num s' m' e' =>
    let u := min e e'
    let v := scaled s m e u + scaled s' m' e' u
    if v = 0 then .num (if m = 0 ∧ m' = 0 ∧ s = s' then s else decide (mode = 2)) 0 0
    else .num (decide (v < 0)) v.natAbs u

/-- The exact product. -/
def Fp.mul : Fp → Fp → Fp
  | .nan, _ => .nan
  | _, .nan => .nan
  | .inf a, .inf b => .inf (a != b)
  | .inf a, .num s m _ => if m = 0 then .nan else .inf (a != s)
  | .num s m _, .inf b => if m = 0 then .nan else .inf (s != b)
  | .num s m e, .num s' m' e' => .num (s != s') (m * m') (e + e')

/-- The quotient to at least `p` significant bits, its last bit marking a remainder. -/
def Fp.div (p : Nat) : Fp → Fp → Fp
  | .nan, _ => .nan
  | _, .nan => .nan
  | .inf _, .inf _ => .nan
  | .inf a, .num s _ _ => .inf (a != s)
  | .num s _ _, .inf b => .num (s != b) 0 0
  | .num s m e, .num s' m' e' =>
    if m' = 0 then (if m = 0 then .nan else .inf (s != s'))
    else
      let k := p + 2 + Nat.log2 m' - Nat.log2 m
      let q := m * 2 ^ k / m'
      .num (s != s') (2 * q + (if q * m' = m * 2 ^ k then 0 else 1)) (e - e' - k - 1)

/-- The integer square root, bit by bit. -/
def isqrtGo (n : Nat) : Nat → Nat → Nat
  | 0, r => r
  | k + 1, r => isqrtGo n k (if (r + 2 ^ k) * (r + 2 ^ k) ≤ n then r + 2 ^ k else r)

def isqrt (n : Nat) : Nat := isqrtGo n (Nat.log2 n / 2 + 1) 0

/-- The square root to at least `p` significant bits, its last bit marking a remainder. -/
def Fp.sqrt (p : Nat) : Fp → Fp
  | .nan => .nan
  | .inf s => if s then .nan else .inf false
  | .num s m e =>
    if m = 0 then .num s 0 0
    else if s then .nan
    else
      let k0 := 2 * p + 4
      let k := if (e - k0) % 2 = 0 then k0 else k0 + 1
      let n := m * 2 ^ k
      let r := isqrt n
      .num false (2 * r + (if r * r = n then 0 else 1)) ((e - k) / 2 - 1)

/-- Order of two numbers as exact values, -0 equal to +0; none where one is NaN. -/
def Fp.cmp : Fp → Fp → Option Ordering
  | .nan, _ => none
  | _, .nan => none
  | .inf a, .inf b => some (if a = b then .eq else if a then .lt else .gt)
  | .inf a, .num _ _ _ => some (if a then .lt else .gt)
  | .num _ _ _, .inf b => some (if b then .gt else .lt)
  | .num s m e, .num s' m' e' =>
    let u := min e e'
    some (compare (scaled s m e u) (scaled s' m' e' u))

def Fp.isNan : Fp → Bool
  | .nan => true
  | _ => false

def Fp.isNeg : Fp → Bool
  | .nan => false
  | .inf s => s
  | .num s _ _ => s

/-! Operations on encodings. -/

def FloatFmt.add (f : FloatFmt) (mode a b : Nat) : Nat := f.encode mode ((f.decode a).add mode (f.decode b))
def FloatFmt.sub (f : FloatFmt) (mode a b : Nat) : Nat := f.encode mode ((f.decode a).add mode (f.decode b).neg)
def FloatFmt.mul (f : FloatFmt) (mode a b : Nat) : Nat := f.encode mode ((f.decode a).mul (f.decode b))
def FloatFmt.div (f : FloatFmt) (mode a b : Nat) : Nat :=
  f.encode mode ((f.decode a).div (f.fb + 3) (f.decode b))
def FloatFmt.sqrt (f : FloatFmt) (mode a : Nat) : Nat := f.encode mode ((f.decode a).sqrt (f.fb + 3))

/-- Fused: the signs of the product and the addend may be inverted (R155). -/
def FloatFmt.fma (f : FloatFmt) (mode : Nat) (np nc : Bool) (a b c : Nat) : Nat :=
  let p := (f.decode a).mul (f.decode b)
  let c := f.decode c
  f.encode mode ((if np then p.neg else p).add mode (if nc then c.neg else c))

/-- The lesser or greater operand (R156): a single NaN gives the other operand, and -0 lies below +0. -/
def FloatFmt.pick (f : FloatFmt) (max : Bool) (a b : Nat) : Nat :=
  let x := f.decode a; let y := f.decode b
  if x.isNan && y.isNan then f.nan
  else if x.isNan then b
  else if y.isNan then a
  else
    let less := match x.cmp y with
      | some .lt => true
      | some .eq => x.isNeg
      | _ => false
    if less != max then a else b

def FloatFmt.abs (f : FloatFmt) (a : Nat) : Nat := a % f.signBit
def FloatFmt.flip (f : FloatFmt) (a : Nat) : Nat :=
  if a / f.signBit % 2 = 1 then a % f.signBit else a % f.signBit + f.signBit
def FloatFmt.copySign (f : FloatFmt) (a b : Nat) : Nat := a % f.signBit + b / f.signBit % 2 * f.signBit

/-- Comparisons (R157): false where an operand is NaN. -/
def FloatFmt.eq (f : FloatFmt) (a b : Nat) : Bool := (f.decode a).cmp (f.decode b) == some .eq
def FloatFmt.lt (f : FloatFmt) (a b : Nat) : Bool := (f.decode a).cmp (f.decode b) == some .lt
def FloatFmt.le (f : FloatFmt) (a b : Nat) : Bool := f.eq a b || f.lt a b

/-- FCLASS (Table 8.9). -/
def FloatFmt.classBit (f : FloatFmt) (a : Nat) : Nat :=
  let ex := a / 2 ^ f.fb % 2 ^ f.eb
  let fr := a % 2 ^ f.fb
  match f.decode a with
  | .nan => if fr / 2 ^ (f.fb - 1) % 2 = 1 then 9 else 8
  | .inf s => if s then 0 else 7
  | .num s _ _ =>
    if ex = 0 ∧ fr = 0 then (if s then 3 else 4)
    else if ex = 0 then (if s then 2 else 5)
    else (if s then 1 else 6)

/-- An integer between bounds. -/
def clamp (lo hi v : Int) : Int := if v < lo then lo else if hi < v then hi else v

/-- Conversion to an integer between bounds (R102). -/
def Fp.toInt (mode : Nat) (lo hi : Int) : Fp → Int
  | .nan => 0
  | .inf s => if s then lo else hi
  | .num s m e =>
    let v : Int := roundAt mode s m e 0
    clamp lo hi (if s then -v else v)

/-- An integer as a value. -/
def Fp.ofInt (i : Int) : Fp := .num (decide (i < 0)) i.natAbs 0

/-! SKIM8 (R106 to R108). -/

/-- Leading zeros of the seven payload bits. -/
def lead7 (p : Nat) : Nat := 6 - Nat.log2 p

/-- The value of a SKIM8 code. -/
def skimDecode (code : Nat) : Fp :=
  let s := code / 128 % 2 == 1
  let p := code % 128
  if p = 0 then (if s then .nan else .num false 0 0)
  else
    let j := lead7 p
    let (e, f, fw) : Int × Nat × Nat :=
      if j = 0 then ((p / 16 % 4 : Int) - 2, p % 16, 4)
      else if j ≤ 4 then
        let side := p / 2 ^ (5 - j) % 2
        let b : Int := p / 2 ^ (4 - j) % 2
        (if side = 0 then 2 * (j : Int) + b else -2 * (j : Int) - 2 + b, p % 2 ^ (4 - j), 4 - j)
      else if j = 5 then (if p % 2 = 0 then 10 else -11, 0, 0)
      else (-12, 0, 0)
    .num s (2 ^ fw + f) (e - fw)

/-- The magnitude codes of Table 6.3 with 0x00, in order of value. -/
def skimCodes : List Nat :=
  [0x00, 0x01, 0x03, 0x06, 0x07, 0x0C, 0x0D, 0x0E, 0x0F] ++ List.range' 0x18 8 ++ List.range' 0x30 16 ++
    List.range' 0x40 64 ++ List.range' 0x20 16 ++ List.range' 0x10 8 ++ List.range' 0x08 4 ++
    [0x04, 0x05, 0x02]

/-- A magnitude code's value in units of 2^-16. -/
def skimUnits (code : Nat) : Nat :=
  match skimDecode code with
  | .num _ m e => m * 2 ^ (e + 16).toNat
  | _ => 0

/-- The choice between neighbours of R107 for a magnitude m * 2^e. -/
def skimNear (m : Nat) (e : Int) : List Nat → Nat
  | lo :: hi :: l =>
    let u := min e (-16)
    let a := m * 2 ^ (e - u).toNat
    let vl := skimUnits lo * 2 ^ (-16 - u).toNat
    let vh := skimUnits hi * 2 ^ (-16 - u).toNat
    if a ≤ vh then
      if a - vl < vh - a then lo
      else if vh - a < a - vl then hi
      else if lo % 2 ≠ hi % 2 then (if lo % 2 = 0 then lo else hi)
      else hi
    else skimNear m e (hi :: l)
  | _ => 0x02

/-- Conversion to SKIM8 (R107). -/
def skimEncode : Fp → Nat
  | .nan => 0x80
  | .inf s => if s then 0x82 else 0x02
  | .num s m e =>
    let below := match Fp.cmp (.num false m e) (.num false 1 (-13)) with
      | some .lt => true
      | _ => false
    if below then 0
    else
      let big := match Fp.cmp (.num false m e) (.num false 1024 0) with
        | some .lt => false
        | _ => true
      let c := if big then 0x02 else skimNear m e skimCodes
      if c = 0 then 0 else (if s then 128 else 0) + c

/-! The functions of the AMOs (Table 9.5). -/

/-- The word an AMO leaves: function, old word, operand, and the new value of a CAS whose operand is the expected
one. -/
def amoNew (fn : Nat) (old v cas : Word) : Word :=
  match fn with
  | 0 => old + v
  | 1 => old &&& v
  | 2 => old ||| v
  | 3 => old ^^^ v
  | 4 => if old.toInt ≤ v.toInt then old else v
  | 5 => if old.toInt ≤ v.toInt then v else old
  | 6 => if old.toNat ≤ v.toNat then old else v
  | 7 => if old.toNat ≤ v.toNat then v else old
  | 8 => v
  | 9 => if old = v then cas else old
  | 10 => wd (f64.add 0 old.toNat v.toNat)
  | 11 => if old = BitVec.allOnes 64 then old else old + 1
  | _ => if old = 0 then 0 else old - 1

/-- Whether an AMO writes (Table 9.5: a CAS that fails writes nothing). -/
def amoWrites (fn : Nat) (old v : Word) : Bool := fn != 9 || old == v

end Sys2Proof.Machine
end

