-- ==== Sys2Proof/Machine/Xu.lean ====
section
/-! DEFINITION. The exclusion unit's own operations: claim entries (R47, R51, R54), the walk of a claim set (R42 to
R46) and the giving back of claims (R50, R58). -/

namespace Sys2Proof.Machine

def State.grp? (s : State) (k : GroupKey) : Option Group := s.groups.find? (·.key == k)
def State.modGrp (s : State) (k : GroupKey) (f : Group → Group) : State :=
  { s with groups := s.groups.map (fun g => if g.key = k then f g else g) }
def Group.entry (g : Group) (i : Nat) : Entry := Tab.getD g.entries i {}

/-- The VA of a claim entry (R47). -/
def entryVa (k : GroupKey) (i : Nat) : Word := k.ctab + wd (64 + 8 * i)

/-- The home die of a claim entry's XU (R47). -/
def entryDie (k : GroupKey) (i : Nat) : Nat := homeDie (entryVa k i)

/-- The word of a claim entry (Table 3.6). -/
def Entry.word (e : Entry) : Nat :=
  e.pend.toNat * 2 ^ 63 + e.run.toNat * 2 ^ 62 + e.again.toNat * 2 ^ 61 + e.xh.toNat * 2 ^ 60 +
    e.scnt % 4096 * 2 ^ 48 + e.fifo.length % 8192 * 2 ^ 35

/-- A claim entry changed, in the unit and in memory; none where the entry cannot be read or written (R46). -/
def putEntry (s : State) (k : GroupKey) (i : Nat) (e : Entry) : Option State :=
  let s := touch s k.asid (entryVa k i) true
  match devKey s k.asid (entryVa k i) true, devKey s k.asid (entryVa k i) false with
  | none, _ => none
  | some _, none => none
  | some key, some _ => some ((s.modGrp k (fun g => { g with entries := Tab.set g.entries i e })).store key
      (toBytes 8 e.word) .device 0 pkgMark)

/-- A claim entry changed where a failing access has no one to report to: the unit keeps the change. -/
def setEntry (s : State) (k : GroupKey) (i : Nat) (e : Entry) : State :=
  (putEntry s k i e).getD (s.modGrp k (fun g => { g with entries := Tab.set g.entries i e }))

/-- The answer to a claim request travels to its sweep (R50). -/
def tellSweep (s : State) (r : ClaimReq) (o : ClaimOutcome) : State :=
  if r.node = s.node then s.due (.claimGrantArrival r.sweep o)
  else fabSend s r.node 0 0 r.grp.asid (.grant r.sweep o) (match o with
    | .granted => .grant r
    | _ => .other)

/-- Grants from the head of a FIFO (R51): every S request up to the first X, or the X alone; S grants stop at
SCNT 4,095 (R54). Gives the entry and the requests granted. -/
def grantHead (e : Entry) : Entry × List ClaimReq :=
  let rec go (e : Entry) : List ClaimReq → Entry × List ClaimReq
    | [] => ({ e with fifo := [] }, [])
    | r :: l =>
      if r.x then
        if !e.xh && e.scnt == 0 then ({ e with xh := true, fifo := l, held := r :: e.held }, [r]) else ({ e with fifo := r :: l }, [])
      else if !e.xh && decide (e.scnt < 4095) then
        let (e', gs) := go { e with scnt := e.scnt + 1, held := r :: e.held } l
        -- an X behind granted S requests waits (SCNT is no longer 0)
        (e', r :: gs)
      else ({ e with fifo := r :: l }, [])
  go e e.fifo

/-- The grants from the head of a FIFO: the entry changed and the grants sent. Where the entry cannot be read or written, each
request that would be granted ends as a bad neighbour instead (R46), and those behind it are looked at next. -/
def grantNext (k : GroupKey) (i : Nat) : Nat → Entry → State → State
  | 0, e, s => setEntry s k i e
  | fuel + 1, e, s =>
    let (e', gs) := grantHead e
    match putEntry s k i e' with
    | some s => gs.foldl (fun s r => tellSweep s r .granted) s
    | none =>
      let s := setEntry s k i { e with fifo := e'.fifo }
      if gs.isEmpty then s
      else grantNext k i fuel { e with fifo := e'.fifo } (gs.foldl (fun s r => tellSweep s r (.badEntry (entryVa k i))) s)

/-- An entry re-examined after a claim was given back, its grants sent, and the die's deferred requests looked at
again (R51, R54). -/
def reexamine (s : State) (k : GroupKey) (i : Nat) (e : Entry) : State :=
  let s := grantNext k i (e.fifo.length + 1) e s
  if s.groups.all (·.deferred.isEmpty) || s.agenda.contains (.deferredRequestAdmit (entryDie k i)) then s
  else s.due (.deferredRequestAdmit (entryDie k i))

/-- Entries of a die whose FIFO is not empty stay in its cache of 65,536 (R54). -/
def cacheFull (s : State) (die : Nat) : Bool :=
  decide (65536 ≤ (s.groups.map (fun g =>
    (g.entries.filter (fun e => !e.2.fifo.isEmpty && entryDie g.key e.1 == die)).length)).sum)

/-- What becomes of a request at its home entry (Table 3.7, R54). -/
inductive Verdict where
  | grant (e : Entry)
  | queue (e : Entry)
  | defer
  deriving DecidableEq, Repr

def judge (s : State) (e : Entry) (r : ClaimReq) : Verdict :=
  if e.fifo.isEmpty && cacheFull s (entryDie r.grp r.elem) then .defer
  else if r.x then
    if !e.xh && e.scnt == 0 && e.fifo.isEmpty then .grant { e with xh := true, held := r :: e.held }
    else if 4096 ≤ e.fifo.length then .defer else .queue { e with fifo := e.fifo ++ [r] }
  else if !e.xh && e.fifo.isEmpty then
    if 4095 ≤ e.scnt then .defer else .grant { e with scnt := e.scnt + 1, held := r :: e.held }
  else if 4096 ≤ e.fifo.length then .defer else .queue { e with fifo := e.fifo ++ [r] }

/-- A request that keeps its place until it can be admitted (R54). -/
def deferReq (s : State) (r : ClaimReq) : State :=
  let (n, s) := s.fresh
  s.modGrp r.grp (fun g => { g with deferred := g.deferred ++ [(n, r)] })

/-- A request decided at its home XU with nothing deferred before it (R42, R46, R51, R54). -/
def admitReq (s : State) (g : Group) (r : ClaimReq) : State :=
  if g.count ≤ r.elem then tellSweep s r .badIndex
  else match judge s (g.entry r.elem) r with
    | .grant e => match putEntry s r.grp r.elem e with
      | some s => tellSweep s r .granted
      | none => tellSweep s r (.badEntry (entryVa r.grp r.elem))
    | .queue e => match putEntry s r.grp r.elem e with
      | some s => s
      | none => tellSweep s r (.badEntry (entryVa r.grp r.elem))
    | .defer => deferReq s r

/-- A request decided at its home XU, where the group's table is or has been live (R54). -/
def decideReq (s : State) (g : Group) (r : ClaimReq) : State :=
  if g.deferred.any (fun q => q.2.elem == r.elem) then deferReq s r else admitReq s g r

/-- A queued or deferred request withdrawn (R46, R58). -/
def withdraw (s : State) (r : ClaimReq) : State :=
  match s.grp? r.grp with
  | none => s
  | some g =>
    let same (q : ClaimReq) : Bool := q.node == r.node && q.sweep == r.sweep
    let s := s.modGrp r.grp (fun g => { g with
      deferred := g.deferred.filter (fun q => !(q.2.elem == r.elem && same q.2))
      heldReq := g.heldReq.filter (fun h => match h with
        | .inl q => !(q.elem == r.elem && same q)
        | .inr _ => true) })
    let e := g.entry r.elem
    if e.fifo.any same then reexamine s r.grp r.elem { e with fifo := e.fifo.filter (fun q => !same q) } else s

/-- A claim given back at its entry (R51). -/
def releaseReq (s : State) (r : ClaimReq) : State :=
  match s.grp? r.grp with
  | none => s
  | some g =>
    let e := g.entry r.elem
    let same (q : ClaimReq) : Bool := q.node == r.node && q.sweep == r.sweep
    match e.held.find? same with
    | none => s
    | some q =>
      let e := { e with held := e.held.filter (fun q => !same q) }
      reexamine s r.grp r.elem (if q.x then { e with xh := false } else { e with scnt := e.scnt - 1 })

/-- The node and local index of an element id (Table 3.2). -/
def idNode (id : Word) : BitVec 16 := BitVec.ofNat 16 (bits id 63 48)
def idIndex (id : Word) : Nat := bits id 31 0

/-- The claim request of a sweep for one member of its set. -/
def Sweep.req (s : State) (w : Sweep) (m : Word × Bool) : ClaimReq :=
  ⟨w.grp, idIndex m.1, m.2, s.node, w.id⟩

/-- The next request of a sweep sent to its home XU (R50). -/
def sendReq (s : State) (w : Sweep) : State :=
  match w.set[w.next]? with
  | none => s
  | some m =>
    if idNode m.1 = s.node then s.due (.claimRequestArrival (w.req s m))
    else fabSend s (idNode m.1) 0 0 w.grp.asid (.claim (w.req s m)) (.sweep w.id)

/-- A sweep gives back every claim it holds and withdraws the request it has queued (R46, R58, R18); the sweep
is gone. -/
def dropSweep (s : State) (w : Sweep) : State :=
  let give (s : State) (m : Word × Bool) : State :=
    if idNode m.1 = s.node then s.due (.claimRelease (w.req s m))
    else fabSend s (idNode m.1) 0 0 w.grp.asid (.release (w.req s m)) .other
  let s := (w.set.take w.next).foldl give s
  let s := if w.granted then s else match w.set[w.next]? with
    | none => s
    | some m =>
      let s := { s with agenda := s.agenda.filter (fun (i : Ev) => i != Ev.claimRequestArrival (w.req s m)) }
      if idNode m.1 = s.node then
        if s.agenda.contains (.claimGrantArrival w.id .granted) then
          State.due { s with agenda := s.agenda.filter (fun (i : Ev) => i != Ev.claimGrantArrival w.id .granted) }
            (.claimRelease (w.req s m))
        else withdraw s (w.req s m)
      else if s.agenda.contains (.claimGrantArrival w.id .granted) then
        fabSend { s with agenda := s.agenda.filter (fun (i : Ev) => i != Ev.claimGrantArrival w.id .granted) }
          (idNode m.1) 0 0 w.grp.asid (.release (w.req s m)) .other
      else fabSend s (idNode m.1) 0 0 w.grp.asid (.withdraw (w.req s m)) .other
  { s with sweeps := Tab.erase s.sweeps w.id }

/-! The walk (R42 to R46). -/

/-- Why a walk fails: the reason of the fault record, AUX and VAL (R46, R60). -/
structure WalkErr where
  reason : Nat
  aux : Word
  val : Word
  deriving DecidableEq, Repr

/-- The grid neighbours of a local index (R44, Table 3.3). Codes 1 and 2 are 2-D stencils, "z = 0" in the table, and no check
refuses them with Nz > 1: each z is then a plane of its own (DESIGN CHOICE, log 39). -/
def gridRow (g : Group) (i : Nat) : List Nat :=
  let x := i % g.nx; let y := i / g.nx % g.ny; let z := i / (g.nx * g.ny)
  let d3 : List (Int × Int × Int) := ([-1, 0, 1] : List Int).flatMap (fun dz => ([-1, 0, 1] : List Int).flatMap (fun dy =>
    ([-1, 0, 1] : List Int).map (fun dx => (dx, dy, dz))))
  let ok (d : Int × Int × Int) : Bool :=
    let (dx, dy, dz) := d
    let n1 := dx.natAbs + dy.natAbs + dz.natAbs
    n1 != 0 && (g.kind ≥ 3 || dz == 0) && (g.kind % 2 == 0 || n1 == 1)
  (d3.filter ok).filterMap (fun (dx, dy, dz) =>
    let x' := (x : Int) + dx; let y' := (y : Int) + dy; let z' := (z : Int) + dz
    if 0 ≤ x' ∧ x' < g.nx ∧ 0 ≤ y' ∧ y' < g.ny ∧ 0 ≤ z' ∧ z' < g.nz then
      some (x' + g.nx * (y' + g.ny * z')).toNat else none)

/-- What the reads of a walk of the adjacency map do beside reading: missing pages of growth windows are filled and
uncorrectable data is reported (R337, R359). -/
def touchRow (s : State) (g : Group) (id : Word) : State :=
  if g.kind ≠ 0 ∨ idNode id ≠ s.node then s
  else
    let asid := g.key.asid
    let i := idIndex id
    let s := touchWords s asid 2 (g.offs + wd (8 * i))
    match devKey s asid (g.offs + wd (8 * i)) false, devKey s asid (g.offs + wd (8 * i + 8)) false with
    | some a, some b =>
      let lo := Mem.num s.mem a 8
      touchWords s asid (min 1025 (Mem.num s.mem b 8 - lo)) (g.ids + wd (8 * lo))
    | _, _ => s

/-- Whether an engine owns a line of a group's claim table or adjacency map: a launch waits for it before the XU holds that
memory (R49, R79). -/
def tableOwned (s : State) (asid : BitVec 16) (ctab : Word) (count kind : Nat) (offs ids : Word) : Bool :=
  anyOwns s asid ctab (64 + 8 * count) || (kind == 0 && (anyOwns s asid offs (8 * (count + 1)) ||
    match devKey s asid (offs + wd (8 * count)) false with
    | some k => anyOwns s asid ids (8 * Mem.num s.mem k 8)
    | none => false))

/-- `n` words of a mapped array from a VA, or the VA that failed. -/
def devWords (s : State) (asid : BitVec 16) : Nat → Word → Except Word (List Word)
  | 0, _ => .ok []
  | n + 1, va => match devKey s asid va false with
    | none => .error va
    | some k => match devWords s asid n (va + 8) with
      | .error e => .error e
      | .ok l => .ok (wd (Mem.num s.mem k 8) :: l)

/-- The word of a mapped array at a VA, or the VA that failed. -/
def devWord (s : State) (asid : BitVec 16) (va : Word) : Except Word Word :=
  match devKey s asid va false with
  | none => .error va
  | some k => .ok (wd (Mem.num s.mem k 8))

/-- The neighbours of an element (R43, R44), each read in turn: rows of this package from its map, rows of another package
from a free value that stands for that package's map (log 11); or the VA of the offsets that cannot be read. -/
def row (s : State) (g : Group) (id : Word) : Except Word (List (Except Word Word)) :=
  let i := idIndex id
  if g.kind ≠ 0 then .ok ((gridRow g i).map (fun j => .ok (wd (s.node.toNat * 2 ^ 48 + j))))
  else if idNode id ≠ s.node then .ok (Config.remoteRow g.key.asid.toNat id s.tick)
  else match devWord s g.key.asid (g.offs + wd (8 * i)), devWord s g.key.asid (g.offs + wd (8 * i + 8)) with
    | .error e, _ => .error e
    | _, .error e => .error e
    | .ok a, .ok b => .ok ((List.range (b.toNat - a.toNat)).map (fun j => devWord s g.key.asid (g.ids + wd (8 * (a.toNat + j)))))

/-- What the walk of an element's claim set does beside reading: its own row, and at radius 3 those of its neighbours. -/
def touchWalk (s : State) (g : Group) (id : Word) : State :=
  if g.rad = 0 then s
  else
    let s := touchRow s g id
    if g.rad < 3 then s
    else match row s g id with
      | .error _ => s
      | .ok l => (l.filterMap (·.toOption)).foldl (fun s j => touchRow s g j) s

/-- The tests of R42 that the walking package makes. -/
def idOk (s : State) (g : Group) (id : Word) : Bool :=
  bits id 47 32 == 0 && isPresent s (idNode id) && (idNode id != s.node || decide (idIndex id < g.count))

/-- The ids of an element's row added to a set under a mode, each once, in the order in which they are read; the walk
stops at an id that fails, at one that cannot be read, or where the set reaches 1,025 (R46). -/
def addIds (s : State) (g : Group) (x : Bool) (of : Word) :
    List (Except Word Word) → List (Word × Bool) → Except WalkErr (List (Word × Bool))
  | [], acc => .ok acc
  | .error va :: _, _ => .error ⟨5, of, va⟩
  | .ok id :: l, acc =>
    if !idOk s g id then .error ⟨5, id, 0⟩
    else if acc.any (·.1 == id) then addIds s g x of l acc
    else if 1024 ≤ acc.length then .error ⟨6, 1025, 0⟩
    else addIds s g x of l (acc ++ [(id, x)])

/-- One ring further out: the rows of the elements given. Which failure a walk reports where it would meet several follows
from its order, which R46 leaves open: here the rows in the order in which their elements entered the set, each from its
first id on (DESIGN CHOICE, log 38). -/
def addRing (s : State) (g : Group) (x : Bool) : List Word → List (Word × Bool) → Except WalkErr (List (Word × Bool))
  | [], acc => .ok acc
  | id :: l, acc => match row s g id with
    | .error va => .error ⟨5, id, va⟩
    | .ok ids => match addIds s g x id ids acc with
      | .error e => .error e
      | .ok acc => addRing s g x l acc

/-- The claim set of an element (R45), in ascending id (R50). -/
def claimSet (s : State) (g : Group) (e : Word) : Except WalkErr (List (Word × Bool)) :=
  let sort (l : List (Word × Bool)) := sortBy (fun a b => decide (a.1.toNat ≤ b.1.toNat)) l
  match addIds s g true e [.ok e] [] with
  | .error er => .error er
  | .ok l0 =>
    if g.rad = 0 then .ok l0
    else match addRing s g (decide (2 ≤ g.rad)) [e] l0 with
      | .error er => .error er
      | .ok l1 =>
        if g.rad < 3 then .ok (sort l1)
        else match addRing s g false ((l1.drop 1).map (·.1)) l1 with
          | .error er => .error er
          | .ok l2 => .ok (sort l2)

/-- Claim scope of a sweep (R57): system if a member lies on another package. -/
def Sweep.scope (s : State) (w : Sweep) : Nat := if w.set.any (fun m => idNode m.1 != s.node) then 3 else 2

/-- The slot count of a region on a die (R325): contexts in its slots, slots reserved for its migrations (R341), and sweeps
not yet dispatched. -/
def liveCount (s : State) (r : Nat) (die : Nat) : Nat :=
  (s.slots.filter (fun e => nameDie e.1 == die && (match e.2.ctx with
    | some c => c.region == r
    | none => (e.2.scrub && e.2.scrubOf == r) || e.2.reserved == some r))).length +
  (s.sweeps.filter (fun e => e.2.region == r && e.2.die == die && !e.2.dispatched)).length

/-- An element becomes pending in a region (Table 3.9), at the tail of the pending order. -/
def makePending (s : State) (k : GroupKey) (i : Nat) (e : Entry) (region : Nat) (again : Bool) : State :=
  let s := setEntry s k i { e with pend := true, run := false, again := false, pendRegion := region, wasAgain := again }
  let (n, s) := s.fresh
  s.modGrp k (fun g => { g with pending := g.pending ++ [(n, i)] })

/-- POST at an element in its home XU (Table 3.9), for a region. -/
def postElem (s : State) (k : GroupKey) (i : Nat) (region : Nat) : State :=
  match s.grp? k with
  | none => s
  | some g =>
    let e := g.entry i
    if e.pend then s
    else if e.run then
      if e.again then s else setEntry s k i { e with again := true, againRegion := region }
    else makePending s k i e region false

/-- The end of a run's claims (Table 3.9): idle, or pending again in the recorded region; a killed run discards the
again bit. -/
def endRun (s : State) (w : Sweep) : State :=
  match s.grp? w.grp with
  | none => s
  | some g =>
    let e := g.entry w.elem
    if e.again && !w.killed then makePending s w.grp w.elem e e.againRegion true
    else setEntry s w.grp w.elem { e with run := false, again := false }

end Sys2Proof.Machine
end

