-- ==== Sys2Proof/Machine/Contain.lean ====
section
/-! DEFINITION. Fault records (R305, R306, R318), the end of a task (R18, R31), outer frames released (R163,
R168), gangs disbanded (R31), containment (R303) and fault policies (R304). -/

namespace Sys2Proof.Machine

/-! Fault records. -/

/-- The 16 words of a fault record. -/
def FRec.words (f : FRec) (rcbva : Word) (clock : Nat) : List Word :=
  [wd (f.reason * 2 ^ 56 + f.cause % 256 * 2 ^ 48 + f.imgv.toNat * 2 ^ 43 + f.sys.toNat * 2 ^ 42 +
      f.again.toNat * 2 ^ 41 + f.double.toNat * 2 ^ 40 + min 255 f.ndisc * 2 ^ 32),
    f.epc, f.val, f.lpc, f.ident, f.coord, f.aux, rcbva, f.img, wd clock] ++
  (List.range 6).map (fun i => f.dva.getD i 0)

/-- The contexts of the package with their regions, in slots and saved. -/
def State.contexts (s : State) : List (Nat × Nat) :=
  s.slots.filterMap (fun e => e.2.ctx.map (fun c => (c.cid, c.region))) ++
    s.saved.map (fun e => (e.ctx.cid, e.ctx.region))

/-- Event bits set in every context of the regions given (R314). -/
def setEvt (s : State) (p : Nat → Bool) (b : Nat) : State :=
  s.contexts.foldl (fun s e =>
    if p e.2 then s.modCtx e.1 (fun c => { c with evt := c.evt ||| wd b }) else s) s

/-- Whether a region belongs to the fault domain of `r` (R318). -/
def sameDomain (s : State) (r : Region) (k : Nat) : Bool :=
  k == r.id || match s.region? k with
    | some q => q.live && q.asid == r.asid && q.fring == r.fring && r.fring != 0
    | none => false

/-- The VA at which the next record of a region's ring goes, and whether the ring has room; none where its control block
cannot be used. -/
def ringNext (s : State) (r : Region) : Option (Nat × Word × Bool) :=
  match devKey s r.asid r.fring true, devKey s r.asid r.fring false, devKey s r.asid (r.fring + 8) false with
  | some _, some kt, some kh =>
    let tail := Mem.num s.mem kt 8
    some (tail, r.fring + wd (0x40 + 128 * (tail % 2 ^ r.frlog)), decide ((tail : Int) - (Mem.num s.mem kh 8 : Int) < 2 ^ r.frlog))
  | _, _, _ => none

/-- A record placed in its domain's ring in one step (R306): the state, and the record's VA where one was
written; none where the ring cannot be used. -/
def ringPut (s : State) (r : Region) (ws : List Word) : Option (State × Word) :=
  match ringNext s r, devKey s r.asid r.fring true, devKey s r.asid (r.fring + 16) true with
  | some (tail, base, true), some kt, some _ =>
    let keys := (List.range 16).map (fun i => devKey s r.asid (base + wd (8 * i)) true)
    if keys.all (·.isSome) then
      let s := (keys.zip ws).foldl (fun s e => match e.1 with
        | some k => s.store k (toBytes 8 e.2.toNat) .device 0 pkgMark
        | none => s) s
      let s := releaseMark s .device ⟨3, none⟩
      some (s.store kt (toBytes 8 (wd (tail + 1)).toNat) .device 0 pkgMark, base)
    else none
  | some (_, _, false), some _, some kl =>
    if (devKey s r.asid (r.fring + 16) false).isSome then
      some (s.store kl (toBytes 8 (wd (Mem.num s.mem kl 8 + 1)).toNat) .device 0 pkgMark, 0)
    else none
  | _, _, _ => none

/-- The pages that the next record of a region's ring needs, filled where they lie in a growth window (R337), with what the
device meets there reported (R359). -/
def ringTouched (s : State) (r : Region) : State :=
  let s := touch (touch (touch s r.asid r.fring true) r.asid r.fring false) r.asid (r.fring + 8) false
  let s := touch s r.asid (r.fring + 16) true
  match ringNext s r with
  | some (_, base, true) => (List.range 16).foldl (fun s i => touch s r.asid (base + wd (8 * i)) true) s
  | some (_, _, false) => touch s r.asid (r.fring + 16) false
  | none => s

/-- Whether an engine owns a line of a region's ring that its next record needs (R79). -/
def ringOwned (s : State) (r : Region) : Bool :=
  r.fring != 0 && (anyOwns s r.asid r.fring 64 || match ringNext s r with
    | some (_, base, true) => anyOwns s r.asid base 128
    | _ => false)

/-- A fault record goes to its region's fault domain, EVT.FR is set there, and the event is sent (R306, R318, R327). A record
of the package is reported by die 0 (DESIGN CHOICE, log 103). -/
def putFault (s : State) (rid : Nat) (f : FRec) : State :=
  match s.region? rid with
  | none => s
  | some r =>
    let count (s : State) : State := s.modRegion rid (fun r => { r with lost := r.lost + 1 })
    let ws := f.words r.rcbva s.clock
    let (s, va) : State × Word :=
      if r.fring = 0 then (count s, 0)
      else
        let s := ringTouched s r
        let (s, va) := (ringPut s r ws).getD (count s, 0)
        (setEvt s (sameDomain s r) 1, va)
    s.event { type := 8, die := 0, cookie := r.cookie, source := f.ident, val := va }

/-- A fault record written, or kept behind those that wait for an engine to write a line of their ring (R79): no one waits for
the report (R303). -/
def writeFault (s : State) (rid : Nat) (f : FRec) : State :=
  match s.region? rid with
  | none => s
  | some r => if s.owed.any (fun e => sameDomain s r e.1) || ringOwned s r then { s with owed := s.owed ++ [(rid, f)] }
      else putFault s rid f

/-- The fault records that waited, in order, as far as their lines are written. -/
def payFaults (s : State) : State :=
  if s.owed.isEmpty then s else s.owed.foldl (fun s e => writeFault s e.1 e.2) { s with owed := [] }

/-! Outer frames (R159, R163). -/

/-- The number of the live entry that a display value matches for a thread of a cluster and core (R159). -/
def matchEntry (s : State) (clus core : Nat) (d : Word) : Option Nat :=
  let t := s.ftab clus
  (List.range 64).find? (fun i =>
    let e := t.getD i {}
    e.live && e.kind == bits d 63 60 && e.base == bits d 47 0 && (e.kind != 1 || e.core == core))

def State.modEntry (s : State) (clus i : Nat) (f : FrameEnt → FrameEnt) : State :=
  let t := s.ftab clus
  s.setFtab clus (t.set! i (f (t.getD i {})))

/-- The step of FRET and FRET.OWN at the frame table (R163); the count has 18 bits (R7, R159). -/
def retireEntry (s : State) (clus i : Nat) (own : Bool) : State :=
  s.modEntry clus i (fun e =>
    let e := if own then { e with orel := true } else { e with count := e.count - 1 }
    if e.orel && e.count == 0 then { e with gen := e.gen + 1, live := false } else e)

/-- The entries that a context is joined to or owns (R168). -/
def heldEntries (s : State) (c : Ctx) (name : Nat) : List (Nat × Nat × Bool) :=
  (List.range 8).flatMap (fun d =>
    match matchEntry s (nameCluster name) (nameCore name) (c.d.getD d 0) with
    | none => []
    | some i => (if bit c.j d then [(nameCluster name, i, false)] else []) ++
        (if bit c.o d then [(nameCluster name, i, true)] else []))

def retireAll (s : State) (l : List (Nat × Nat × Bool)) : State :=
  l.foldl (fun s e => retireEntry s e.1 e.2.1 e.2.2) s

/-! Completion of a region (R20). -/

/-- Whether nothing of a region's work is left (R20). -/
def regionDone (s : State) (r : Region) : Bool :=
  r.live && r.tiles.toList.all (· == 0) &&
  !(s.tasks.any (fun t => t.2.region == r.id)) && !(s.sweeps.any (fun w => w.2.region == r.id)) &&
  !(s.groups.any (fun g => g.entries.any (fun e => (e.2.pend && e.2.pendRegion == r.id) ||
    (e.2.again && e.2.againRegion == r.id)))) &&
  r.spill.toList.all (·.isEmpty) && !(s.cores.any (fun c => c.2.deque.any (fun p => p.region == r.id))) &&
  !(s.records.any (fun m => m.region == r.id && m.state != .complete)) &&
  !(s.regions.any (fun q => q.2.live && q.2.parent == some r.id)) &&
  !(s.launches.any (fun l => l.2.parent == some r.id)) &&
  !(s.agenda.any (fun e => match e with
    | .postArrival p => p.region == r.id && p.node == s.node
    | _ => false)) && !(s.owed.any (·.1 == r.id))

/-- A region's completion made due when nothing of its work is left. -/
def checkDone (s : State) (rid : Nat) : State :=
  match s.region? rid with
  | none => s
  | some r => if regionDone s r && !s.agenda.contains (.regionComplete rid) then s.due (.regionComplete rid) else s

/-! The end of a task (R18, R31). -/

/-- The claim scope of a task (R57): package for a task without claims. -/
def taskScope (s : State) (t : Task) : Nat :=
  match t.sweep.bind (Tab.get? s.sweeps) with
  | some w => w.scope s
  | none => 2

/-- The again bit of a sweep's element. -/
def againOf (s : State) (w : Option Sweep) : Bool :=
  match w with
  | some w => match s.grp? w.grp with
    | some g => (g.entry w.elem).again
    | none => false
  | none => false

/-- The last member of a task has ended, with nothing left of its stores on its way: frames, claims and the stack range
go (R18 steps 3 to 5), and the record of a killed last member is written with the again bit that is then discarded (R56,
R58). -/
def endTask (s : State) (tid : Nat) : State :=
  match Tab.get? s.tasks tid with
  | none => s
  | some t =>
    let s := retireAll s t.frames
    let sw := t.sweep.bind (Tab.get? s.sweeps)
    let again := againOf s sw
    let s := match sw with
      | none => s
      | some w =>
        let w := { w with killed := t.killed }
        endRun (dropSweep s w) w
    let s : State := { s with tasks := Tab.erase s.tasks tid, ended := s.ended.filter (fun e => e.2.task != tid) }
    let s := match t.stk with
      | some k => s.modRegion t.region (fun r => { r with stk := r.stk.filter (· != k) })
      | none => s
    let s := match t.late with
      | some f => writeFault s t.region { f with again }
      | none => s
    checkDone s t.region

/-- Agents whose stores no release has covered yet: the completion of their region does (R21). -/
def loosen (s : State) (rid : Nat) (l : List Agent) : State := s.modRegion rid (fun r => { r with loose := r.loose ++ l })

/-- One member of a task has ended, with the frames it leaves to the task's end, and what of a killed member's remote
stores is still without its answer. Where the last member is killed, no TEND releases the stores of those that ended before
it. -/
def endMember (s : State) (c : Ctx) (killed : Bool) (frames : List (Nat × Nat × Bool))
    (out : List (List Origin × List (Nat × Nat × Bool))) : State :=
  let s := loosen s c.region ((if killed then [.thread c.cid] else []) ++ c.done.map (fun e => .engine e.2))
  match Tab.get? s.tasks c.task with
  | none => s
  | some t =>
    let t := { t with members := t.members - 1, past := c.cid :: t.past, killed := t.killed || killed,
                      frames := t.frames ++ frames, out := t.out ++ out }
    let s := { s with tasks := Tab.set s.tasks c.task t }
    let s := if killed ∧ t.members = 0 then loosen s c.region (t.past.map .thread) else s
    if t.members = 0 ∧ t.out.isEmpty then endTask s c.task else s

/-- A remote store of a killed thread has been answered or given up: the frames that waited for it are released, and its
task ends where nothing else of it is left (R58, R303 step 6). -/
def settleOut (s : State) (o : Origin) : State :=
  s.tasks.foldl (fun s e =>
    if e.2.out.any (fun p => p.1.contains o) then
      let out := e.2.out.map (fun p => (p.1.filter (· != o), p.2))
      let s := (out.filter (fun p => p.1.isEmpty)).foldl (fun s p => retireAll s p.2) s
      let t : Task := { e.2 with out := out.filter (fun p => !p.1.isEmpty) }
      let s := { s with tasks := Tab.set s.tasks e.1 t }
      if t.members = 0 ∧ t.out.isEmpty then endTask s e.1 else s
    else s) s

/-! Gangs (R29 to R31). -/

def Ctx.inGang (c : Ctx) : Bool := bit c.gstat 0
def Ctx.gangSize (c : Ctx) : Nat := 2 ^ bits c.gstat 3 2
def Ctx.gangLead (c : Ctx) : Bool := bit c.gstat 1
def Ctx.gangIdx (c : Ctx) : Nat := bits c.gstat 6 4

/-- The names of the slots of an aligned group of cores (R29). -/
def groupSlots (name size : Nat) : List Nat :=
  let low := nameCore name / size * size
  (List.range size).map (fun i => (low + i) * 16 + nameSlot name)

/-- The slots of the standing gang of a slot's context, in the order of members; the slot alone where there is
none. -/
def gangOf (s : State) (name : Nat) : List Nat :=
  match (s.slot name).ctx with
  | none => []
  | some c =>
    if c.inGang then (groupSlots name c.gangSize).filter (fun t => match (s.slot t).ctx with
      | some q => q.inGang && q.task == c.task
      | none => false)
    else [name]

/-- The event of a plumb mismatch in mode 1 (R364, Table 23.4). -/
def missEvent (s : State) (name : Nat) (c : Ctx) (b : Blk) : State :=
  s.event { type := 3, die := nameDie name, source := identWord s name c.inc, val := b.word }

/-- The event of a mismatch that the BSIG word of a completing instruction finds in mode 1. -/
def noteSig (s : State) (name : Nat) (c : Ctx) : State := if c.sigMiss then missEvent s name c c.blk else s

/-- A YIELD in progress in a slot completes at once (R147). -/
def endYieldAt (s : State) (t : Nat) : State :=
  match (s.slot t).ctx with
  | none => s
  | some c =>
    if c.yieldTo.isNone then s
    else (noteSig s t c).setSlot t { s.slot t with ctx := some { c.complete .seq with yieldTo := none } }

/-- A gang disbands (R31): `name` is the member whose trap or DISB it is, `cause` DCAUSE (1 DISB, 2 trap). -/
def disband (s : State) (name cause : Nat) : State :=
  match (s.slot name).ctx with
  | none => s
  | some c =>
    if !c.inGang then s
    else (gangOf s name).foldl (fun s t =>
      let sl := s.slot t
      match sl.ctx with
      | none => s
      | some q =>
        let g := setBit q.gstat 0 false
        let g := if cause = 2 ∧ t = name then g
          else setBits (setBits (setBit g 7 true) 11 10 cause) 14 12 (if cause = 2 then c.gangIdx else 0)
        endYieldAt (s.setSlot t { sl with ctx := some { q with gstat := g } }) t) s

/-! Pending accesses. -/

/-- One element of a killed thread's store performed at its home or array, or aborted where it fails there or meets a
pinned line (R58, R81). -/
def flushElem (s : State) (a : Agent) (seq : Nat) (asid : BitVec 16) (va : Word) (key : Option Nat)
    (bs : List Byte) (strong : Option Mark) : State :=
  let (k, s) := resolve s asid (match key with
    | some k => .arr k
    | none => .ord (homeDie va)) va bs.length .w
  match k with
  | .ok k => if pinned s k bs.length then s else s.store k bs a seq strong (viaOf s asid va)
  | .error _ => s

/-- The pending stores of a killed thread, each performed or aborted as a free value says (log 17). -/
def flushKilled (s : State) (c : Ctx) : State :=
  let asid := (s.regionOf c).asid
  let put (s : State) (seq : Nat) (va : Word) (key : Option Nat) (bs : List Byte) (st : Option Mark) : State :=
    let s' := { s with tick := s.tick + 1 }
    if Config.aborted s.tick then s' else flushElem s' (.thread c.cid) seq asid va key bs st
  let s := c.stores.foldl (fun s p => p.elems.foldl (fun s e => put s p.seq e.1 e.2.1 e.2.2 none) s) s
  let s := c.outer.foldl (fun s p => put s p.seq p.va (some p.key) (toBytes 8 p.val.toNat) none) s
  match c.strong with
  | none => s
  | some p => match p.op with
    | .load => s
    | .store w => put s c.seq p.va (some p.key) (toBytes 8 w.toNat) (some ⟨p.scope, some p.core⟩)
    | .amo fn v cas =>
      let old := wd (Mem.num s.mem p.key 8)
      if amoWrites fn old v then
        put s c.seq p.va (some p.key) (toBytes 8 (amoNew fn old v cas).toNat) (some ⟨p.scope, some p.core⟩)
      else s

/-! Containment (R303). -/

/-- A barrier arrival withdrawn (R183). -/
def withdrawBar (s : State) (c : Ctx) (name : Nat) : State :=
  match c.barrier with
  | none => s
  | some (k, g) =>
    let b := s.barrier (nameCluster name) k
    if b.g = g then s.setBarrier (nameCluster name) k { b with a := b.a - 1 } else s

/-- The result that an issuer parked in PARK gets: its instruction issues again and completes with the code (R309). -/
def parkResult (s : State) (cid : Nat) (code : Nat) : State :=
  s.modCtx cid (fun c => { c with answer := some (wd code), stage := 0 })

/-- An image slot that was reserved for a save that does not take place is freed (log 19). -/
def unreserve (s : State) (asid : BitVec 16) (va : Word) : State :=
  let s := touch s asid va true
  match devKey s asid va true with
  | some k => s.store k (toBytes 8 0) .device 0 pkgMark
  | none => s

/-- The record of a kill. -/
def killRecord (s : State) (c : Ctx) (name : Nat) (k : Kill) (img : Option Word) : FRec :=
  let t := Tab.get? s.tasks c.task
  let w := (t.bind (·.sweep)).bind (Tab.get? s.sweeps)
  { reason := k.reason, cause := k.cause, imgv := img.isSome, double := k.double, ndisc := c.sfaults.length,
    sys := match w with
      | some w => w.scope s == 3
      | none => false
    again := againOf s w
    epc := k.epc, val := k.val, lpc := k.lpc, ident := k.ident.getD (identWord s name c.inc), coord := coordOf s c,
    aux := k.aux, img := img.getD 0, dva := c.sfaults.map (·.va) }

/-- A save that was asked of a context and does not take place: its image slot is freed, and a PARK gets code 1
(R309, log 19). -/
def dropSave (s : State) (c : Ctx) : State :=
  match c.save with
  | none => s
  | some q =>
    let s := unreserve s (s.regionOf c).asid q.img
    match q.parker with
    | some p => parkResult s p 1
    | none => s

/-- Whether a request writes at its home. -/
def bodyWrites : ReqBody → Bool
  | .rst _ _ => true
  | .ramo _ _ _ _ => true
  | .write _ _ _ => true
  | _ => false

/-- The remote stores of a context and its copies that are without their reply (R58). -/
def remoteStores (s : State) (c : Ctx) : List Origin :=
  ((s.fabric.sent ++ s.fabric.waiting).filter (fun q => bodyWrites q.req.body && match q.origin with
    | .thread cid => cid == c.cid
    | .copy id => s.copies.any (fun k => k.id == id && k.cid == c.cid)
    | _ => false)).map (·.origin)

/-- What containment does once the context stands in no slot (R303 steps 5 to 7 without the policy). Where the claims of its
task are kept for stores on their way (R58), the record is written as the task ends. A member that is killed while others of
its task run on has its record at once, with the again bit as it then stands (DESIGN CHOICE, log 104). -/
def containRest (s : State) (c : Ctx) (name : Nat) (k : Kill) (img : Option Word) : State :=
  let f := killRecord s c name k img
  let out := remoteStores s c
  let s := loosen s c.region ((s.copies.filter (fun e => e.cid == c.cid)).map (fun e => .engine e.id))
  let s := { s with
    copies := s.copies.filter (fun e => e.cid != c.cid)
    launches := s.launches.filter (fun l => !(l.2.cid == some c.cid && l.2.rcb.isNone)) }
  let s := withdrawBar s c name
  let s := flushKilled s c
  let s := match Tab.get? s.tasks c.task with
    | some t => if t.members = 1 then (s.ended.filter (fun e => e.2.task == c.task)).foldl (fun s e => flushKilled s e.2) s
      else s
    | none => s
  let fr := heldEntries s c name
  let s := if out.isEmpty then retireAll s fr else s
  let s := match c.mig with
    | some t => if t < 16384 then s.setSlot t { s.slot t with reserved := none } else s
    | none => s
  let s := dropSave s c
  let s := endMember s c true [] (if out.isEmpty then [] else [(out, fr)])
  match Tab.get? s.tasks c.task with
  | some t =>
    if t.members = 0 then { s with tasks := Tab.set s.tasks c.task { t with late := some f } } else writeFault s c.region f
  | none => writeFault s c.region f

/-- The image of a killed context dumped with STATE 3 into a free image slot of its region (R303 step 2). -/
def dumpImage (s : State) (c : Ctx) (name : Nat) : State × Option Word :=
  match s.region? c.region with
  | none => (s, none)
  | some r => match freeImg s r r.nsave 0 with
    | none => (s, none)
    | some va => match writeImg s r.asid va (imageBytes s c name 3 s.clock) with
      | some s => (s, some va)
      | none => (s, none)

/-- A thread in a slot contained: stopped, its gang disbanded, dumped, its slot scrubbing, the rest as above. -/
def containSlot (s : State) (name : Nat) (k : Kill) : State :=
  let s := endYieldAt (disband s name 2) name
  match (s.slot name).ctx with
  | none => s
  | some c =>
    let (s, img) := dumpImage s c name
    let s := s.setSlot name { s.slot name with ctx := none, scrub := true, scrubOf := c.region, xchg0 := none, xchg1 := none }
    (containRest s c name k img).dueBy (s.clock + 256) (.slotScrubDone name true)

/-- A saved context contained without letting it issue (R310, R304): its header word is cleared. -/
def containSaved (s : State) (sv : Saved) (k : Kill) : State :=
  let s := { s with saved := s.saved.filter (fun e => e.ctx.cid != sv.ctx.cid) }
  let s := unreserve s sv.asid sv.img
  containRest s sv.ctx sv.name k none

/-- A kill kept until the debug halt of the context's die ends (R300 rows 2 and 3); the first one stands. -/
def doom (s : State) (cid : Nat) (k : Kill) (policy : Bool) : State :=
  s.modCtx cid (fun c => { c with doom := c.doom.or (some (k, policy)) })

/-- Whether a kill of a context waits for a debug halt. -/
def killWaits (s : State) (cid : Nat) : Bool :=
  match s.slotOf cid with
  | some t => s.halted (nameDie t)
  | none => false

/-- A context contained, wherever it is. -/
def contain (s : State) (cid : Nat) (k : Kill) : State :=
  match s.slotOf cid with
  | some t => if s.halted (nameDie t) then doom s cid k false else containSlot s t k
  | none => match s.saved.find? (·.ctx.cid == cid) with
    | some sv => containSaved s sv k
    | none => s

/-! Fault policies (R304). -/

/-- Whether a region is another or descends from it; `fuel` counts the levels of R19. -/
def isUnder (s : State) (anc : Nat) : Nat → Nat → Bool
  | 0, _ => false
  | n + 1, r => r == anc || match (s.region? r).bind (·.parent) with
    | some p => isUnder s anc n p
    | none => false

/-- The level-0 region of a tree. -/
def rootOf (s : State) : Nat → Nat → Nat
  | 0, r => r
  | n + 1, r => match (s.region? r).bind (·.parent) with
    | some p => rootOf s n p
    | none => r

/-- Pending and sweeping elements of a halted region return to idle, and its undispatched work goes (R58). -/
def clearWork (s : State) (rid : Nat) : State :=
  let s : State := { s with groups := s.groups.map (fun (g : Group) =>
    { g with pending := g.pending.filter (fun i => (g.entry i.2).pendRegion != rid || !(g.entry i.2).pend) }) }
  let s := s.groups.foldl (fun s g => g.entries.foldl (fun s (e : Nat × Entry) =>
    if e.2.pend && e.2.pendRegion == rid then setEntry s g.key e.1 { e.2 with pend := false } else s) s) s
  let s := s.sweeps.foldl (fun s (e : Nat × Sweep) =>
    if e.2.region = rid ∧ !e.2.dispatched then endRun (dropSweep s e.2) { e.2 with killed := true } else s) s
  let s : State := { s with cores := s.cores.map (fun (c : Nat × CoreSt) =>
    (c.1, { c.2 with deque := c.2.deque.filter (fun p => p.region != rid) })) }
  s.modRegion rid (fun r => { r with spill := Vector.replicate 4 [], tiles := Vector.replicate 4 0 })

/-- The runs that running elements were still to have in a halted region are dropped (R56, R58). -/
def clearAgain (s : State) (rid : Nat) : State :=
  s.groups.foldl (fun s g => g.entries.foldl (fun s (e : Nat × Entry) =>
    if e.2.again && e.2.againRegion == rid then setEntry s g.key e.1 { e.2 with again := false } else s) s) s

/-- The records of halted regions that have not issued are to complete with REGION_HALTED (R235). -/
def haltRecords (s : State) (rs : List Nat) : State :=
  s.records.foldl (fun s m =>
    if rs.contains m.region && m.state == .waiting && m.code == 0 then
      State.due { s with records := s.records.map (fun (k : MRec) => if k.order = m.order then { k with code := 0x0E } else k) }
        (.matrixRecordComplete m.region m.id)
    else s) s

/-- Regions halted together, each with the status that RWAIT gives, by the policy of the region at `actor`. -/
def haltRegions (s : State) (l : List (Nat × Nat)) (actor : Word) : State :=
  let l := l.filter (fun e => match s.region? e.1 with
    | some r => r.live && r.halted == 0
    | none => false)
  let s := l.foldl (fun s e => s.modRegion e.1 (fun r => { r with halted := e.2 })) s
  let s := l.foldl (fun s e => clearWork s e.1) s
  let s := haltRecords s (l.map (·.1))
  let s := s.contexts.foldl (fun s e =>
    if l.any (fun h => h.1 == e.2) then
      contain s e.1 { reason := 4, aux := actor }
    else s) s
  let s := l.foldl (fun s e => clearAgain s e.1) s
  l.foldl (fun s e => if s.agenda.contains (.regionComplete e.1) then s else s.due (.regionComplete e.1)) s

/-- A region's fault policy (R304). -/
def applyPolicy (s : State) (rid : Nat) : State :=
  match s.region? rid with
  | none => s
  | some r =>
    let live := s.regions.filter (fun e => e.2.live)
    match r.fpol with
    | 0 => s.modRegion rid (fun r => { r with faulted := true })
    | 1 => haltRegions s ((live.filter (fun e => isUnder s rid 9 e.1)).map
        (fun e => (e.1, if e.1 = rid then 2 else 3))) r.rcbva
    | _ =>
      let root := rootOf s 9 rid
      haltRegions s ((live.filter (fun e => isUnder s root 9 e.1)).map
        (fun e => (e.1, if e.1 = rid then 2 else 3))) r.rcbva

/-- A thread killed: contained, then its region's policy (R303 step 7); where its die is under debug halt, after the
halt. -/
def kill (s : State) (cid : Nat) (k : Kill) : State :=
  match s.findCtx cid with
  | none => s
  | some c => if killWaits s cid then doom s cid k true else applyPolicy (contain s cid k) c.region

/-- The kills that waited for the debug halt of a die are taken as it ends. -/
def releaseDoomed (s : State) (die : Nat) : State :=
  s.slots.foldl (fun s e => match e.2.ctx with
    | none => s
    | some c => if nameDie e.1 != die then s else match c.doom with
      | none => s
      | some (k, true) => kill s c.cid k
      | some (k, false) => contain s c.cid k) s

/-- Every region that holds state in a failing unit halted as by a tree halt (Table 23.1 code 11). -/
def haltUnit (s : State) (rs : List Nat) : State :=
  rs.foldl (fun s r =>
    let root := rootOf s 9 r
    haltRegions s ((s.regions.filter (fun e => isUnder s root 9 e.1)).map
      (fun e => (e.1, if e.1 = r then 2 else 3))) (match s.region? r with
        | some q => q.rcbva
        | none => 0)) s

end Sys2Proof.Machine
end

