-- ==== Sys2Proof/Machine/Ops.lean ====
section
/-! DEFINITION. Taking an exception and returning from one (R293, R294, R299), how an instruction completes, parks
or traps (R23, R27), releases and acquires (R88, R89, R98), weak and strong accesses on their way (R171, R172),
migration asked for (R34) and contexts placed in slots (R15, R36). -/

namespace Sys2Proof.Machine

/-! Taking an exception. -/

/-- An exception of the issuing context: cause, value, the address it reports, the load's address where it reports a
load fault, and whether it reports weak stores that failed (R98). -/
structure Exc where
  cause : Nat
  val : Word
  epc : Word
  lpc : Option Word := none
  rel : Bool := false
  deriving DecidableEq, Repr

/-- The kill that an exception turns into (R293, R294); LPC is the load's address for cause 0x06 (Table 19.6). -/
def Exc.kill (e : Exc) (double : Bool) : Kill :=
  { reason := 1, cause := e.cause, double, epc := e.epc, val := e.val, lpc := if e.cause = 6 then e.lpc.getD e.epc else e.epc }

/-- Progress of the instruction being issued that a trap discards. -/
def Ctx.dropIssue (c : Ctx) : Ctx :=
  { c with got := [], loads := c.loads.filter (fun l => l.dst != .operand), seq := c.seq + 2, stage := 0, wait := none,
           fe := none, barrier := none, yieldTo := none, wfeStart := none, replay := none, answer := none, sig := none,
           lone := false, landed := false }

/-- The context after trap entry (R293), at the handler of its region. -/
def Ctx.enterTrap (c : Ctx) (e : Exc) (tvec : Word) : Ctx :=
  let st := setBit (setBit c.tstat 0 (c.level == .sup)) 1 true
  let st := if e.lpc.isSome then setBits (setBit st 3 true) 31 24 c.lfaults.length else st
  let st := if e.rel then setBits st 23 16 (min 255 c.sfaults.length) else st
  { c.dropIssue with
    tstat := st, tepc := e.epc, tcause := wd e.cause, tval := e.val, tlpc := e.lpc.getD c.tlpc
    level := .sup, run := .running, pc := tvec, kept := c.blk, blk := {}
    sfaults := if e.rel then [] else c.sfaults }

/-- A synchronous trap of the issuing context (R293, R294), with the landing at the trap vector (R136). -/
def takeTrap (s : State) (e : Exc) : State :=
  let c := s.ctx
  let r := s.regionOf c
  if c.inTrap then kill s c.cid (e.kill true)
  else if e.cause = 0x04 ∨ e.cause = 0x0A ∨ e.cause = 0x0D ∨ r.tvec = 0 then kill s c.cid (e.kill false)
  else
    let s := withdrawBar s c s.cur
    let s := disband s s.cur 2
    let s := if e.rel then writeFault s c.region
        { reason := 2, cause := e.cause, ndisc := c.sfaults.length, epc := e.epc, val := e.val, lpc := e.epc,
          ident := identWord s s.cur c.inc, coord := coordOf s c, dva := c.sfaults.map (·.va) }
      else s
    let s := s.setCtx (s.ctx.enterTrap e r.tvec)
    if landingBad s s.ctx s.myCore r.tvec then
      kill s c.cid { reason := 1, cause := 0x03, double := true, epc := r.tvec, val := r.tvec, lpc := r.tvec }
    else s

/-! An instruction completes, parks or traps. -/

/-- The state after an instruction has completed. -/
def complete (s : State) (k : Ctl) : State :=
  match k with
  | .gone => s
  | .trapAfter cause val =>
    let c := s.ctx
    takeTrap ((noteSig s s.cur c).setCtx (c.complete k)) { cause, val, epc := c.npc }
  | _ => (noteSig s s.cur s.ctx).setCtx (s.ctx.complete k)

/-- The context parked; a wait that goes on keeps the clock in which it began (R27). An instruction that parks on one
register and then on another is in two waits, each with its own count: R27 speaks of "one wait" and leaves this open
(DESIGN CHOICE, log 40). A wait of another kind is one while its object changes, as the tags of a TEND do. -/
def Ctx.parkAt (c : Ctx) (clock : Nat) (k : WaitKind) (obj : Word) : Ctx :=
  let w : Wait := match c.wait with
    | some w => if w.kind = k ∧ (k ≠ .reg ∨ w.obj = obj) then { w with obj } else ⟨k, obj, clock⟩
    | none => ⟨k, obj, clock⟩
  { c with run := .parked, wait := some w }

/-- The report of weak stores that failed at a release (R98). -/
def storeExc (c : Ctx) : Exc :=
  match c.sfaults with
  | [] => { cause := 0x07, val := 0, epc := c.pc, rel := true }
  | f :: _ => { cause := if f.pool then 0x13 else 0x07, val := f.va, epc := c.pc, rel := true }

/-- How an instruction of the issuing context ends. -/
def settle : EStateM.Result Stop State Ctl → State
  | .ok k s => complete s k
  | .error (.park k obj) s => s.mod (·.parkAt s.clock k obj)
  | .error (.trap cause val) s => takeTrap s { cause, val, epc := s.ctx.pc }
  | .error .storeFault s => takeTrap s (storeExc s.ctx)
  | .error .hold s => s.mod (fun c => { c with run := .running, wait := none })
  | .error .away s => s.mod (fun c => { c with run := .away, wait := some ⟨.none, 0, s.clock⟩ })

/-- The meaning of an instruction from its steps. -/
def runM (m : M Ctl) (s : State) : Host.Outcome State Fault Refusal := .next (settle (m.run s))

/-- A parked or absent context finishes its instruction from a device step. -/
def finishCtx (s : State) (cid : Nat) (f : Ctx → Ctx) : State :=
  match s.findCtx cid with
  | none => s
  | some c => (noteSig s (s.nameOf cid) c).modCtx cid (fun c => (f c).complete .seq)

/-- A YIELD of a context in progress ends (R147). -/
def finishYield (s : State) (cid : Nat) : State :=
  match s.slotOf cid with
  | none => s
  | some t => endYieldAt s t

/-- Where the second operand of a load or strong operation that a frame slot replaces keeps its value. -/
def loadPos : Nat := 2

/-- Where a LAUNCH whose result goes to a frame slot keeps that it waits for it. -/
def launchPos : Nat := 8

/-- Where a remote operation whose reply reports a failure keeps its VA until it issues again and traps. -/
def remotePos : Nat := 9

/-- Whether an instruction holds the result of an operation already performed, which it has still to write or report. -/
def Ctx.holdsResult (c : Ctx) : Bool := c.got.any (fun e => decide (loadPos ≤ e.1))

/-- Whether a held load fault can be taken at this boundary (R294, R296, R297): not in the Trap state, not while an
instruction is under way that does not issue again or has performed its operation, and after a migration not before the access
has completed (R342). -/
def faultDue (c : Ctx) : Bool :=
  !c.lfaults.isEmpty && !c.holdsResult && !c.landed && !c.inTrap && c.replay.isNone && c.answer.isNone && c.yieldTo.isNone && (c.stage == 0 || c.fe.isSome)

/-- The oldest held load fault of the issuing context taken at a boundary outside the Trap state (R293, R296, R298). -/
def takeHeld (s : State) : State :=
  let c := s.ctx
  match c.lfaults with
  | [] => s
  | f :: l =>
    if c.inTrap then s
    else takeTrap (s.setCtx { c with lfaults := l })
      { cause := if f.pool then 0x13 else 0x06, val := f.va, epc := c.pc, lpc := some f.pc }

/-- Work done as the context of a number, in its slot. -/
def asCtx (s : State) (cid : Nat) (f : State → State) : State :=
  match s.slotOf cid with
  | none => s
  | some t => { f { s with cur := t } with cur := s.cur }

/-! Releases and acquires. -/

/-- Whether nothing that a release waits for is on its way (R88); a load fault still held is waited for outside the
Trap state. -/
def Ctx.quiet (c : Ctx) : Bool :=
  c.loads.isEmpty && c.stores.isEmpty && c.strong.isNone && c.outer.isEmpty && (c.inTrap || c.lfaults.isEmpty)

/-- A release at a scope by the issuing context (R88, R98); until it can complete the thread parks. Failed weak stores
are reported once each earlier store is performed or has failed, so that the earliest in program order is known
(log 34). -/
def release (k : WaitKind) (obj : Word) (sc : Nat) : M Unit := do
  let c ← ctx
  if !c.sfaults.isEmpty && c.stores.isEmpty then throw .storeFault
  else if c.quiet && c.sfaults.isEmpty then modify (fun s => releaseMark s (.thread c.cid) ⟨sc, some s.myCore⟩)
  else park k obj

/-- An acquire at a scope by the issuing context (R89). -/
def acquire (sc : Nat) : M Unit := modify (fun s => acquireMark s (.thread s.ctx.cid) sc (some s.myCore))

/-- The orders of Q (R93). -/
def qRel (q : BitVec 4) : Bool := bit q 1
def qAcq (q : BitVec 4) : Bool := bit q 0
def qScope (q : BitVec 4) : Nat := bits q 3 2

/-! Uncorrectable data (R359, R360). -/

/-- A kill for uncorrectable data (Table 23.1), met by the instruction at an address in a granule. In the Trap state it is a
double fault (R294). -/
def killBadAt (s : State) (cid : Nat) (pc va : Word) (g : Nat) : State :=
  let s := noteBad s g
  kill s cid { reason := 1, cause := 0x0D, double := (s.findCtx cid).any (·.inTrap), epc := pc, val := va, lpc := pc }

/-- The same, met by the instruction at the context's program counter. -/
def killBad (s : State) (cid : Nat) (va : Word) (g : Nat) : State :=
  match s.findCtx cid with
  | none => s
  | some c => killBadAt s cid c.pc va g

/-! Addresses of accesses (R170). -/

/-- The place of an access of the issuing thread after the checks of R170; ordinary memory is left to its home. -/
def checkPlace (va : Word) (n : Nat) : M Place := do
  if va.toNat % n ≠ 0 then trap 0x05 va
  else
    let s ← get
    match place (s.regionOf s.ctx) s.myCore va n with
    | none => trap 0x08 va
    | some p => return p

/-- The key of a place in an explicit level. -/
def Place.key : Place → Option Nat
  | .arr k => some k
  | .ord _ => none

/-- Where an access lies, for the program order of one thread's accesses to one location (R87). -/
def locOf (va : Word) (key : Option Nat) : Nat := key.getD (2 ^ 60 + va.toNat)

def overlap (a n b m : Nat) : Bool := decide (a < b + m) && decide (b < a + n)

/-- Where a strong operation lies. -/
def PStrong.loc (p : PStrong) : Nat := if p.key < 2 ^ 40 then 2 ^ 60 + p.va.toNat else p.key

/-- Whether an earlier store of the context to these bytes is not yet performed. -/
def Ctx.storesBefore (c : Ctx) (seq loc n : Nat) : Bool :=
  c.stores.any (fun p => decide (p.seq < seq) && p.elems.any (fun e => overlap (locOf e.1 e.2.1) e.2.2.length loc n)) ||
    c.outer.any (fun p => decide (p.seq < seq) && overlap p.key 8 loc n)

/-- Whether an earlier load of the context from these bytes has not yet returned. -/
def Ctx.loadsBefore (c : Ctx) (seq loc n : Nat) : Bool :=
  c.loads.any (fun p => decide (p.seq < seq) && p.elems.any (fun e => overlap (locOf e.2.1 e.2.2) p.n loc n))

/-- Whether an earlier strong operation of the context on these bytes is not yet performed. -/
def Ctx.strongBefore (c : Ctx) (seq loc n : Nat) : Bool :=
  match c.strong with
  | none => false
  | some p => decide (p.seq < seq) && overlap p.loc 8 loc n

/-- The fate of an access homed on another die (Table 2.8): it is performed from here, or the thread asks for a
slot there (R341). The request stands while `mig` is set; 16384 and above name the die and no slot yet. -/
def fate (va : Word) (p : Place) : M Unit := do
  match p with
  | .arr _ => return
  | .ord die =>
    let s ← get
    let c := s.ctx
    let r := s.regionOf c
    if die = s.myDie then return
    else if r.migp = 2 then trap 0x08 va
    else
      let tied := (List.range 8).any (fun d => (bit c.j d || bit c.o d) &&
        (let k := bits (c.d.getD d 0) 63 60; k == 1 || k == 2))
      let busy := s.copies.any (·.cid == c.cid) || s.records.any (fun m => m.cid == c.cid && m.state != .complete)
      if r.migp = 1 ∨ bits c.gstat 40 32 > 0 ∨ c.inGang ∨ bit c.gstat 16 ∨ tied ∨ busy then return
      else
        modify (fun s => (s.mod (fun c => { c with mig := some (16384 + die), stage := 1 })).dueBy (s.clock + 2000)
          (.migrationSlotRequest c.cid))
        throw .away

/-- A store or AMO to memory held by the XU traps (R49). -/
def checkXu (va : Word) (n : Nat) : M Unit := do
  if heldByXu (← get) (← region).asid va n then trap 0x08 va else pure ()

/-! Weak accesses. -/

/-- A weak load put on its way (R172): the destination is emptied with a result pending. -/
def sendLoad (n : Nat) (elems : List (Nat × Word × Option Nat)) (dst : LoadDst) (inputs : RegSet) : M Unit :=
  modify (fun s =>
    let (id, s) := s.fresh
    let s := s.mod (fun c =>
      let c := { c with loads := c.loads ++ [⟨id, c.seq, c.pc, n, elems, dst, inputs⟩] }
      match dst with
      | .operand => c
      | _ => c.awaitReg dst.num)
    s.due (.registerFill s.ctx.cid id))

/-- At most 16 weak stores are held (R172). -/
def needStoreRoom : M Unit := do
  if 16 ≤ (← ctx).stores.length then park .none 0 else pure ()

/-- Whether every element lies in the issuing core's scratchpad or slices, so that a load or store of it is performed
before the thread's next offered clock: here at once (R65). -/
def atCore (core : Nat) (keys : List (Option Nat)) : Bool :=
  keys.all (fun k => match k with
    | some k => (decide (coreKey core 0 ≤ k) && decide (k < coreKey (core + 1) 0)) ||
        (decide (laneKey core 0 0 ≤ k) && decide (k < laneKey (core + 1) 0 0))
    | none => false)

/-- A weak store put on its way; one in the issuing core's scratchpad or slices is performed at once (R65). -/
def sendStore (elems : List (Word × Option Nat × List Byte)) : M Unit := do
  let s ← get
  let c := s.ctx
  let free := elems.all (fun e =>
    let loc := locOf e.1 e.2.1
    !c.storesBefore (c.seq + 1) loc e.2.2.length && !c.loadsBefore (c.seq + 1) loc e.2.2.length &&
      !c.strongBefore (c.seq + 1) loc e.2.2.length)
  if elems.isEmpty then return
  needStoreRoom
  if atCore s.myCore (elems.map (·.2.1)) && free then
    match elems.find? (fun e => storePoisoned s (e.2.1.getD 0) e.2.2.length) with
    | some e =>
      modify (fun s => noteBad s ((badStore s (e.2.1.getD 0) e.2.2.length).getD 0))
      trap 0x0D e.1
    | none => modify (fun s => elems.foldl (fun s e => s.store (e.2.1.getD 0) e.2.2 (.thread c.cid) c.seq none) s)
  else
    modify (fun s =>
      let (id, s) := s.fresh
      (s.mod (fun c => { c with stores := c.stores ++ [⟨id, c.seq, elems, none⟩] })).due (.weakStorePerformed c.cid id))

/-! Strong accesses. -/

/-- The key of a strong access at issue, with its precise faults (R171). -/
def strongKey (p : Place) (va : Word) (need : Need) : M Nat := do
  let s ← get
  let (k, s') := resolve s (s.regionOf s.ctx).asid p va 8 need
  set s'
  match k with
  | .ok k => return k
  | .error .unmapped => trap 0x06 va
  | .error .prot => trap 0x08 va
  | .error .pool => trap 0x13 va
  | .error (.poison g) =>
    modify (fun s => noteBad s g)
    trap 0x0D va

/-- The strong operations of a thread are performed one after another (R92, R172). -/
def needStrong : M Unit := do
  if (← ctx).strong.isSome then park .none 0 else pure ()

/-- What a strong operation reads and writes at its coherence point (R92, R180). -/
def strongDo (s : State) (a : Agent) (seq : Nat) (m : Mark) (key : Nat) (via : Option Via) (op : StrongOp) :
    Word × State :=
  match op with
  | .load => let (v, s) := strongRead s a key 8 via; (wd v, s)
  | .store w => (0, s.store key (toBytes 8 w.toNat) a seq (some m) via)
  | .amo fn v cas =>
    let (old, s) := strongRead s a key 8 via
    (wd old, if amoWrites fn (wd old) v then
      s.store key (toBytes 8 (amoNew fn (wd old) v cas).toNat) a seq (some m) via else s)

/-- Whether a strong operation reads data that may be uncorrectable. -/
def StrongOp.reads : StrongOp → Bool
  | .store _ => false
  | _ => true

/-- A context with a strong operation on its way: the register of its result awaits it (R25), and one that holds the thread
completes when it is performed. -/
def Ctx.sentStrong (c : Ctx) (p : PStrong) : Ctx :=
  let c := { c with strong := some p }
  let c := if !p.frame && p.op.reads then c.awaitReg p.dst.val else c
  if p.hold then { c with stage := 1 } else c

/-- An access that becomes due: on the issuing core's own arrays before the thread's next offered clock (R65). -/
def State.dueNear (s : State) (key : Nat) (e : Ev) : State :=
  if atCore s.myCore [some key] then s.dueBy (s.clock + 15) e else s.due e

/-- A strong operation put on its way (R172); one on the issuing core's scratchpad is performed before the thread's next
offered clock (R65). One that holds the thread until it is performed parks it here; the
device step that performs it completes the instruction. -/
def sendStrong (op : StrongOp) (va : Word) (key : Nat) (dst : Fin 64) (acq : Bool) (scope : Nat)
    (hold frame : Bool) : M Ctl := do
  modify (fun s =>
    let (id, s) := s.fresh
    let s := s.mod (fun c => c.sentStrong ⟨id, c.seq, c.pc, s.myCore, op, va, key, dst, acq, scope, hold, frame⟩)
    s.dueNear key (.strongAccessPerformed s.ctx.cid id))
  if hold then park .none 0 else return .seq

/-- The BSIG word consumed with the instruction is done with before what the instruction itself does to the block state or
to PLUMB (R362, R363). -/
def takeSig : M Unit := modify (fun s => (noteSig s s.cur s.ctx).mod (·.takeSig))

/-! Returning from an exception. -/

/-- ERET (R299) on the issuing context: where it goes on, and the level, status and block state it takes back. -/
def eretM (replay : Bool) : M Ctl := do
  let c ← ctx
  if !c.inTrap then trap 0x08 0
  else if bit c.tepc 0 then trap 0x05 c.tepc
  else
    takeSig
    let again := replay && bit c.tstat 3
    modC (fun c => { c with
      level := if bit c.tstat 0 then .sup else .user
      tstat := if again then setBit (setBit c.tstat 1 false) 3 false else setBit c.tstat 1 false
      blk := c.kept, kept := {}
      replay := if again then some c.tepc else none })
    return .back (if again then c.tlpc else c.tepc)

/-! Contexts placed in slots. -/

/-- A slot takes its next incarnation (R15). -/
def Slot.renew (sl : Slot) : Slot := { sl with inc := sl.inc + 1 }

/-- A context set into a free slot with a fresh incarnation (R15); a wait begins anew (R27). -/
def placeCtx (s : State) (t : Nat) (c : Ctx) : State :=
  let sl := (s.slot t).renew
  let c := { c with
    inc := sl.inc
    wait := c.wait.map (fun w => { w with start := s.clock })
    run := if c.run = .away ∨ (c.run = .parked ∧ c.stage ≠ 0) then c.run else .running }
  s.setSlot t { sl with ctx := some c, reserved := none, freed := s.clock + 1, xchg0 := none, xchg1 := none }

/-- Whether a core is in the logical core map and not under scan (R366, R368). -/
def coreOk (s : State) (core : Nat) : Bool := (s.core core).present

/-- Whether a slot is free and may take a context (R24, R312, R341, R368). -/
def slotFree (s : State) (t : Nat) : Bool :=
  let sl := s.slot t
  sl.ctx.isNone && !sl.scrub && !sl.held && sl.reserved.isNone && coreOk s (nameCore t)

/-- Whether the ties of a context let a slot hold it (R36, R183), with the name it had. -/
def tiesAllow (c : Ctx) (old t : Nat) : Bool :=
  let tie (k : Nat) : Bool := (List.range 8).any (fun d => (bit c.j d || bit c.o d) && bits (c.d.getD d 0) 63 60 == k)
  nameDie old == nameDie t && (!(tie 2 || c.barrier.isSome) || nameCluster old == nameCluster t) &&
    (!(tie 1 || bit c.gstat 16) || nameCore old == nameCore t)

end Sys2Proof.Machine
end

