-- ==== Sys2Proof/Machine/Sched.lean ====
section
/-! DEFINITION. Work and share queues (R322, R323), the dispatch of tasks and resumes (R17, R33, R258, R324, R325), saving
and resuming contexts (R301, R302), the choice of pre-emption victims (R326), and Scrub (R303). -/

namespace Sys2Proof.Machine

/-! Work (R322). -/

/-- Whether a spawned record of a region lies at the deques of a die. -/
def dequeHas (s : State) (r die : Nat) : Bool :=
  s.cores.any (fun c => c.1 / 256 == die && c.2.deque.any (fun p => p.region == r))

/-- The STATE 1 images of a region on a die whose contexts wait for nothing from the Stipple (Table 2.9). -/
def waitingImages (s : State) (r die : Nat) : List Saved :=
  s.saved.filter (fun v => v.state == 1 && v.ctx.region == r && nameDie v.name == die && v.ctx.query.isNone)

/-- The granted claimed tasks of a region on a die. -/
def grantedTasks (s : State) (r die : Nat) : List Sweep :=
  (s.sweeps.map (·.2)).filter (fun w => w.region == r && w.die == die && w.granted && !w.dispatched)

/-- How many spawned records of a region wait on a die. -/
def spawnCount (s : State) (r : Region) (die : Nat) : Nat :=
  ((s.cores.filter (fun c => c.1 / 256 == die)).map (fun c => (c.2.deque.filter (fun p => p.region == r.id)).length)).sum +
    (r.spill.getD die []).length

/-- How many pieces of a region's work are bounded by MSLOT on a die. -/
def boundedWork (s : State) (r : Region) (die : Nat) : Nat :=
  r.tiles.getD die 0 + spawnCount s r die + (waitingImages s r.id die).length

/-- Whether a live region has work on a die (R322); a tree that is stilled has none (R373). -/
def hasWork (s : State) (r : Region) (die : Nat) : Bool :=
  r.live && !r.still && r.halted == 0 && (!(grantedTasks s r.id die).isEmpty ||
    (decide (0 < boundedWork s r die) && decide (liveCount s r.id die < r.mslot)))

/-! Stack ranges (R321). -/

/-- The lowest stack range that no task of the region holds. -/
def freeStack (r : Region) : Option Nat :=
  match (List.range (r.stk.length + 1)).find? (fun k => !r.stk.contains k) with
  | some k => if k < r.nstk then some k else none
  | none => none

/-- The stack range for a task of a region on a die, named as in `Region.stuck`: the one it keeps since its first page
could not grow, unless that has been tried in this share interval, or the lowest free one (R258). -/
def stackFor (r : Region) (die key : Nat) : Option Nat :=
  match r.stuck.find? (fun e => e.1 == die && e.2.1 == key) with
  | some (_, _, k, tried) => if tried then none else some k
  | none => freeStack r

/-! What a slot takes (R33, R324). -/

/-- A piece of work for a slot. -/
inductive Item where
  | image (v : Saved)
  | claimed (w : Sweep)
  | spawn (p : Spawn)
  | tile
  deriving DecidableEq, Repr

/-- How `Region.stuck` names it. -/
def Item.key : Item → Nat
  | .claimed w => w.id
  | .spawn p => p.id
  | _ => 0

/-- The cores next to a core in its cluster, at +x, +y, -x and -y. -/
def besideCores (core : Nat) : List Nat :=
  let x := core % 4; let y := core / 4 % 4
  (if x < 3 then [core + 1] else []) ++ (if y < 3 then [core + 4] else []) ++
    (if 0 < x then [core - 1] else []) ++ (if 0 < y then [core - 4] else [])

/-- The spawned record that a slot takes from a region (R33), of those that a stack range stands ready for. -/
def spawnItem (s : State) (r : Region) (t : Nat) : Option Spawn :=
  let fit (p : Spawn) : Bool := p.region == r.id && (stackFor r (nameDie t) p.id).isSome
  match (s.core (nameCore t)).deque.find? fit with
  | some p => some p
  | none => match (besideCores (nameCore t)).findSome? (fun c => (s.core c).deque.reverse.find? fit) with
    | some p => some p
    | none => (r.spill.getD (nameDie t) []).find? fit

/-- The bytes of the image slot at a VA; none where it cannot be read or written. -/
def readImg (s : State) (asid : BitVec 16) (va : Word) : Option (Nat × List Byte) :=
  match devKey s asid va false, devKey s asid va true with
  | some k, some _ => if poisoned s k 4096 then none else some (k, Mem.readN s.mem k 4096)
  | _, _ => none

/-- What reading an image slot does beside (R337, R359). -/
def touchImg (s : State) (asid : BitVec 16) (va : Word) : State :=
  let s := touch (touch s asid va true) asid va false
  match devKey s asid va false with
  | none => s
  | some k => match badGran s k 4096 with
    | some g => if g = k / 8 then s else noteBad s g
    | none => s

/-- A saved context as its image now stands (R302); none where the image is refused. -/
def imageCtx (s : State) (v : Saved) (img : List Byte) : Option Ctx :=
  if imgFixed img = imgFixed v.image then some (applyImage v.ctx s.plfloor.toNat img) else none

/-- The context that a resume of a saved one would place; the saved one where its image is refused. -/
def applied (s : State) (v : Saved) : Ctx := ((readImg s v.asid v.img).bind (fun e => imageCtx s v e.2)).getD v.ctx

/-- The oldest STATE 1 image of a region that a slot may hold: R36 is asked of the context that the resume places (R302). -/
def imageItem (s : State) (r : Region) (t : Nat) : Option Item :=
  ((waitingImages s r.id (nameDie t)).filter (fun v => tiesAllow (applied s v) v.name t)).foldl
    (fun b v => match b with
      | some (.image u) => if v.order < u.order then some (.image v) else b
      | _ => some (.image v)) none

/-- What a slot takes from a region (R324). Which of several granted tasks goes first the spec does not say: here the one
whose sweep started first (DESIGN CHOICE, log 46). -/
def itemFor (s : State) (r : Region) (t : Nat) : Option Item :=
  let die := nameDie t
  let room := decide (liveCount s r.id die < r.mslot)
  match (if room then imageItem s r t else none) with
  | some i => some i
  | none => match (grantedTasks s r.id die).find? (fun w => (stackFor r die w.id).isSome) with
    | some w => some (.claimed w)
    | none => if !room then none else match spawnItem s r t with
      | some p => some (.spawn p)
      | none => if r.tiles.getD die 0 = 0 ∨ (stackFor r die 0).isNone then none else some .tile

/-- The first in an order of priority, the earliest admitted where it is equal. -/
def topPrio (l : List Region) : List Region :=
  sortBy (fun a b => decide (b.prio < a.prio) || (a.prio == b.prio && decide (a.id ≤ b.id))) l

/-- The work that a free slot takes: from the region of highest PRIO that maps to its queue and has something for
it. -/
def workFor (s : State) (t : Nat) : Option (Region × Item) :=
  if !slotFree s t || s.halted (nameDie t) then none
  else (topPrio ((s.regions.map (·.2)).filter (fun r => r.shq == (s.slot t).owner.toNat && hasWork s r (nameDie t)))).findSome?
    (fun r => (itemFor s r t).map (fun i => (r, i)))

/-! The start of a task. -/

/-- The display word of a region's cluster outer frame in a cluster; 0 where it has none (R258). -/
def outerDisp (s : State) (r : Region) (clus : Nat) : Word :=
  if !r.ofv then 0
  else match (List.range 64).find? (fun i =>
      let e := (s.ftab clus).getD i {}
      e.live && e.kind == 2 && e.base == r.ofb) with
    | some i => wd (2 * 2 ^ 60 + ((s.ftab clus).getD i {}).gen.toNat * 2 ^ 48 + r.ofb)
    | none => 0

/-- What a task starts with beside its region's values. -/
structure Start where
  cid : Nat
  task : Nat
  pc : Word
  x4 : Word
  x5 : Word
  x6 : Word
  x7 : Word
  x8 : Word
  d1 : Word
  deriving DecidableEq, Repr

/-- The context of a task at its start (R258, Table 13.2). -/
def startCtx (s : State) (r : Region) (clus : Nat) (a : Start) : Ctx :=
  { Ctx.blank with
    cid := a.cid, task := a.task, region := r.id, pc := a.pc, npc := a.pc
    x := ((((((Ctx.blank.x.set 2 a.d1).set 3 r.gp).set 4 a.x4).set 5 a.x5).set 6 a.x6).set 7 a.x7).set 8 a.x8
    d := (Ctx.blank.d.set 0 (outerDisp s r clus)).set 1 a.d1
    wlim := r.wlim
    plumb := wd s.plfloor.toNat
    level := if r.sup then .sup else .user }

/-- The coordinate of the tile of a linear index (R321, Table 2.1). -/
def tileCoord (r : Region) (i : Nat) : Word :=
  let nx := r.f 2 19 0 + 1
  let ny := r.f 2 39 20 + 1
  wd (i / (nx * ny) * 2 ^ 40 + i / nx % ny * 2 ^ 20 + i % nx)

/-- How many tiles of a region go to a die in all: those of index equal to the die modulo 4. -/
def tileTotal (r : Region) (die : Nat) : Nat :=
  ((r.f 2 19 0 + 1) * (r.f 2 39 20 + 1) * (r.f 2 59 40 + 1) + 3 - die) / 4

/-- The state without a spawned record that a slot takes. -/
def takeRecord (s : State) (r : Region) (p : Spawn) : State :=
  { s with cores := s.cores.map (fun (c : Nat × CoreSt) => (c.1, { c.2 with deque := c.2.deque.filter (·.id != p.id) })) }.modRegion
    r.id (fun r => { r with spill := r.spill.map (fun (l : List Spawn) => l.filter (·.id != p.id)) })

/-- The dispatcher's store of 0 to slot 0 of the D1 frame, which may grow the page (R258): whether it was made. -/
def presetSlot (s : State) (r : Region) (cid : Nat) (va : Word) : Bool × State :=
  match resolve s r.asid (.ord (homeDie va)) va 8 .w with
  | (.ok k, s) => (true, s.store k (toBytes 8 0) (.thread cid) 0 none (viaOf s r.asid va))
  | (.error _, s) => (false, s)

/-- The landing of a task's first instruction (R136). -/
def checkEntry (s : State) (t : Nat) (pc : Word) : State :=
  match (s.slot t).ctx with
  | none => s
  | some c =>
    if landingBad s c (nameCore t) pc then
      { takeTrap { s with cur := t } { cause := 0x03, val := pc, epc := pc } with cur := s.cur }
    else s

/-- The entry and arguments of a piece of work: the program counter and x4 to x8. -/
def Item.args (s : State) (r : Region) (die : Nat) : Item → Word × Word × Word × Word × Word × Word
  | .spawn p => (p.entry, 0, p.x5, p.x6, p.x7, p.x8)
  | .claimed w => (r.w 0, wd (s.node.toNat * 2 ^ 48 + w.elem), r.arg, 0, 0, 0)
  | _ => (r.w 0, tileCoord r (die + 4 * (tileTotal r die - r.tiles.getD die 0)), r.arg, 0, 0, 0)

/-- A piece of work leaves what waits (R322). -/
def takeItem (s : State) (r : Region) (die : Nat) (i : Item) : State :=
  match i with
  | .claimed w => { s with sweeps := Tab.modify s.sweeps w.id (fun w => { w with dispatched := true }) }
  | .spawn p => takeRecord s r p
  | _ => s.modRegion r.id (fun r => { r with tiles := r.tiles.set! die (r.tiles.getD die 0 - 1) })

/-- A task started in a slot (R17, R258, R321). A task whose stack page does not grow keeps its place and its
range until the next share interval. -/
def startTask (s : State) (t : Nat) (r : Region) (i : Item) : State :=
  let die := nameDie t
  match stackFor r die i.key with
  | none => s
  | some k =>
    let d1 := r.stkb + wd ((k + 1) * r.stksz) - wd ((8 * r.d1w + 15) / 16 * 16)
    let (id, s) := s.fresh
    let cid := match i with
      | .claimed w => w.id
      | _ => id
    let (pc, x4, x5, x6, x7, x8) := i.args s r die
    let (fits, s) := presetSlot s r cid d1
    let s := s.modRegion r.id (fun r => { r with
      stuck := (if fits then [] else [(die, i.key, k, true)]) ++ r.stuck.filter (fun e => !(e.1 == die && e.2.1 == i.key))
      stk := if r.stk.contains k then r.stk else k :: r.stk })
    if !fits then s
    else
      let s := takeItem s r die i
      let task : Task :=
        { id, region := r.id, coord := x4
          spawned := match i with
            | .spawn _ => true
            | _ => false
          again := match i with
            | .claimed w => w.again
            | _ => false
          sweep := match i with
            | .claimed w => some w.id
            | _ => none
          stk := some k, start := s.clock, members := 1, past := [], killed := false, frames := [], out := [] }
      let s := placeCtx { s with tasks := Tab.set s.tasks id task } t
        (startCtx s r (nameCluster t) ⟨cid, id, pc, x4, x5, x6, x7, x8, d1⟩)
      let s := match i with
        | .claimed _ => s
        | _ => acquireMark s (.thread cid) 2 (some (nameCore t))
      checkEntry s t pc

/-! Saving. -/

/-- A context asked to save (R301, R326): its image slot reserved. -/
def askSave (s : State) (t : Nat) (c : Ctx) (q : SaveReq) : State :=
  let s := reserveImg s (s.regionOf c).asid q.img c t
  (s.modCtx c.cid (fun c => { c with save := some q })).dueBy (s.clock + 1250) (.preemptionSave c.cid)

/-- The context of a slot. -/
def ctxOf (s : State) (t : Nat) : Ctx := (s.slot t).ctx.getD Ctx.blank

/-- What a save drops of an instruction that issues again after the resume: a WFE, an F/E wait and a LAUNCH whose RCB has
not been read begin anew (R187, R315). -/
def Ctx.forSave (c : Ctx) (launch : Bool) : Ctx :=
  let c := { c with wfeStart := none, got := c.got.filter (·.1 != 7) }
  if c.fe.isSome then { c with fe := none, stage := 0 }
  else if launch then { c with stage := 0, got := c.got.filter (·.1 != launchPos) } else c

/-- PREEMPTION_SAVE (R36, R37, R300, R301, R342): the context stops issuing at its boundary, after a migration that has
begun, and after a load fault that it can take there. A YIELD in progress ends first. -/
def execPreemptionSave (cid : Nat) (s : State) : Host.Outcome State Fault Refusal :=
  .next (match s.slotOf cid with
    | none => s
    | some t => match (s.slot t).ctx with
      | none => s
      | some c => match c.save with
        | none => s
        | some q =>
          let again (s : State) : State := s.dueBy (max (q.asked + 1250) (s.clock + 1)) (.preemptionSave cid)
          if q.written then s
          else if c.mig.isSome || s.halted (nameDie t) then again s
          else if faultDue { c with yieldTo := none } then again (asCtx (finishYield s cid) cid takeHeld)
          else (s.modCtx cid (fun c => { c with save := some { q with written := true } })).dueBy (q.asked + 5000)
            (.imageSaveDone cid))

/-- IMAGE_SAVE_DONE (R31, R301, R309): the gang disbands, the image is performed and the slot is free; where a write fails,
the context goes on in its slot as if the save had not been taken. -/
def execImageSaveDone (cid : Nat) (s : State) : Host.Outcome State Fault Refusal :=
  .next (match s.slotOf cid with
    | none => s
    | some t => match (s.slot t).ctx with
      | none => s
      | some c => match c.save with
        | none => s
        | some q =>
          let r := s.regionOf c
          if s.halted (nameDie t) then s.dueBy (s.clock + 5000) (.imageSaveDone cid)
          else if anyOwns s r.asid q.img 4096 then s.dueBy (max (q.asked + 5000) (s.clock + 1)) (.imageSaveDone cid)
          else
          let unread (l : Nat × Launch) : Bool := l.2.cid == some cid && l.2.rcb.isNone
          let s1 := finishYield (disband s t 2) cid
          let c1 := { (ctxOf s1 t).forSave (s.launches.any unread) with save := none }
          let img := imageBytes s1 c1 t q.state s.clock
          match writeImg s1 r.asid q.img img with
          | none =>
            let s := s.modCtx cid (fun c => { c with save := none })
            match q.parker with
            | some p => parkResult s p 5
            | none => s.modRegion r.id (fun r => { r with noSave := nameDie t :: r.noSave })
          | some s =>
            let (id, s) := s.fresh
            let v : Saved := { asid := r.asid, img := q.img, state := q.state, name := t, stamp := s.clock, order := id,
                               image := img, ctx := c1 }
            let sl := s.slot t
            let s := s.setSlot t { sl with
              ctx := none, freed := s.clock + 1, owner := q.queue.getD sl.owner }
            let s := { s with saved := s.saved ++ [v], launches := s.launches.filter (fun l => !unread l) }
            match q.parker with
            | some p => parkResult s p 0
            | none => s)

/-! Resuming. -/

/-- A saved context placed in a slot, its header word cleared (R301). -/
def resumeIn (s : State) (v : Saved) (key t : Nat) (c : Ctx) : State :=
  let s := s.store key (toBytes 8 0) .device 0 pkgMark
  placeCtx { s with saved := s.saved.filter (fun u => u.ctx.cid != v.ctx.cid) } t c

/-- The identity that an image's header word records. -/
def imgIdent (s : State) (img : List Byte) : Word :=
  identWord s (bits (imgWord img 0) 29 16) (BitVec.ofNat 16 (bits (imgWord img 0) 47 32))

/-- A saved image that the scheduler refuses: its context is contained (R302, reason 13). -/
def refuseImage (s : State) (v : Saved) : State :=
  let s := { s with saved := s.saved.filter (fun u => u.ctx.cid != v.ctx.cid) }
  let rid := v.ctx.region
  let ident := match readImg s v.asid v.img with
    | some (_, img) => imgIdent s img
    | none => 0
  let s := unreserve s v.asid v.img
  let s := containRest s v.ctx v.name { reason := 13, aux := v.img, ident := some ident } none
  applyPolicy s rid

/-- The scheduler resumes an image of STATE 1 (R301, R302). -/
def schedResume (s : State) (v : Saved) (t : Nat) : State :=
  let s := touchImg s v.asid v.img
  match readImg s v.asid v.img with
  | none => refuseImage s v
  | some (key, img) => match imageCtx s v img with
    | none => refuseImage s v
    | some c => resumeIn s v key t c

/-- TASK_DISPATCH (R17, R33, R258, R324, R325): a free slot takes work. -/
def execTaskDispatch (slot : Nat) (s : State) : Host.Outcome State Fault Refusal :=
  .next (match workFor s slot with
    | none => s
    | some (_, .image v) => schedResume s v slot
    | some (r, i) => startTask s slot r i)

/-! The share arbiter (R323). -/

/-- The weight of a share queue: that of the live regions that map to it. -/
def queueWeight (s : State) (q : Nat) : Nat :=
  ((s.regions.filter (fun e => e.2.live && e.2.shq == q)).map (fun e => e.2.weight)).sum

/-- The active queues of a die. -/
def activeQueues (s : State) (die : Nat) : List Nat :=
  (List.range 16).filter (fun q => s.regions.any (fun e => e.2.shq == q && hasWork s e.2 die))

/-- Slots shared out by weight, the rest by largest remainder, ties to the lower queue. -/
def shareTargets (n : Nat) (ws : List (Nat × Nat)) : List (Nat × Nat) :=
  let w := (ws.map (·.2)).sum
  let base := ws.map (fun e => (e.1, n * e.2 / w))
  let left := n - (base.map (·.2)).sum
  let order := sortBy (fun (a b : Nat × Nat) => decide (b.2 < a.2) || (a.2 == b.2 && decide (a.1 ≤ b.1)))
    (ws.map (fun e => (e.1, n * e.2 % w)))
  let more := (order.take left).map (·.1)
  base.map (fun e => (e.1, e.2 + if more.contains e.1 then 1 else 0))

/-- The value of a queue in a list of counts. -/
def countOf (l : List (Nat × Nat)) (q : Nat) : Nat := (Tab.get? l q).getD 0

/-- The queue that is furthest below its target, ties to the lower queue. -/
def neediest (target have' : List (Nat × Nat)) : Option Nat :=
  (target.foldl (fun (b : Option (Nat × Nat)) e =>
    let gap := e.2 - countOf have' e.1
    match b with
    | none => if 0 < gap then some (e.1, gap) else none
    | some (_, g) => if g < gap then some (e.1, gap) else b) none).map (·.1)

/-- The owners of a cluster's free slots after one share interval. -/
def shareCluster (s : State) (clus : Nat) (act : List Nat) : State :=
  let names := (List.range 256).map (fun i => clus * 256 + i)
  let loose := names.filter (fun t => !(s.slot t).fixed)
  let ws := act.map (fun q => (q, queueWeight s q))
  let ws := if (ws.map (·.2)).sum = 0 then act.map (fun q => (q, 1)) else ws
  let target := shareTargets loose.length ws
  let have0 := (List.range 16).map (fun q => (q, (loose.filter (fun t => (s.slot t).owner.toNat == q)).length))
  (loose.foldl (fun (acc : State × List (Nat × Nat)) t =>
    let (s, have') := acc
    let sl := s.slot t
    let o := sl.owner.toNat
    if sl.ctx.isSome || sl.scrub || decide (s.clock < sl.freed) then (s, have')
    else if !act.contains o || decide (countOf target o < countOf have' o) then
      match neediest target have' with
      | none => (s, have')
      | some q => (s.setSlot t { sl with owner := BitVec.ofNat 4 q },
          have'.map (fun e => if e.1 = o then (e.1, e.2 - 1) else if e.1 = q then (e.1, e.2 + 1) else e))
    else (s, have')) (s, have0)).1

/-! Pre-emption (R326). -/

/-- Whether a free slot of a region's queue stands on a die. -/
def queueHasSlot (s : State) (q die : Nat) : Bool :=
  (List.range 4096).any (fun i => slotFree s (die * 4096 + i) && (s.slot (die * 4096 + i)).owner.toNat == q)

/-- The contexts of a die that a region of a priority may pre-empt, with their regions. -/
def victims (s : State) (die prio : Nat) : List (Nat × Ctx × Region) :=
  s.slots.filterMap (fun e => match e.2.ctx with
    | none => none
    | some c => match s.region? c.region with
      | none => none
      | some r =>
        if nameDie e.1 = die ∧ r.prio < prio ∧ !r.novict ∧ c.save.isNone ∧ c.doom.isNone ∧ c.mig.isNone ∧ !r.noSave.contains die ∧
            (freeImg s r r.nsave 0).isSome then some (e.1, c, r) else none)

/-- The start of a context's task. -/
def startOf (s : State) (c : Ctx) : Nat := match Tab.get? s.tasks c.task with
  | some t => t.start
  | none => 0

/-- The victim of a choice: the lowest PRIO, then the latest start, then the lowest name. -/
def victimOf (s : State) (l : List (Nat × Ctx × Region)) : Option (Nat × Ctx × Region) :=
  l.foldl (fun b e => match b with
    | none => some e
    | some v =>
      let better := e.2.2.prio < v.2.2.prio ∨ (e.2.2.prio = v.2.2.prio ∧
        (startOf s v.2.1 < startOf s e.2.1 ∨ (startOf s e.2.1 = startOf s v.2.1 ∧ e.1 < v.1)))
      if better then some e else b) none

/-- Up to `n` victims taken for a region. -/
def takeVictims (s : State) (die : Nat) (p : Region) : Nat → State
  | 0 => s
  | n + 1 => match victimOf s (victims s die p.prio) with
    | none => s
    | some (t, c, r) => match freeImg s r r.nsave 0 with
      | none => s
      | some va => takeVictims (askSave s t c ⟨va, 1, none, some (BitVec.ofNat 4 p.shq), false, s.clock⟩) die p n

/-- The pre-emptions of a die at a share interval. -/
def preemptDie (s : State) (die : Nat) : State :=
  (topPrio ((s.regions.map (·.2)).filter (fun r => !r.nopre && hasWork s r die))).foldl (fun s p =>
    if queueHasSlot s p.shq die then s
    else
      let g := (grantedTasks s p.id die).length
      takeVictims s die p (g + min (boundedWork s p die) (p.mslot - liveCount s p.id die))) s

/-- SHARE_INTERVAL (R24, R258, R323, R326, R383). -/
def execShareInterval (s : State) : Host.Outcome State Fault Refusal :=
  let s : State := { s with regions := s.regions.map (fun (e : Nat × Region) =>
    (e.1, { e.2 with noSave := [], stuck := e.2.stuck.map (fun k => (k.1, k.2.1, k.2.2.1, false)) })) }
  let dies := (List.range 4).filter (fun d => !s.halted d)
  let s := dies.foldl (fun s die =>
    let act := activeQueues s die
    if act.isEmpty then s
    else (List.range 16).foldl (fun s i => shareCluster s (die * 16 + i) act) s) s
  let s := dies.foldl preemptDie s
  .next (s.timer ((s.clock / 4096 + 1) * 4096) .shareInterval)

/-! Scrub. -/

/-- A context of a core that leaves the logical core map: saved with STATE 1, or killed where R36 ties it to the core
or no image slot is free (R368). -/
def evict (s : State) (t : Nat) : State :=
  match (s.slot t).ctx with
  | none => s
  | some c =>
    if c.save.isSome then s
    else
      let tied := bit c.gstat 16 ||
        (List.range 8).any (fun d => (bit c.j d || bit c.o d) && bits (c.d.getD d 0) 63 60 == 1)
      let r := s.regionOf c
      match (if tied then none else freeImg s r r.nsave 0) with
      | some va => askSave s t c ⟨va, 1, none, none, false, s.clock⟩
      | none => kill s c.cid { reason := 1, cause := 0x0D, epc := c.pc, lpc := c.pc }

/-- A core leaves the logical core map (R368): its contexts leave it, its slots take none from then on, and the event
is sent. -/
def retireCore (s : State) (core : Nat) : State :=
  let s := s.setCore core { s.core core with present := false }
  let s := (List.range 16).foldl (fun s i => evict s (core * 16 + i)) s
  s.event { type := 7, die := core / 256, source := wd (physCore core), val := 0 }

/-- SLOT_SCRUB_DONE (R303 steps 3 and 4): a mismatch removes the core. -/
def execSlotScrubDone (slot : Nat) (ok : Bool) (s : State) : Host.Outcome State Fault Refusal :=
  let sl := s.slot slot
  .next (if !sl.scrub then s
    else
      let s := s.setSlot slot { sl with scrub := false, scrubOf := 0, freed := s.clock + 1 }
      if ok then s else retireCore s (nameCore slot))

end Sys2Proof.Machine
end

