-- ==== Sys2Proof/Machine/Claims.lean ====
section
/-! DEFINITION. Claim sweeps (R46, R50, R54, R55), claim requests at their home XU (R42, R51, R284), and POSTs that
arrive there (R56). -/

namespace Sys2Proof.Machine

/-! Sweeps. -/

/-- A sweep ends without running its task (R46, R60): its claims go, its element returns to idle, and the fault is
reported and answered by the region's policy. -/
def failSweep (s : State) (w : Sweep) (reason : Nat) (aux val : Word) : State :=
  let again := againOf s (some w)
  let s := endRun (dropSweep s w) { w with killed := true }
  let s := writeFault s w.region
    { reason, cause := if reason = 7 then 0x0E else 0, aux, val, again, sys := w.scope s == 3, coord := wd (s.node.toNat * 2 ^ 48 + w.elem) }
  checkDone (applyPolicy s w.region) w.region

/-- The next request of a sweep; an element of a package that is lost ends it (R60), and so does one of a package that is not
present (R42, R46). -/
def askNext (s : State) (w : Sweep) : State :=
  match w.set[w.next]? with
  | none => s
  | some m => match absentCode s (idNode m.1) with
    | none => sendReq s w
    | some code => if code = 6 then failSweep s w 7 (wd (idNode m.1).toNat) 0 else failSweep s w 5 m.1 0

/-- Whether a pending element's region lets its sweep start on a die (R55, R325, R373). -/
def mayStart (s : State) (die : Nat) (g : Group) (i : Nat) : Bool :=
  entryDie g.key i == die && (match s.region? (g.entry i).pendRegion with
    | some r => r.live && r.halted == 0 && !r.still && decide (liveCount s r.id die < r.mslot)
    | none => false)

/-- The pending element whose turn it is on a die, with its place in the pending order: none while its XU's 4,096
waiters are in use (R54) or the die is under debug halt (R383). -/
def nextPending (s : State) (die : Nat) : Option (Nat × GroupKey × Nat) :=
  if s.halted die || decide (4096 ≤ (s.sweeps.filter (fun e => e.2.die == die && !e.2.granted)).length) then none
  else (s.groups.flatMap (fun g => (g.pending.filter (fun p => mayStart s die g p.2)).map (fun p => (p.1, g.key, p.2)))).foldl
    (fun b e => match b with
      | none => some e
      | some f => if e.1 < f.1 then some e else b) none

/-- CLAIM_SWEEP_START (R46, R50, R55): the walk of the claim set is made, and the first request is sent. -/
def execClaimSweepStart (die : Nat) (s : State) : Host.Outcome State Fault Refusal :=
  .next (match nextPending s die with
    | none => s
    | some (n, k, i) => match s.grp? k with
      | none => s
      | some g =>
        let e := g.entry i
        let s := setEntry s k i { e with pend := false, run := true }
        let s := s.modGrp k (fun g => { g with pending := g.pending.filter (·.1 != n) })
        let (id, s) := s.fresh
        let w : Sweep := { id, die, region := e.pendRegion, elem := i, grp := k, set := [], next := 0, granted := false,
                           dispatched := false, again := e.wasAgain, killed := false, stamp := n }
        let s := touchWalk s g (wd (s.node.toNat * 2 ^ 48 + i))
        match claimSet s g (wd (s.node.toNat * 2 ^ 48 + i)) with
        | .error er => failSweep { s with tick := s.tick + 1 } w er.reason er.aux er.val
        | .ok l =>
          let w := { w with set := l }
          askNext { s with sweeps := Tab.set s.sweeps id w, tick := s.tick + 1 } w)

/-- CLAIM_GRANT_ARRIVAL (R46, R50, R57): the next request is sent, or the task is granted, which is an acquire at its
claim scope. -/
def execClaimGrantArrival (sweep : Nat) (out : ClaimOutcome) (s : State) : Host.Outcome State Fault Refusal :=
  .next (match Tab.get? s.sweeps sweep with
    | none => s
    | some w =>
      if w.granted then s
      else
        let id := ((w.set[w.next]?).map (·.1)).getD 0
        match out with
        | .badIndex => failSweep s w 5 id 0
        | .badEntry va => failSweep s w 5 id va
        | .granted =>
          let w := { w with next := w.next + 1, granted := w.next + 1 == w.set.length }
          let s := { s with sweeps := Tab.set s.sweeps sweep w }
          if w.granted then acquireMark s (.thread sweep) (w.scope s) none else askNext s w)

/-! Requests at their home XU. -/

/-- A group of which no region has been live. -/
def Group.new (k : GroupKey) : Group where
  key := k
  live := 0
  ever := false
  offs := 0
  ids := 0
  count := 0
  kind := 0
  rad := 0
  nx := 0
  ny := 0
  nz := 0
  entries := []
  pending := []
  deferred := []
  heldReq := []

/-- The group of a key, made where the XU meets its table for the first time (R284). -/
def knownGroup (s : State) (k : GroupKey) : State :=
  match s.grp? k with
  | some _ => s
  | none => { s with groups := s.groups ++ [Group.new k] }

/-- A claim request at its home XU (R42, R51, R54, R284). -/
def claimArrives (s : State) (r : ClaimReq) : State :=
  let s := knownGroup s r.grp
  match s.grp? r.grp with
  | none => s
  | some g =>
    if g.ever then decideReq s g r else s.modGrp r.grp (fun g => { g with heldReq := g.heldReq ++ [.inl r] })

/-- CLAIM_REQUEST_ARRIVAL (R42, R51). -/
def execClaimRequestArrival (r : ClaimReq) (s : State) : Host.Outcome State Fault Refusal := .next (claimArrives s r)

/-- CLAIM_RELEASE (R51). -/
def execClaimRelease (r : ClaimReq) (s : State) : Host.Outcome State Fault Refusal := .next (releaseReq s r)

/-- Every deferred request with its place. -/
def allDeferred (s : State) : List (Nat × ClaimReq) :=
  sortBy (fun a b => decide (a.1 ≤ b.1)) (s.groups.flatMap (·.deferred))

/-- A deferred request tried again: it keeps its place where it or an earlier one for its entry cannot be admitted. -/
def retryReq (s : State) (n : Nat) (r : ClaimReq) : State :=
  match s.grp? r.grp with
  | none => s
  | some g =>
    let wait := g.deferred.any (fun q => decide (q.1 < n) && q.2.elem == r.elem) || (match judge s (g.entry r.elem) r with
      | .defer => true
      | _ => false)
    if wait then s
    else admitReq (s.modGrp r.grp (fun g => { g with deferred := g.deferred.filter (·.1 != n) })) g r

/-- DEFERRED_REQUEST_ADMIT (R54): in the order of first arrival. -/
def execDeferredRequestAdmit (die : Nat) (s : State) : Host.Outcome State Fault Refusal :=
  .next (((allDeferred s).filter (fun q => entryDie q.2.grp q.2.elem == die)).foldl (fun s q => retryReq s q.1 q.2) s)

/-! POSTs at their home XU. -/

/-- A POST that the home XU discards is reported to the issuing region's fault domain, here or by the reply (R56). -/
def discardPost (s : State) (p : PostMsg) (val : Nat) : State :=
  if p.node = s.node then
    checkDone (writeFault s p.region { reason := 12, aux := p.elem, val := wd val }) p.region
  else s

/-- The home region of a POST (R56): the issuing one if it is live here, else the earliest admitted of the group. -/
def homeRegion (s : State) (p : PostMsg) : Option Nat :=
  let l := (s.regions.map (·.2)).filter (fun r => r.live && r.halted == 0 && r.tsp != 5 && r.grpKey == p.grp)
  match (if p.node = s.node then l.find? (·.id == p.region) else none) with
  | some r => some r.id
  | none => l.head?.map (·.id)

/-- What the home XU does with a POST to a table that has been live since reset, with the VAL of a discard. -/
def admitPost (s : State) (g : Group) (p : PostMsg) : State × Option Nat :=
  if g.count ≤ idIndex p.elem then (discardPost s p 1, some 1)
  else match (if g.live = 0 then none else homeRegion s p) with
    | none => (discardPost s p 2, some 2)
    | some rid => (checkDone (postElem s p.grp (idIndex p.elem) rid) p.region, none)

/-- The reply to a POST of another package: done, or the VAL of its discard (R56). -/
def replyPost (s : State) (p : PostMsg) (seq : BitVec 32) (v : Option Nat) : State :=
  if p.node = s.node then s
  else answerReq s p.node seq (match v with
    | none => .ack
    | some n => .postFail n)

/-- A POST at its home XU (R56, R284): one that is held is answered when it is admitted. -/
def postArrives (s : State) (p : PostMsg) (seq : BitVec 32) : State :=
  let s := knownGroup s p.grp
  match s.grp? p.grp with
  | none => s
  | some g =>
    if g.ever then
      let (s, v) := admitPost s g p
      replyPost s p seq v
    else if g.heldReq.contains (.inr (p, seq)) then s
    else s.modGrp p.grp (fun g => { g with heldReq := g.heldReq ++ [.inr (p, seq)] })

/-- POST_ARRIVAL (R56). -/
def execPostArrival (p : PostMsg) (s : State) : Host.Outcome State Fault Refusal := .next (postArrives s p 0)

end Sys2Proof.Machine
end

