-- ==== Sys2Proof/Machine/Engine.lean ====
section
/-! DEFINITION. Reads and writes by an engine of a cluster (R79, R96, R224), and the completions of its work (R21, R77). -/

namespace Sys2Proof.Machine

/-! Reads and writes by an engine. -/

/-- An engine's work begins with the floor of the thread that hands it over (R79). -/
def engineStart (s : State) (eng cid : Nat) : State :=
  { s with hist := s.hist.map (fun r =>
      if r.seen.contains (.thread cid) then { r with seen := .engine eng :: r.seen } else r) }

/-- The stores of a thread made up to a place in its program order are behind the floor of its engine's work. -/
def engineSees (s : State) (eng cid seq : Nat) : State :=
  { s with hist := s.hist.map (fun r =>
      if r.auth.contains (.thread cid) && decide (r.seq ≤ seq) && !r.seen.contains (.engine eng) then
        { r with seen := .engine eng :: r.seen } else r) }

/-- How many of the newest stores to these bytes a read made as if at a place in a thread's program order passes
over: up to the oldest that the thread made after it. -/
def mustPass (cid seq key n : Nat) : List Record → Nat
  | [] => 0
  | r :: l =>
    if r.meets key n then
      match mustPass cid seq key n l with
      | 0 => if r.auth.contains (.thread cid) && decide (seq < r.seq) then 1 else 0
      | k + 1 => k + 2
    else mustPass cid seq key n l

/-- A weak read by an engine as if at a place in a thread's program order; a free value picks among the stores
allowed (log 6). -/
def engineRead (s : State) (a : Agent) (own : Option (Nat × Nat)) (key n : Nat) (via : Option Via) : Nat × State :=
  let syn := mixed key n via s.hist
  let lo := match own with
    | some (cid, seq) => if syn then 0 else mustPass cid seq key n s.hist
    | none => 0
  let hi := if syn then meeting key n s.hist else max lo (passable a key n s.hist)
  if hi = lo then readPast s a key n lo
  else readPast { s with tick := s.tick + 1 } a key n (lo + Config.weakPick s.tick % (hi - lo + 1))

/-- Who moves bytes, for which ASID, and which addresses it may reach. -/
structure Mover where
  agent : Agent
  own : Option (Nat × Nat)
  asid : BitVec 16
  place : Word → Nat → Option Place

/-- How many of `n` bytes at a VA pass a test, up to the first that does not. -/
def leading (p : Word → Bool) (va : Word) (n : Nat) : Nat :=
  ((List.range n).find? (fun i => !p (va + wd i))).getD n

/-- Why an engine's access fails: the address itself, memory held by the XU, or its home. -/
inductive Miss where
  | place | xu | home (b : Bad)
  deriving DecidableEq, Repr

/-- The status of a copy whose source or destination fails (Table 11.4). -/
def Miss.status (dst : Bool) : Miss → Nat
  | .place => 4
  | .xu => 5
  | .home (.poison _) => 6
  | .home _ => if dst then 3 else 2

/-- The bytes of a run read word by word (R79), and why and where it fails. -/
def readBurst (v : Mover) : Nat → Word → Nat → List Byte → State → List Byte × Option (Miss × Word) × State
  | 0, _, _, acc, s => (acc, none, s)
  | fuel + 1, va, n, acc, s =>
    if n = 0 then (acc, none, s)
    else
      let g := leading (fun a => (v.place a 1).isSome) va (min n (8 - va.toNat % 8))
      match (if g = 0 then none else v.place va g) with
      | none => (acc, some (.place, va), s)
      | some p => match resolve s v.asid p va g .r with
        | (.error b, s) => (acc, some (.home b, va), b.note s)
        | (.ok key, s) =>
          let (w, s) := engineRead s v.agent v.own key g (viaOf s v.asid va)
          readBurst v fuel (va + wd g) (n - g) (acc ++ toBytes g w) s

/-- The bytes of a run written word by word: how many, and where it fails; none where a pinned line holds it up
(R81). -/
def writeBurst (v : Mover) (seq : Nat) : Nat → Word → List Byte → Nat → State → Option (Nat × Option (Miss × Word) × State)
  | 0, _, _, n, s => some (n, none, s)
  | fuel + 1, va, bs, n, s =>
    if bs.isEmpty then some (n, none, s)
    else
      let g := leading (fun a => (v.place a 1).isSome) va (min bs.length (8 - va.toNat % 8))
      let h := leading (fun a => !heldByXu s v.asid a 1) va g
      match (if g = 0 then none else v.place va (max h 1)) with
      | none => some (n, some (.place, va), s)
      | some p =>
        if h = 0 then some (n, some (.xu, va), s)
        else match resolve s v.asid p va h .w with
          | (.error b, s) => some (n, some (.home b, va), b.note s)
          | (.ok key, s) =>
            if pinned s key h then none
            else writeBurst v seq fuel (va + wd h) (bs.drop h) (n + h) (s.store key (bs.take h) v.agent seq none (viaOf s v.asid va))

/-- The words of a run, with the bytes of each that `n` bytes at a VA cover. -/
def coverWords (va : Word) (n : Nat) : List (Nat × Nat) :=
  (List.range ((va.toNat % 8 + n + 7) / 8)).map (fun i =>
    let w := va.toNat / 8 + i
    (w, ((List.range 8).filter (fun b => decide (va.toNat ≤ 8 * w + b) && decide (8 * w + b < va.toNat + n))).foldl
      (fun m b => m + 2 ^ b) 0))

/-- The words of a copy's destination that `n` more bytes at a VA make whole (R72), and the bytes of the others. -/
def coverRun (cov : List (Nat × Nat)) (va : Word) (n : Nat) : List (Nat × Nat) × List Word :=
  (coverWords va n).foldl (fun acc e =>
    let m := Nat.lor ((Tab.get? acc.1 e.1).getD 0) e.2
    if m = 255 then (Tab.erase acc.1 e.1, acc.2 ++ [wd (8 * e.1)]) else (Tab.set acc.1 e.1 m, acc.2)) (cov, [])

/-- The VA window and the checks of R68 for an address on a named package. -/
def remotePlace (va : Word) (n : Nat) : Option Place :=
  if bits va 55 48 = 0xFE ∧ bits va 47 40 = 0xFF then none else placeWith (fun lv _ => lv != 0) 0 va n

/-- The key of an 8-byte word that the device itself writes for a region's thread of a core. -/
def ownKey (s : State) (r : Region) (core : Nat) (va : Word) : Option Nat :=
  match place r core va 8 with
  | none => none
  | some (.arr k) => if storePoisoned s k 8 then none else some k
  | some (.ord _) => devKey s r.asid va true

/-- What such a write does beside (R337, R359). -/
def touchOwn (s : State) (r : Region) (core : Nat) (va : Word) : State :=
  match place r core va 8 with
  | some (.ord _) => touch s r.asid va true
  | _ => s

/-- The identity word of a context wherever it is; 0 where it is gone. -/
def ctxIdent (s : State) (cid : Nat) : Word :=
  match s.slotOf cid with
  | some t => identWord s t (s.slot t).inc
  | none => match s.saved.find? (·.ctx.cid == cid) with
    | some v => identWord s v.name v.ctx.inc
    | none => 0

/-- The coordinate of a context wherever it is. -/
def ctxCoord (s : State) (cid : Nat) : Word :=
  match s.findCtx cid with
  | some c => coordOf s c
  | none => 0

/-- The latest store marked as the completion of an engine, which a thread that reads it has observed (R88). -/
def tellLast (s : State) (a : Agent) : State :=
  { s with hist := match s.hist with
      | r :: l => { r with tells := some a } :: l
      | [] => [] }

/-- The completion on a counter (R21) by an agent that stands at `core`: the release and the AMODEC, and whether the word
held 0; none where the counter cannot be written. -/
def onCounter (s : State) (asid : BitVec 16) (a : Agent) (core : Option Nat) (va : Word) : Option (Bool × State) :=
  if va.toNat % 8 ≠ 0 then none
  else match devTry s asid va true, devRead s asid va with
    | .ok key, .ok old =>
      let s := releaseMark s a ⟨2, core⟩
      some (old == 0, tellLast (s.store key (toBytes 8 (amoNew 12 (wd old) 0 0).toNat) a 0 (some ⟨2, core⟩)) a)
    | _, _ => none

/-- What an access to a counter does beside (R337, R359). -/
def touchCounter (s : State) (asid : BitVec 16) (va : Word) : State := touch (touch s asid va true) asid va false

/-- The matrix schedulers look at their records again. -/
def dueRecords (s : State) : State :=
  (List.range 4).foldl (fun s d =>
    if s.records.any (fun m => m.die == d && m.state == .waiting) && !s.agenda.contains (.matrixRecordIssue d) then
      s.due (.matrixRecordIssue d) else s) s

/-- The record of an engine's error in its region's fault domain, with the thread that handed the work over. -/
def engineRecord (s : State) (region cid : Nat) (reason : Nat) (aux val : Word) : State :=
  writeFault s region { reason, aux, val, ident := ctxIdent s cid, coord := ctxCoord s cid }

/-- A tag completes (R77). -/
def completeTag (s : State) (cid tag eng : Nat) (failed : Bool) : State :=
  s.modCtx cid (fun c => { c with
    te := if failed then setBit c.te tag true else c.te
    cb := setBit c.cb tag true
    tags := setBit c.tags tag false
    done := c.done ++ [(tag, eng)] })

end Sys2Proof.Machine
end

