-- ==== Sys2Proof/Machine/Admission.lean ====
section
/-! DEFINITION. The admission of regions (R48, R317, R319 to R321) and their completion (R20, R327). -/

namespace Sys2Proof.Machine

/-! The effective RCB (R317). -/

/-- The field groups of Table 20.2: an override bit, and the fields (word, high bit, low bit) it governs. -/
def rcbGroups : List (Nat × List (Nat × Nat × Nat)) :=
  [(0, [(0, 63, 0)]), (1, [(1, 46, 44), (2, 59, 0), (3, 63, 0)]),
   (2, [(1, 43, 42), (4, 63, 0), (5, 63, 0), (6, 63, 0)]), (3, [(7, 63, 0)]), (4, [(8, 63, 0)]), (5, [(9, 15, 0)]),
   (6, [(9, 31, 16)]), (7, [(9, 47, 32)]), (8, [(9, 63, 48)]), (9, [(10, 63, 0)]), (10, [(11, 31, 0)]),
   (11, [(11, 52, 48)]), (12, [(1, 59, 56)]), (13, [(1, 55, 48)]), (14, [(1, 41, 40)]), (15, [(1, 39, 38)]),
   (16, [(1, 47, 47)]), (17, [(1, 37, 36)]), (18, [(12, 63, 0), (13, 39, 0)]), (19, [(14, 63, 0), (15, 63, 0)]),
   (20, [(16, 63, 0)]), (21, [(17, 63, 0), (18, 31, 0)]), (22, [(19, 63, 0), (18, 37, 32)]),
   (23, [(20, 63, 0), (21, 63, 0), (22, 63, 0), (23, 63, 0)]), (24, [(24, 63, 0)]), (25, [(25, 63, 0)]),
   (26, [(1, 35, 32)])]

/-- The fields of a child: the parent's, but for the groups that its own OVR names. -/
def inheritRcb (own parent : Vector Word 32) : Vector Word 32 :=
  rcbGroups.foldl (fun v g =>
    if bit (own.getD 1 0) g.1 then v
    else g.2.foldl (fun (v : Vector Word 32) f =>
      v.set! f.1 (setBits (v.getD f.1 0) f.2.1 f.2.2 (bits (parent.getD f.1 0) f.2.1 f.2.2))) v) own

/-- The reserved fields of Table 20.1. -/
def rcbReserved : List (Nat × Nat × Nat) :=
  [(1, 63, 60), (2, 63, 60), (11, 63, 53), (11, 47, 32), (13, 63, 40), (18, 63, 38), (20, 63, 51), (20, 31, 18),
   (21, 63, 45), (21, 31, 12), (22, 63, 55), (22, 31, 22), (23, 63, 59), (23, 31, 26), (24, 62, 48), (24, 31, 22),
   (26, 63, 0), (27, 63, 0), (28, 63, 0), (29, 63, 0), (30, 63, 0), (31, 63, 0)]

/-! The checks (R320, Table 20.4). -/

/-- The extents of a tile space or grid. -/
def Region.extents (r : Region) : Nat × Nat × Nat := (r.f 2 19 0 + 1, r.f 2 39 20 + 1, r.f 2 59 40 + 1)

/-- How many elements a region's task space has on this package (R44, Table 3.5). -/
def Region.elems (r : Region) : Nat :=
  if r.tsp = 0 then (r.w 3).toNat else r.extents.1 * r.extents.2.1 * r.extents.2.2

/-- Code 3 but for the reserved fields: values and ranges of Table 20.1, and the fault domain's FRLOG (R318). -/
def badFields (s : State) (r : Region) : Bool :=
  decide (5 < r.tsp) || r.fpol == 3 || r.migp == 3 ||
  decide (r.mslot < 1 ∨ 4096 < r.mslot) || decide (r.d1w < 1 ∨ 8192 < r.d1w) || decide (r.nstk < 1) ||
  decide (r.stksz = 0 ∨ r.stksz % 65536 ≠ 0) || decide (16 < r.f 11 52 48) || decide (20 < r.frlog) ||
  decide (r.quota % 256 ≠ 0) || (r.ofv && decide (r.ofw < 1 ∨ 8192 < r.ofw)) ||
  (decide (1 ≤ r.tsp ∧ r.tsp ≤ 4) && decide (2 ^ 32 < r.elems)) ||
  (decide (r.tsp ≤ 4) && r.ctab == 0) ||
  (r.fring != 0 && s.regions.any (fun e => e.2.live && e.2.asid == r.asid && e.2.fring == r.fring && e.2.frlog != r.frlog))

/-- Code 4. -/
def misaligned (r : Region) : Bool :=
  [(0, 2), (4, 64), (12, 128), (14, 65536), (17, 4096), (19, 64), (25, 8)].any (fun e => decide ((r.w e.1).toNat % e.2 ≠ 0)) ||
    decide (r.ofb % 8 ≠ 0)

/-- Code 6. -/
def badAllocs (r : Region) (parent : Option Region) : Bool :=
  (List.range 4).any (fun lv =>
    let (n, b) := r.alloc lv
    decide ([2 ^ 18, 2 ^ 12, 2 ^ 22, 2 ^ 26].getD lv 0 < b + n) || (match parent with
      | some p => decide (0 < n) && !inAlloc (p.alloc lv) b n
      | none => false)) ||
    (r.ofv && !inAlloc (r.alloc 2) r.ofb (8 * r.ofw))

/-- The first five header words that a region's RCB stands for (Table 3.5). -/
def Region.header (r : Region) : List Word :=
  [if r.tsp = 0 then r.w 5 else 0, if r.tsp = 0 then r.w 6 else 0, wd r.elems, wd (r.tsp * 4 + r.rad), wd (r.f 2 59 0)]

/-- The header that a launch finds in memory, and its LIVE; none where the header cannot be read (R48). -/
def foundHeader (s : State) (r : Region) : Option (List Word × Nat) :=
  match devWords s r.asid 8 r.ctab with
  | .error _ => none
  | .ok l => some (l.take 5, (l.getD 5 0).toNat)

/-- Whether every page from a VA on is mapped and writable. -/
def pagesOk (s : State) (asid : BitVec 16) : Nat → Word → Bool
  | 0, _ => true
  | n + 1, va => (devKey s asid va true).isSome && pagesOk s asid n (va + 65536)

/-- Codes 11 and 8. -/
def tableCode (s : State) (r : Region) : Option Nat :=
  if r.tsp = 5 then none
  else match foundHeader s r with
    | none => some 11
    | some (h, live) =>
      if live = 0 then
        let base := r.ctab.toNat / 65536 * 65536
        if pagesOk s r.asid ((r.ctab.toNat + 64 + 8 * r.elems + 65535) / 65536 - base / 65536) (wd base) then none else some 11
      else if h = r.header then none else some 8

/-- Code 9. -/
def frameCode (s : State) (r : Region) : Bool :=
  r.ofv && (List.range 64).any (fun cl =>
    let t := (s.ftab cl).toList
    t.all (·.live) || t.any (fun e => e.live && e.kind == 2 && e.base == r.ofb))

/-- The first check that fails, in the order of Table 20.4 after code 10. -/
def refusal (s : State) (l : Launch) (own : Vector Word 32) (r : Region) (parent : Option Region) : Option Nat :=
  let child := parent.isSome
  if (match parent with
    | some p => p.level == 7
    | none => false) then some 1
  else if l.bad then some 2
  else if rcbReserved.any (fun f => bits (own.getD f.1 0) f.2.1 f.2.2 != 0) || (child && bits (own.getD 1 0) 31 27 != 0) ||
      badFields s r then some 3
  else if misaligned r then some 4
  else if r.sup && child && l.user then some 5
  else if badAllocs r parent then some 6
  else if 1024 ≤ (s.regions.filter (·.2.live)).length then some 7
  else match tableCode s r with
    | some c => some c
    | none => if frameCode s r then some 9 else none

/-! The effects (R48, R321, R367). -/

/-- A word written by the device where it can be. -/
def devPut (s : State) (asid : BitVec 16) (va w : Word) : State :=
  match devKey s asid va true with
  | some k => s.store k (toBytes 8 w.toNat) .device 0 pkgMark
  | none => s

/-- LIVE of a group changed, in the unit and in its header. -/
def putLive (s : State) (k : GroupKey) (n : Nat) : State :=
  devPut (s.modGrp k (fun g => { g with live := n })) k.asid (k.ctab + 0x28) (wd n)

/-- A group with its header fields from a region. -/
def Group.fill (g : Group) (r : Region) : Group :=
  { g with ever := true, offs := r.header.getD 0 0, ids := r.header.getD 1 0, count := r.elems, kind := r.tsp, rad := r.rad,
           nx := r.extents.1, ny := r.extents.2.1, nz := r.extents.2.2 }

/-- A held item admitted (R284). -/
def admitHeld (s : State) (k : GroupKey) (h : Sum ClaimReq (PostMsg × BitVec 32)) : State :=
  match s.grp? k with
  | none => s
  | some g => match h with
    | .inl r => decideReq s g r
    | .inr (p, seq) =>
      let (s, v) := admitPost s g p
      replyPost s p seq v

/-- Uncorrectable data among `n` words from a VA reported (R359). -/
def noteWords (s : State) (asid : BitVec 16) (n : Nat) (va : Word) : State :=
  (List.range n).foldl (fun s i => match devTry s asid (va + wd (8 * i)) false with
    | .error b => b.note s
    | .ok _ => s) s

/-- The claim table of an admitted region made live (R48), held items admitted first (R284). -/
def openTable (s : State) (r : Region) : State :=
  match foundHeader s r with
  | none => s
  | some (_, live) =>
    let k := r.grpKey
    let s := knownGroup s k
    if live = 0 then
      let held := match s.grp? k with
        | some g => g.heldReq
        | none => []
      let s := ((r.header ++ [0, 0, 0]).zipIdx).foldl (fun s (e : Word × Nat) => devPut s r.asid (r.ctab + wd (8 * e.2)) e.1) s
      let s := (List.range r.elems).foldl (fun s i => devPut s r.asid (entryVa k i) 0) s
      let s := s.modGrp k (fun g => { g.fill r with entries := [], pending := [], heldReq := [] })
      held.foldl (fun s h => admitHeld s k h) (putLive s k 1)
    else putLive (s.modGrp k (fun g => g.fill r)) k (live + 1)

/-- The region's outer frame opened in every cluster. -/
def openFrames (s : State) (r : Region) : State :=
  if !r.ofv then s
  else (List.range 64).foldl (fun s cl =>
    match (s.ftab cl).toList.findIdx? (fun e => !e.live) with
    | none => s
    | some i => s.modEntry cl i (fun e =>
        { e with live := true, kind := 2, core := 0, base := r.ofb, size := 8 * r.ofw, count := 0, orel := false })) s

/-- A scan ends (R366): HELD is cleared, what the pattern overwrote is zero and invalid, and the event is sent. -/
def stopScan (s : State) (core ty : Nat) : State :=
  let s := s.setCore core { s.core core with
    scan := none, s := Vector.replicate 8 0, sWrites := [], icache := [] }
  let s := (List.range 16).foldl (fun s i =>
    s.setSlot (core * 16 + i) { s.slot (core * 16 + i) with held := false, xchg0 := none, xchg1 := none }) s
  let l := s.timers.filter (fun e => match e.2 with
    | .scanEnd k _ => k != core
    | _ => true)
  let s : State := { s with timers := l, agenda := s.agenda.filter (· != .scanStart core) }
  s.event { type := ty, die := core / 256, source := wd (physCore core) }

/-- Scans in progress stop where a region of a higher priority than SCANPRI is admitted (R367). -/
def stopScans (s : State) (prio : Nat) : State :=
  if prio ≤ s.scanpri.toNat then s
  else s.cores.foldl (fun s c => if c.2.scan.isSome then stopScan s c.1 6 else s) s

/-- A region made live on all four dies (R321). -/
def goLive (s : State) (r : Region) : State :=
  let r := { r with tiles := if r.tsp = 5 then Vector.ofFn (fun d : Fin 4 => tileTotal r d.val) else Vector.replicate 4 0 }
  let s : State := { s with regions := Tab.set s.regions r.id r }
  let s := if r.tsp = 5 then s else openTable s r
  let s := openFrames s r
  let s := if r.tsp = 5 then s else (List.range r.elems).foldl (fun s i => postElem s r.grpKey i r.id) s
  checkDone (stopScans s r.prio) r.id

/-- The region that a launch would admit, under a number. -/
def launchRegion (s : State) (l : Launch) (id : Nat) : Region :=
  let own := l.rcb.getD (Vector.replicate 32 0)
  let parent := l.parent.bind s.region?
  { Region.blank with
    id, asid := l.asid, rcbva := l.rcbva, live := true, parent := l.parent, cookie := l.cookie
    rcb := match parent with
      | some p => inheritRcb own p.rcb
      | none => own
    level := match parent with
      | some p => p.level + 1
      | none => 0
    still := match parent with
      | some p => p.still
      | none => false }

/-- A launch refused with its code, or admitted (R320); a header that is uncorrectable is reported (R359). -/
def admitRegion (s : State) (l : Launch) : Nat × State :=
  let own := l.rcb.getD (Vector.replicate 32 0)
  let (id, s1) := s.fresh
  let r := launchRegion s l id
  match refusal s l own r (l.parent.bind s.region?) with
  | some c => (c, if c = 11 then noteWords s r.asid 8 r.ctab else s)
  | none => (0, goLive s1 r)

/-! Outcomes. -/

/-- The outcome of a launch queue entry written, and the head advanced (R319). -/
def queueOutcome (s : State) (i code : Nat) : State :=
  let h := s.host
  let at' := h.lqbase.toNat + 32 * (i % h.lqsize) + 16
  let s : State := { s with
    hostMem := Mem.writeN s.hostMem at' (toBytes 8 (2 ^ 63 + code % 256))
    host := { h with lqhead := h.lqhead + 1 } }
  if s.host.lqhead = s.host.lqtail then s else s.due .launchQueueEntry

/-- The RCB of a launch, as the device reads it; none where it cannot be read. -/
def readRcb (s : State) (l : Launch) : Option (Vector Word 32) :=
  match devWords s l.asid 32 l.rcbva with
  | .ok ws => some (Vector.ofFn (fun i : Fin 32 => ws.getD i.val 0))
  | .error _ => none

/-- A LAUNCH completes once its RCB has been read: its destination waits for the code (R187). -/
def launched (s : State) (l : Launch) : State :=
  match l.cid with
  | none => s
  | some cid => match s.findCtx cid with
    | none => s
    | some c => if c.got.any (·.1 == launchPos) then s else finishCtx s cid (fun c => c.awaitReg l.reg.val)

/-- REGION_ADMISSION (R187, R319, R320): the device first reads the RCB, unless the tree is stilled (R373), and then checks
and admits or refuses; each waits while an engine owns a line of what it reads or writes (R79, R96). -/
def execRegionAdmission (id : Nat) (s : State) : Host.Outcome State Fault Refusal :=
  .next (match Tab.get? s.launches id with
    | none => s
    | some l => match l.rcb with
      | none =>
        if (match l.parent.bind s.region? with
          | some p => p.still
          | none => false) then s.due (.regionAdmission id)
        else if anyOwns s l.asid l.rcbva 256 then s.due (.regionAdmission id)
        else
        let s := touchWords s l.asid 32 l.rcbva
        let ws := readRcb s l
        let l' : Launch := { l with rcb := some (ws.getD (Vector.replicate 32 0)), bad := ws.isNone }
        (launched { s with launches := Tab.set s.launches id l' } l).dueBy
          (s.clock + (if l.cid.isSome then 3000 else 10000)) (.regionAdmission id)
      | some _ =>
        let r := launchRegion s l 0
        if r.tsp != 5 && tableOwned s r.asid r.ctab r.elems r.tsp (r.w 5) (r.w 6) then s.due (.regionAdmission id)
        else
        let (code, s) := admitRegion { s with launches := Tab.erase s.launches id } l
        let s := match l.parent with
          | some p => checkDone s p
          | none => s
        match l.cid, l.entry with
        | some cid, _ => s.dueBy (s.clock + 3000) (.launchResult cid l.reg code)
        | none, some i => queueOutcome s i code
        | none, none => s)

/-- LAUNCH_RESULT (R187). -/
def execLaunchResult (cid : Nat) (reg : Fin 64) (code : Nat) (s : State) : Host.Outcome State Fault Refusal :=
  .next (s.modCtx cid (fun c =>
    if c.got.any (·.1 == launchPos) then { c with got := [(loadPos, wd code)], stage := 0 } else c.fillX reg (wd code)))

/-! Completion (R327). -/

/-- The status that RWAIT gives (Table 9.8). The table has no value for a child that completes with fault records but with no
task isolated, such as those of copies, records or counters: here 0 (DESIGN CHOICE, log 114). -/
def Region.status (r : Region) : Nat := if r.halted ≠ 0 then r.halted else if r.faulted then 1 else 0

/-- Completion on the region's counter (R21): its release covers what no other release did. -/
def countRegion (s : State) (r : Region) : State :=
  if r.cntva = 0 then s
  else
  let s := if r.cntva.toNat % 8 = 0 then touchCounter s r.asid r.cntva else s
  match onCounter (r.loose.foldl (fun s a => releaseMark s a ⟨2, none⟩) s) r.asid .device none r.cntva with
    | none => writeFault s r.id { reason := 11, aux := 1, val := r.cntva }
    | some (under, s) => if under then writeFault s r.id { reason := 11, aux := 0, val := r.cntva } else s

/-- LIVE of the region's group decremented (R48). -/
def closeTable (s : State) (r : Region) : State :=
  if r.tsp = 5 then s
  else match s.grp? r.grpKey with
    | none => s
    | some g => putLive s r.grpKey (g.live - 1)

/-- The region's outer frame owner-released in every cluster (R163). -/
def closeFrames (s : State) (r : Region) : State :=
  if !r.ofv then s
  else (List.range 64).foldl (fun s cl =>
    match (s.ftab cl).toList.findIdx? (fun e => e.live && e.kind == 2 && e.base == r.ofb) with
    | none => s
    | some i => retireEntry s cl i true) s

/-- REGION_COMPLETE (R20, R327): a region with nothing left of its work, or a halted one; its counter and LIVE are not written
while an engine owns their line or a fetch unit pins it (R79, R81). The event to the host is die 0's (log 103). -/
def execRegionComplete (region : Nat) (s : State) : Host.Outcome State Fault Refusal :=
  .next (match s.region? region with
    | none => s
    | some r =>
      if !r.live || (r.halted == 0 && !regionDone s r) then s
      else if (r.cntva != 0 && heldUp s s.ids r.asid r.cntva 8) ||
          (r.tsp != 5 && heldUp s s.ids r.asid (r.ctab + 0x28) 8) then s.due (.regionComplete region)
      else
        let s := closeFrames (closeTable (countRegion s r) r) r
        let s := s.modRegion region (fun r => { r with live := false })
        match r.parent with
        | some p => checkDone (setEvt s (· == p) 2) p
        | none => s.event { type := 9, die := 0, cookie := r.cookie, source := r.rcbva, val := wd r.status })

end Sys2Proof.Machine
end

