-- ==== Sys2Proof/Machine/Operands.lean ====
section
/-! DEFINITION. Operand forms (R138, Table 8.1), frame operands (R126, R139, R165), addresses (R169, R170) and the
masks and elements of vector operands (R197 to R199). -/

namespace Sys2Proof.Machine

/-! Gangs: what is taken from the leader only (R30). -/

/-- The slot of the leader of the issuing thread's gang; the thread's own where it stands in none. -/
def State.leader (s : State) : Nat :=
  if s.ctx.inGang then ((gangOf s s.cur).find? (fun t => match (s.slot t).ctx with
    | some c => c.gangLead
    | none => false)).getD s.cur
  else s.cur

/-- A reading made as the leader. -/
def asLeader {α : Type} (m : M α) : M α := fun s =>
  match m { s with cur := s.leader } with
  | .ok v s' => .ok v { s' with cur := s.cur }
  | .error e s' => .error e { s' with cur := s.cur }

/-! Frame operands. -/

/-- The VA of a frame slot, with the kind check of R126. -/
def frameVa (c : Ctx) (d slot : Nat) : M Word := do
  let e := c.d.getD (d % 8) 0
  let off := (bits e 47 0 + 8 * slot) % 2 ^ 48
  match bits e 63 60 with
  | 0 => return wd off
  | 1 => return wd (0x00FF000000000000 ||| off)
  | 2 => return wd (0x00FEFF0000000000 ||| off)
  | _ => trap 0x08 e

/-- The checks of an outer frame at the frame table (R165). -/
def checkFrame (c : Ctx) (d slot : Nat) (va : Word) : M Unit := do
  let e := c.d.getD (d % 8) 0
  if bits e 63 60 = 0 then return
  else
    let s ← get
    match matchEntry s s.myClus s.myCore e with
    | none => trap 0x0A 0
    | some i =>
      let fe := (s.ftab s.myClus).getD i {}
      if fe.gen.toNat ≠ bits e 59 48 then trap 0x0A 0
      else if fe.size ≤ 8 * slot then trap 0x0B va
      else return

/-- The address and place of a frame operand after all its checks (R126, R165). -/
def framePlace (d slot : Nat) : M (Word × Place) := do
  let c ← ctx
  let va ← frameVa c d slot
  checkFrame c d slot va
  let p ← checkPlace va 8
  return (va, p)

/-- A weak load from the issuing core's scratchpad or slices, performed at once (R65); none where it goes on its way. -/
def nearLoad (va : Word) (p : Place) (n : Nat) : M (Option Nat) := do
  let s ← get
  let c := s.ctx
  let loc := locOf va p.key
  if atCore s.myCore [p.key] && !c.storesBefore (c.seq + 1) loc n && !c.loadsBefore (c.seq + 1) loc n &&
      !c.strongBefore (c.seq + 1) loc n then
    let key := p.key.getD 0
    if let some g := badGran s key n then
      modify (fun s => noteBad s g)
      trap 0x0D va
    else
      let (v, s) := weakRead s (.thread c.cid) key n
      set s
      return some v
  else return none

/-- The value of a weak load that an instruction waits for as for an empty register; `pos` tells the loads of one
instruction apart. The wait names no register: its object is 0, since R27 is silent on it (DESIGN CHOICE, log 41). -/
def awaitLoad (n : Nat) (va : Word) (p : Place) (pos : Nat) : M Word := do
  let c ← ctx
  match c.got.find? (·.1 == pos) with
  | some e => return e.2
  | none =>
    if let some v ← nearLoad va p n then return wd v
    if c.loads.any (fun l => l.dst == .operand && l.elems.any (fun e => e.1 == pos)) ||
        c.lfaults.any (fun l => l.dst == .operand && l.seq == c.seq) then park .reg 0
    else
      sendLoad n [(pos, va, p.key)] .operand {}
      park .reg 0

/-- A read of a frame slot: a weak load for an inner frame, which the thread waits for as for an empty register;
a strong read at the array for an outer one (R97, R139). -/
def readFrame (d slot pos : Nat) : M Word := do
  let (va, p) ← framePlace d slot
  match p with
  | .arr key =>
    let c ← ctx
    if c.strong.isSome || c.storesBefore (c.seq + 1) key 8 || c.loadsBefore (c.seq + 1) key 8 then park .none 0
    else
      let s ← get
      if let some g := badGran s key 8 then
        modify (fun s => noteBad s g)
        trap 0x0D va
      else
        let (v, s) := strongRead s (.thread c.cid) key 8
        set s
        return wd v
  | .ord _ => awaitLoad 8 va p pos

/-- An operand read: a register or a frame slot. -/
def readOpd (p : Opd) (pos : Nat) : M Word :=
  match p with
  | .r n => readX n
  | .f d s => readFrame d.val s pos

/-- Where a scalar result goes: x, or a frame slot that has passed its checks. -/
inductive Dst where
  | x (n : Fin 64)
  | inner (va : Word)
  | outer (va : Word) (key : Nat)
  deriving DecidableEq, Repr

/-- A destination checked before anything is written: a pending result, the locks of R295, or the checks and the
room of a store. -/
def prepDst (p : Opd) : M Dst :=
  match p with
  | .r n => do
    needDst n.val
    return .x n
  | .f d slot => do
    let (va, pl) ← framePlace d.val slot
    match pl with
    | .arr key => return .outer va key
    | .ord _ =>
      checkXu va 8
      needStoreRoom
      return .inner va

/-- A scalar result written. -/
def writeDst (d : Dst) (w : Word) : M Unit :=
  match d with
  | .x n => writeX n w
  | .inner va => sendStore [(va, none, toBytes 8 w.toNat)]
  | .outer va key => modify (fun s =>
      let c := s.ctx
      if atCore s.myCore [some key] && !c.storesBefore (c.seq + 1) key 8 && !c.loadsBefore (c.seq + 1) key 8 &&
          !c.strongBefore (c.seq + 1) key 8 then
        s.store key (toBytes 8 w.toNat) (.thread c.cid) c.seq (some ⟨0, some s.myCore⟩)
      else
        let (id, s) := s.fresh
        (s.mod (fun c => { c with outer := c.outer ++ [⟨id, c.seq, s.myCore, va, key, w⟩] })).due
          (.strongAccessPerformed s.ctx.cid id))

/-! The forms of Table 8.1. -/

/-- Binary: a and b are B and C under REG, else A and B; every input is read before the destination is written
(R138). Which of two frame operands is checked first, and so which fault is taken where both fail, the spec does not say:
here B before A (DESIGN CHOICE, log 42). -/
def binary (f : Word → Word → Word) (o : Ops) : M Ctl := do
  let (a, b) ← match o.c with
    | some c => do
      let a ← readOpd o.b 0
      let b ← readX c
      pure (a, b)
    | none => do
      let b ← readOpd o.b 0
      let a ← readOpd o.a 1
      pure (a, b)
  let d ← prepDst o.a
  writeDst d (f a b)
  return .seq

def unary (f : Word → Word) (o : Ops) : M Ctl := do
  let v ← readOpd o.b 0
  let d ← prepDst o.a
  writeDst d (f v)
  return .seq

/-- Three-input: the function takes the inputs of B and C and the old destination. -/
def ternary (f : Word → Word → Word → Word) (o : Ops) : M Ctl := do
  let v ← readOpd o.b 0
  let w ← readX o.cx
  let old ← readOpd o.a 1
  let d ← prepDst o.a
  writeDst d (f v w old)
  return .seq

/-- A result for x(Ahi:A) alone. -/
def toX (a : Fin 64) (w : Word) : M Unit := do
  needDst a.val
  writeX a w

/-! Addresses. -/

/-- A register of an address. A load that ERET.R issues again reads the registers as they stand, its own destinations among
them, which its fault has left empty (R296, R297): `own` names those by their numbers (R27). -/
def readAddr (own : List Nat) (n : Fin 64) : M Word := do
  let c ← ctx
  if c.replay.isSome && own.contains n.val then return c.getX n else readX n

/-- Base, index and displacement (R170); the index is C under REG, else x0 (R169). -/
def effAddr (o : Ops) (index : Bool) (own : List Nat := []) : M Word := do
  let b ← match o.b with
    | .r n => readAddr own n
    | .f _ _ => readOpd o.b 0
  let i ← if index then readAddr own o.cx else pure 0
  return b + i + BitVec.ofInt 64 o.imm

/-- The registers that a load's address reads, locked while it is outstanding (R295): the base or the display register
of a frame operand, and the index. -/
def addrRegs (o : Ops) (index : Bool) : RegSet :=
  let r := RegSet.of ((match o.b with
    | .r n => [n.val]
    | .f _ _ => []) ++ (if index then [o.cx.val] else []))
  match o.b with
  | .r _ => r
  | .f d _ => { r with d := setBit r.d d.val true }

/-! Vector operands. -/

/-- Element i of width w of a vector register (R197). -/
def elemOf (w : Nat) (v : VWord) (i : Nat) : Nat := v.toNat / 2 ^ (w * i) % 2 ^ w

/-- A vector register from its elements. -/
def ofElems (w : Nat) (l : List Nat) : VWord :=
  BitVec.ofNat 1024 (l.zipIdx.foldl (fun (acc : Nat) (e : Nat × Nat) => acc + e.1 % 2 ^ w * 2 ^ (w * e.2)) 0)

/-- Whether element i is active (R199). -/
def activeAt (vl : Nat) (m : MWord) (i : Nat) : Bool := decide (i < vl) && m.getLsbD i

/-- What an instruction takes from VTYPE at its issue (R199). -/
structure VCfg where
  et : Nat
  w : Nat
  n : Nat
  vl : Nat
  rm : Nat
  deriving DecidableEq, Repr

def vcfg : M VCfg := do
  let t := (← ctx).vtype
  let w := etWidth (vtET t)
  return ⟨vtET t, w, 1024 / w, vtVL t, vtRM t⟩

/-- The address of the base word of the instruction being issued. -/
def baseWordAddr : M Word := return (← ctx).npc - 2

/-- An operation that a class does not allow (R200), and others that take cause 0x01 with their base word. -/
def undefinedHere {α : Type} : M α := do trap 0x01 (← baseWordAddr)

/-- A class test (R200): I for codes 0 to 7, F for 8 to 11, S for 12. -/
def needClass (ok : Nat → Bool) : M VCfg := do
  let k ← vcfg
  if ok k.et then return k else undefinedHere

def isI (et : Nat) : Bool := decide (et < 8)
def isF (et : Nat) : Bool := decide (8 ≤ et) && decide (et < 12)
def isS (et : Nat) : Bool := et == 12

/-- The mask and the treatment of inactive elements: page 0 names m0 and merges, page 2 and 3 name Q[2:0] and
zero under Q[3] (R199). -/
structure VMask where
  m : MWord
  zero : Bool
  deriving DecidableEq, Repr

def pageMask : VMask := ⟨BitVec.allOnes 128, false⟩
def qMask (q : BitVec 4) : M VMask := do
  let m ← readM (Fin.ofNat 8 (bits q 2 0))
  return ⟨m, bit q 3⟩

/-- A vector result: active elements from `f`, the others kept or zeroed. -/
def mergeV (k : VCfg) (m : VMask) (old : VWord) (f : Nat → Nat) : VWord :=
  ofElems k.w ((List.range k.n).map (fun i =>
    if activeAt k.vl m.m i then f i else if m.zero then 0 else elemOf k.w old i))

/-- The destination of a vector result. It is read where inactive elements keep their value. -/
def putV (k : VCfg) (m : VMask) (a : Fin 16) (f : Nat → Nat) : M Unit := do
  needDst (64 + a.val)
  let all := (List.range k.n).all (activeAt k.vl m.m)
  if !m.zero && !all then needFull (64 + a.val)
  modC (fun c => c.putV a (mergeV k m (c.getV a) f))

end Sys2Proof.Machine
end

