-- ==== Sys2Proof/Machine/Control.lean ====
section
/-! DEFINITION. Branches and calls (R144, R145), NOP, TEND, YIELD and TRAP (R146 to R148), hardware loops (R149 to
R151), BSIG and POOL (R134, R135), and the CSR instructions (R153, R154). -/

namespace Sys2Proof.Machine

/-! Branches. -/

/-- The target of a relative branch (R132). -/
def relTarget (c : Ctx) (o : Ops) : Word := wd (wrap 56 ((c.pc.toNat : Int) + 2 * o.imm))

/-- A taken branch (R136). -/
def branchTo (t : Word) : M Ctl := do
  landing t
  return .jump t

/-- A conditional branch on what the leader reads (R30). -/
def condBranch (o : Ops) (test : M Bool) : M Ctl := do
  if ← asLeader test then branchTo (relTarget (← ctx) o) else return .seq

/-- Two registers compared; without REG the second is x0 (R144). -/
def comparing (o : Ops) (p : Word → Word → Bool) : M Bool := do
  let a ← readX o.a.x
  let b ← readX o.cx
  return p a b

/-- x1 takes the address of the next instruction. -/
def linkX1 : M Unit := do writeX 1 (← ctx).npc

/-- A computed branch (R145). -/
def computed (t : Word) (call : Bool) : M Ctl := do
  if call then needDst 1
  if bit t 0 then trap 0x05 t
  else if bits t 63 56 ≠ 0 then trap 0x08 t
  else
    landing t
    if call then linkX1
    return .jump t

/-- BEQZ (R144). -/
def execBeqz (o : Ops) (s : State) : Host.Outcome State Fault Refusal :=
  runM (condBranch o (do return (← readX o.a.x) == 0)) s

/-- BNEZ (R144). -/
def execBnez (o : Ops) (s : State) : Host.Outcome State Fault Refusal :=
  runM (condBranch o (do return (← readX o.a.x) != 0)) s

/-- BR (R144). -/
def execBr (o : Ops) (s : State) : Host.Outcome State Fault Refusal :=
  runM (do branchTo (relTarget (← ctx) o)) s

/-- CALL (R144): x1 takes the address of the next instruction. -/
def execCall (o : Ops) (s : State) : Host.Outcome State Fault Refusal :=
  runM (do
    needDst 1
    let t := relTarget (← ctx) o
    landing t
    linkX1
    return .jump t) s

/-- BEQ (R144). -/
def execBeq (o : Ops) (s : State) : Host.Outcome State Fault Refusal :=
  runM (condBranch o (comparing o (fun a b => a == b))) s

/-- BNE (R144). -/
def execBne (o : Ops) (s : State) : Host.Outcome State Fault Refusal :=
  runM (condBranch o (comparing o (fun a b => a != b))) s

/-- BLT (R144). -/
def execBlt (o : Ops) (s : State) : Host.Outcome State Fault Refusal :=
  runM (condBranch o (comparing o (fun a b => decide (a.toInt < b.toInt)))) s

/-- BGE (R144). -/
def execBge (o : Ops) (s : State) : Host.Outcome State Fault Refusal :=
  runM (condBranch o (comparing o (fun a b => decide (b.toInt ≤ a.toInt)))) s

/-- BLTU (R144). -/
def execBltu (o : Ops) (s : State) : Host.Outcome State Fault Refusal :=
  runM (condBranch o (comparing o (fun a b => decide (a.toNat < b.toNat)))) s

/-- BGEU (R144). -/
def execBgeu (o : Ops) (s : State) : Host.Outcome State Fault Refusal :=
  runM (condBranch o (comparing o (fun a b => decide (b.toNat ≤ a.toNat)))) s

/-- JMPR (R145). -/
def execJmpr (o : Ops) (s : State) : Host.Outcome State Fault Refusal :=
  runM (do computed (← asLeader (readOpd o.b 0)) false) s

/-- CALLR (R145): the target is read before x1 is written. -/
def execCallr (o : Ops) (s : State) : Host.Outcome State Fault Refusal :=
  runM (do computed (← asLeader (readOpd o.b 0)) true) s

/-- RET (R145). -/
def execRet (_o : Ops) (s : State) : Host.Outcome State Fault Refusal :=
  runM (do computed (← asLeader (readX 1)) false) s

/-! Other control. -/

/-- NOP (R146). -/
def execNop (_o : Ops) (s : State) : Host.Outcome State Fault Refusal := runM (return .seq) s

/-- A comparison of the block that ends here (R363, R364). -/
def plumbCheck (b : Blk) : M Unit := do
  let c ← ctx
  if !b.bad then return
  else match plumbMode c.plumb with
    | 0 => return
    | 1 => modify (fun s => missEvent (s.mod (fun c => { c with plumb := missUp c.plumb })) s.cur c b)
    | _ => trap 0x04 b.word

/-- The kill of a mode 2 mismatch found at the BSIG word or the TEND at an address (R364). -/
def killMiss (b : Blk) (at' : Word) : M Ctl := do
  modify (fun s => takeTrap s { cause := 0x04, val := b.word, epc := at' })
  return .gone

/-- Whether a POST to a task's own element is on its way: each falls while the task runs (R285). -/
def ownPosts (s : State) (tid : Nat) : Bool :=
  match (Tab.get? s.tasks tid).bind (fun t => t.sweep.bind (Tab.get? s.sweeps ·)) with
  | some w => s.agenda.any (fun e => match e with
    | .postArrival p => p.node == s.node && p.grp == w.grp && idIndex p.elem == w.elem
    | _ => false)
  | none => false

/-- What waits at a task's last TEND (R18, R31): the POSTs to its own element, its copies, and the stores of its members that have ended. Weak stores
of those that failed are reported with the last member's own (R98). -/
def waitMembers (tid : Nat) : M Unit := do
  let s ← get
  if s.copies.any (fun k => k.task == tid) then park .tag s.ctx.tags
  if (ownPosts s tid) then park .none 0
  let past := (s.ended.filter (fun e => e.2.task == tid)).map (·.2)
  if past.any (fun c => !(c.stores.isEmpty && c.strong.isNone && c.outer.isEmpty)) then park .none 0
  if past.any (fun c => !c.sfaults.isEmpty) then
    modify (fun s => ({ s with ended := s.ended.map (fun (e : Nat × Ctx) =>
      if e.2.task = tid then (e.1, { e.2 with sfaults := [] }) else e) } : State).mod (fun c =>
        { c with sfaults := c.sfaults ++ past.flatMap (·.sfaults) }))

/-- The issuing member of a task ends (R18, R31): its slot is free, for the queue of a pre-emption that was to take it
(R37); what it still has on its way goes on without it. -/
def leaveSlot (last : Bool) (s : State) : State :=
  let c := s.ctx
  let fr := heldEntries s c s.cur
  let left := !last && !(c.stores.isEmpty && c.strong.isNone && c.outer.isEmpty && c.sfaults.isEmpty)
  let s : State := if left then { s with ended := s.ended ++ [(s.cur, { c with loads := [] })] } else s
  let s := match Tab.get? s.tasks c.task with
    | some _ => endMember s c false fr []
    | none => retireAll s fr
  let s := dropSave s c
  let sl := s.slot s.cur
  s.setSlot s.cur { sl with ctx := none, freed := s.clock + 1
                            owner := (c.save.bind (·.queue)).getD sl.owner }

/-- TEND (R18, R31, R146, R168): the last member of a task waits for its copies and for the release at the claim scope,
and ends the task; another member only ends. A TEND follows in the next halfword a BSIG word consumed with it (R134). -/
def execTend (_o : Ops) (s : State) : Host.Outcome State Fault Refusal :=
  runM (do
    let s ← get
    let c := s.ctx
    let b := c.block.feed c.feed
    if b.bad && plumbMode c.plumb == 2 then return ← killMiss b (if c.sig.isSome then c.pc + 2 else c.pc)
    let t := Tab.get? s.tasks c.task
    let last := match t with
      | some t => t.members == 1
      | none => true
    if last then
      waitMembers c.task
      let sc := match t with
        | some t => taskScope s t
        | none => 2
      release .none 0 sc
      modify (fun s => (match t with
        | some t => t.past
        | none => []).foldl (fun s a => releaseMark s (.thread a) ⟨sc, some s.myCore⟩) s)
    takeSig
    plumbCheck b
    modify (leaveSlot last)
    return .gone) s

/-- YIELD (R147): it completes at the n-th offered clock after this one. -/
def execYield (o : Ops) (s : State) : Host.Outcome State Fault Refusal :=
  runM (do
    if o.imm = 0 then return .seq
    else
      let s ← get
      modC (fun c => { c with yieldTo := some (s.clock + 16 * o.imm.toNat), stage := 1 })
      park .none 0) s

/-- TRAP (R148): it completes before it traps. -/
def execTrap (o : Ops) (s : State) : Host.Outcome State Fault Refusal :=
  runM (return .trapAfter 0x10 (BitVec.ofInt 64 o.imm)) s

/-! Hardware loops. -/

/-- loop_start (R149). -/
def loopStart (n : Word) (o : Ops) : M Ctl := do
  let c ← ctx
  let stop' : Int := (c.pc.toNat : Int) + 2 * o.imm
  let stop := BitVec.ofInt 64 stop'
  if stop' ≤ c.npc.toNat then undefinedHere
  else if c.loops.length = 4 then undefinedHere
  else if n = 0 then
    takeSig
    modC (fun c => { c with blk := { c.blk with valid := false } })
    return .onto stop
  else
    modC (fun c => { c with loops := ⟨c.npc, stop, n, {}⟩ :: c.loops })
    return .enter

/-- LOOP (R149). -/
def execLoop (o : Ops) (s : State) : Host.Outcome State Fault Refusal :=
  runM (do loopStart (← asLeader (readX o.a.x)) o) s

/-- LOOPI (R149): the count is the number in field A. -/
def execLoopi (o : Ops) (s : State) : Host.Outcome State Fault Refusal :=
  runM (loopStart (wd o.a.num) o) s

/-- LOOPX (R151). -/
def execLoopx (o : Ops) (s : State) : Host.Outcome State Fault Refusal :=
  runM (do
    let c ← ctx
    let k := o.imm.toNat
    match (if 3 < k then none else c.loops[k]?) with
    | none => undefinedHere
    | some l =>
      takeSig
      modC (fun c => { c with loops := c.loops.drop (k + 1), blk := { c.blk with valid := false } })
      return .onto l.stop) s

/-! BSIG and POOL. -/

/-- A BSIG word that is an instruction of its own (R134): it only makes its comparison, and it is no completed
instruction for any count. A BSIG word before it has been consumed first; it stands itself just before what follows. -/
def execBsig (sig : BitVec 11) (s : State) : Host.Outcome State Fault Refusal :=
  runM (do
    let c ← ctx
    let b := c.block
    if b.bad && plumbMode c.plumb == 2 then return ← killMiss b (c.npc - 2)
    takeSig
    plumbCheck b
    modC (fun c => { c with blk := { c := 0x7FF, e := sig, valid := true } }.continueAt c.npc)
    modC (fun c => { c with lone := true })
    return .gone) s

/-- POOL (R135): any issue takes cause 0x02. -/
def execPool (_len : BitVec 11) (s : State) : Host.Outcome State Fault Refusal :=
  runM (do trap 0x02 (← ctx).pc) s

/-! Control registers. -/

/-- The completed copies that a context observes through its tags (R80). -/
def observeTags (mask : Word) : M Unit :=
  modify (fun s =>
    let c := s.ctx
    let seen := c.done.filter (fun e => bit mask e.1)
    let s := seen.foldl (fun s e => observe s (.thread c.cid) (.engine e.2)) s
    s.mod (fun c => { c with done := c.done.filter (fun e => !bit mask e.1) }))

/-- The state code of a slot in SLOTS (Table 19.1). A whole gang is out of rotation while a member awaits a reply (R30). -/
def slotCode (s : State) (t : Nat) : Nat :=
  match (s.slot t).ctx with
  | none => if (s.slot t).scrub then 5 else 0
  | some c =>
    if c.inTrap then 4
    else if (gangOf s t).any (fun u => (s.slot u).ctx.any (·.run == .away)) then 3
    else match c.run with
      | .running => 1
      | .parked => 2
      | .away => 3

/-- ORIENT of a die (Table 21.7). -/
def orientOf (die : Nat) : Word :=
  match die with
  | 0 => 0x0150
  | 1 => 0x8375
  | 2 => 0x604A
  | _ => 0xE26F

/-- The value that a read of a user or supervisor register gives the issuing thread (Tables 8.5, 19.1). -/
def readCsr (s : State) (n : Nat) : Word :=
  let c := s.ctx
  let r := s.regionOf c
  let core := s.myCore * 16
  match n with
  | 0x000 => c.vtype
  | 0x001 => c.cb
  | 0x002 => c.te
  | 0x003 => c.wlim
  | 0x004 => c.gstat
  | 0x005 => setBit c.xfe 0 true
  | 0x006 => wd s.cur
  | 0x007 => wd c.inc.toNat
  | 0x008 => wd s.clock
  | 0x009 => c.icount
  | 0x00A => setBits c.plumb 3 2 s.plfloor.toNat
  | 0x00B => orientOf s.myDie
  | 0x00C => c.rstat
  | 0x100 => c.tstat
  | 0x101 => c.tepc
  | 0x102 => c.tcause
  | 0x103 => c.tval
  | 0x104 => c.tlpc
  | 0x105 => r.tvec
  | 0x106 => c.tscr[0]
  | 0x107 => c.tscr[1]
  | 0x108 => c.tscr[2]
  | 0x109 => c.tscr[3]
  | 0x10A => c.evt
  | 0x10B => wd r.asid.toNat
  | 0x10C => wd ((List.range 16).foldl (fun v i =>
      v + slotCode s (core + i) * 2 ^ (3 * i) + (s.slot (core + i)).held.toNat * 2 ^ (48 + i)) 0)
  | 0x10D => wd ((List.range 16).foldl (fun v i => v + (s.slot (core + i)).owner.toNat * 2 ^ (4 * i)) 0)
  | _ => 0

/-- The levels of the register numbers (R290): the instruction's address is the value of cause 0x0C. -/
def csrLevel (n : Nat) : M Unit := do
  let c ← ctx
  if 0x400 ≤ n ∨ (0x100 ≤ n ∧ c.level = .user) then trap 0x0C c.pc else return

/-- A register written by the issuing thread (R153). -/
def writeCsr (n : Nat) (rw w1c : Word) : M Unit := do
  if n = 0 then needVtype
  modify (fun s => s.mod (fun c => c.putCsr s.plfloor.toNat n rw w1c))

/-- CSRR (R153); a read of CB observes the completed copies (R80). It never parks (R26): a result pending for its destination
fills the register after it. Where a load reads that register, no later instruction completes that would write it (R295):
CSRR then stays at its place without parking, and issues again (log 43). -/
def execCsrr (o : Ops) (s : State) : Host.Outcome State Fault Refusal :=
  runM (do
    let n := o.imm.toNat
    csrLevel n
    if ((← ctx).lockedBy (·.has o.a.x.val)).isSome then throw .hold
    takeSig
    if n = 1 then observeTags (← ctx).cb
    writeX o.a.x (readCsr (← get) n)
    return .seq) s

/-- The value that a CSR instruction writes or works with: a write of FSTAT never parks, and an empty register holds its
value (R26; log 43). -/
def csrSource (o : Ops) : M Word := do
  if o.imm.toNat = 5 then return (← ctx).getX o.a.x else readX o.a.x

/-- CSRW (R153). -/
def execCsrw (o : Ops) (s : State) : Host.Outcome State Fault Refusal :=
  runM (do
    csrLevel o.imm.toNat
    let v ← csrSource o
    if o.imm.toNat = 0 then needVtype
    takeSig
    writeCsr o.imm.toNat v v
    return .seq) s

/-- CSRS (R153). -/
def execCsrs (o : Ops) (s : State) : Host.Outcome State Fault Refusal :=
  runM (do
    csrLevel o.imm.toNat
    let v ← csrSource o
    if o.imm.toNat = 0 then needVtype
    takeSig
    writeCsr o.imm.toNat (readCsr (← get) o.imm.toNat ||| v) v
    return .seq) s

/-- CSRC (R153): W1C fields see zeros. -/
def execCsrc (o : Ops) (s : State) : Host.Outcome State Fault Refusal :=
  runM (do
    csrLevel o.imm.toNat
    let v ← csrSource o
    if o.imm.toNat = 0 then needVtype
    takeSig
    writeCsr o.imm.toNat (readCsr (← get) o.imm.toNat &&& ~~~v) 0
    return .seq) s

end Sys2Proof.Machine
end

