-- ==== Sys2Proof/Machine/Link.lean ====
section
/-! DEFINITION. The links of the Scaffold ports: flit slots and the retry layer (R350, R351), counters (R352, R356),
keys (R353 to R355), the state of a link (R351, R357), and the package's place in the fabric (R343, R346, R348). -/

namespace Sys2Proof.Machine

/-- The die that carries a port (Table 21.7). -/
def portDie (p : Fin 8) : Nat :=
  match p with
  | 0 => 2 | 1 => 0 | 2 => 3 | 3 => 1 | 4 => 2 | 5 => 0 | 6 => 3 | 7 => 1

/-- The timeout of 10 µs without RACK progress stands while flits are unacknowledged (R351). -/
def watchAck (s : State) (p : Fin 8) (fresh : Bool) : State :=
  let q := s.port p
  if q.replay.isEmpty || q.link != .up then dropTimers s (· == .linkRetrain p)
  else if fresh || !s.timers.any (·.2 == .linkRetrain p) then
    (dropTimers s (· == .linkRetrain p)).timeout (10 * micro) (.linkRetrain p)
  else s

/-- What waits in a port put into flit slots, in order (R351, R355). -/
def sendQueue (s : State) (p : Fin 8) : State :=
  let l := (s.port p).queue
  let s := l.foldl (fun s w => sendFlit s p w) (s.modPort p (fun (q : Port) => { q with queue := [] }))
  watchAck s p false

/-- What was held for want of a route goes on where there is one now (R345). -/
def sendTransit (s : State) : State :=
  let l := s.fabric.transit
  l.foldl (fun s e => match e.1 with
    | .request d _ => forward s d e.1 e.2.1 e.2.2
    | .reply d _ _ _ => forward s d e.1 e.2.1 e.2.2
    | _ => s) { s with fabric := { s.fabric with transit := [] } }

/-- After a change in what ports can do: waiting flits and held payloads are looked at again. -/
def routesChanged (s : State) (p : Fin 8) : State := watchFence (sendTransit (sendQueue s p))

/-! Down and retraining. -/

/-- A link goes down: its unacknowledged flits are abandoned (R351). -/
def takeDown (s : State) (p : Fin 8) : State :=
  let s := s.modPort p (fun (q : Port) => { q with
    link := .down, replay := [], naks := 0, nakDue := false, hold := false, part := none, early := none, redo := false })
  watchFence (dropTimers s (fun e => e == .linkRetrain p || e == .linkDown p))

/-- A link begins to retrain; if it has not come up 100 µs later, it is down (R351). -/
def retrain (s : State) (p : Fin 8) : State :=
  let s := s.modPort p (fun q => { q with link := .retraining, naks := 0, nakDue := false })
  let s := dropTimers s (fun e => e == .linkRetrain p || e == .linkDown p)
  watchFence (s.timeout (100 * micro) (.linkDown p))

/-- LINK_RETRAIN (R351). -/
def execLinkRetrain (port : Fin 8) (s : State) : Host.Outcome State Fault Refusal :=
  .next (if (s.port port).link = .up then retrain s port else s)

/-- LINK_DOWN (R351). -/
def execLinkDown (port : Fin 8) (s : State) : Host.Outcome State Fault Refusal :=
  .next (if (s.port port).link = .retraining then takeDown s port else s)

/-! Keys. -/

/-- The key that the LKEY words written so far load, lowest 64 bits first (Table 22.4). -/
def Port.staged (q : Port) : BitVec 256 :=
  BitVec.ofNat 256 ((q.keyWords.zipIdx.map (fun e => e.1.toNat * 2 ^ (64 * e.2))).sum)

/-- Whether a transmitter may send its key-switch flit (R351, R354 step 3). -/
def Port.switches (q : Port) : Bool := q.arm && q.peer && q.link == .up && decide (q.replay.length < 256)

/-- A key switch made due once both ends are armed (R354 step 3). -/
def watchSwitch (s : State) (p : Fin 8) : State :=
  if (s.port p).switches && !s.agenda.contains (.keySwitchSend p) then s.due (.keySwitchSend p) else s

/-- LKEY_WRITE (R353): a fifth write starts a new key. -/
def execLkeyWrite (port : Fin 8) (w : Word) (s : State) : Host.Outcome State Fault Refusal :=
  .next (s.modPort port (fun q => { q with keyWords := if q.keyWords.length < 4 then q.keyWords ++ [w] else [w] }))

/-- LCTL.ARM written (R354, R355): the armed state is announced to the peer. -/
def writeArm (s : State) (p : Fin 8) (b : Bool) : State :=
  let q := s.port p
  let arm := b && q.sgen != 0
  if arm = q.arm then s
  else
    let s := transmit (s.modPort p (fun q => { q with arm })) p false (.control arm)
    watchSwitch (watchAck s p false) p

/-- LCTL_ARM (R354). -/
def execLctlArm (port : Fin 8) (b : Bool) (s : State) : Host.Outcome State Fault Refusal := .next (writeArm s port b)

/-- LCTL.DOWN written (R357). -/
def writeDown (s : State) (p : Fin 8) (b : Bool) : State :=
  let q := s.port p
  if b = q.down then s
  else
    let s := s.modPort p (fun q => { q with down := b })
    if b then takeDown s p else retrain s p

/-- LCTL_DOWN (R357). -/
def execLctlDown (port : Fin 8) (b : Bool) (s : State) : Host.Outcome State Fault Refusal := .next (writeDown s port b)

/-- KEY_SWITCH_SEND (R354 steps 3 and 4): the key-switch flit takes a counter of the old key, the one that HOLD leaves
if need be (R356). -/
def execKeySwitchSend (port : Fin 8) (s : State) : Host.Outcome State Fault Refusal :=
  let q := s.port port
  let w : Wire := ⟨Config.channel 4, 0, .keySwitch q.sgen⟩
  .next (if !q.switches then s
    else
      let s := (putSlot s port q.rseq w).modPort port (fun (q : Port) => { q with
        rseq := q.rseq + 1, replay := q.replay ++ [(q.rseq, w)]
        key := q.staged, txc := 0, agen := q.sgen, arm := false, peer := false, keyWords := [], hold := false })
      routesChanged (watchAck s port false) port)

/-- KEY_LOW (R356). -/
def execKeyLow (port : Fin 8) (s : State) : Host.Outcome State Fault Refusal :=
  let s := s.modPort port (fun q => { q with klow := true })
  let s := s.modDie (portDie port) (fun d => { d with keyIrq := true })
  .next (s.event { type := 11, die := portDie port, source := wd port.val })

/-- LINK_HOLD (R356). -/
def execLinkHold (port : Fin 8) (s : State) : Host.Outcome State Fault Refusal :=
  let s := s.modPort port (fun q => { q with hold := true, holdStart := s.clock })
  .next (watchSwitch (watchFence (s.timeout (100000 * micro) (.holdTimeout port s.clock))) port)

/-- HOLD_TIMEOUT (R356). -/
def execHoldTimeout (port : Fin 8) (start : Nat) (s : State) : Host.Outcome State Fault Refusal :=
  let q := s.port port
  .next (if q.hold ∧ q.holdStart = start then takeDown s port else s)

/-! Slots received. -/

/-- A key-switch flit received (R354 step 5): the staged key is used from the next slot on. One of another generation
than the one armed, or just switched to, takes the link down. -/
def takeSwitch (s : State) (p : Fin 8) (gen : BitVec 8) : State :=
  let q := s.port p
  if q.arm && q.sgen == gen then s.modPort p (fun (q : Port) => { q with rxKey := q.staged, rxGen := gen, rxc := 0 })
  else if q.agen == gen && (!q.arm || q.rxGen != gen) then
    s.modPort p (fun (q : Port) => { q with rxKey := q.key, rxGen := gen, rxc := 0 })
  else (takeDown s p).event { type := 12, die := portDie p, source := wd p.val }

/-- A request or reply that is here whole from a port; a fenced package passes none on (R348). -/
def passOn (s : State) (p : Fin 8) (det : Bool) (b : Payload) : State :=
  if s.fabric.fenced then s
  else match b with
  | .request d _ => forward s d b det (some p)
  | .reply d _ _ _ => forward s d b det (some p)
  | _ => s

/-- What an accepted flit holds; a request or reply is acted on when its last flit is here (R350). -/
def takePayload (s : State) (p : Fin 8) (f : Flit) : State :=
  match f.payload with
  | .idle => s
  | .control a => watchSwitch (s.modPort p (fun q => { q with peer := a })) p
  | .keySwitch g =>
    if (s.port p).early = some f.rseq then s.modPort p (fun (q : Port) => { q with early := none })
    else if (s.port p).redo then s.modPort p (fun (q : Port) => { q with redo := false })
    else takeSwitch s p g
  | .more =>
    if 56 < f.len then s
    else match (s.port p).part with
    | none => s
    | some b => passOn (s.modPort p (fun (q : Port) => { q with part := none })) p (isDetoured f.vc) b
  | b => if 56 < f.len then s.modPort p (fun (q : Port) => { q with part := some b }) else passOn s p (isDetoured f.vc) b

/-- The replay buffer after an acknowledgement: flits up to RACK leave it (R351). -/
def ackReplay (l : List (BitVec 12 × Wire)) (rack : BitVec 12) : List (BitVec 12 × Wire) :=
  match l.findIdx? (·.1 == rack) with
  | some i => l.drop (i + 1)
  | none => l

/-- The header of an intact flit: acknowledgement and NAK. -/
def takeHeader (s : State) (p : Fin 8) (f : Flit) : State :=
  let q := s.port p
  let l := ackReplay q.replay f.rack
  let naks := if f.nak then q.naks + 1 else 0
  let s := s.modPort p (fun q => { q with replay := l, naks })
  let s := watchAck s p (decide (l.length < q.replay.length))
  let s := sendQueue (watchSwitch s p) p
  if !f.nak then s
  else if 64 ≤ naks then s.due (.linkRetrain p) else s.due (.nakReplay p)

/-- A corrupt slot answered with NAK, in an idle flit (R351); in HOLD there is no slot for it, and the next flit carries it
(R356). -/
def sendNak (s : State) (p : Fin 8) : State :=
  let s := s.modPort p (fun (q : Port) => { q with nakDue := true })
  if (s.port p).hold then s else idleSlot s p

/-- FLIT_SLOT_RECEIVE (R350 to R352): every slot advances the receiver's counter. A key-switch flit that is intact but ahead
of its turn switches the key too, and is discarded otherwise (R351, R354). -/
def execFlitSlotReceive (port : Fin 8) (f : Flit) (s : State) : Host.Outcome State Fault Refusal :=
  .next (if (s.port port).link != .up then s
    else
      let s := s.modPort port (fun q => { q with rxc := q.rxc + 1 })
      if !f.intact then sendNak s port
      else
        let s := takeHeader s port f
        let q := s.port port
        if f.payload = .idle then s
        else if f.rseq = q.rnext then
          takePayload (s.modPort port (fun q => { q with rnext := q.rnext + 1, nakDue := false })) port f
        else match f.payload with
        | .keySwitch g =>
          if (f.rseq - q.rnext).toNat < 256 && q.early != some f.rseq && !q.redo then
            takeSwitch (s.modPort port (fun (q : Port) => { q with early := some f.rseq })) port g
          else s
        | _ => s)

/-- NAK_REPLAY (R351, R352): every unacknowledged flit again, each under a fresh counter value. -/
def execNakReplay (port : Fin 8) (s : State) : Host.Outcome State Fault Refusal :=
  .next ((s.port port).replay.foldl (fun s e =>
    let q := s.port port
    if q.link == .up && !q.hold then (takeSlot s port e.1 e.2).2 else s) s)

/-! A link comes up. -/

/-- A request of this package under its present name and join number (R346). -/
def restamp (s : State) (r : Request) : Request := { r with src := s.node, join := s.fabric.join }

/-- The package joins the fabric when its links have been trained after a reset, if its NODE lies inside the extents (R346,
R380, R384). Requests that were made before go out under the new join number, and advances that are not acknowledged are
sent again (R374). -/
def joinFabric (s : State) : State :=
  if s.fabric.joined || !inExtents s s.node then s
  else
    let s : State := { s with fabric := { s.fabric with joined := true, join := s.fabric.join + 1 } }
    let again (l : List Sent) : List Sent := l.map (fun (q : Sent) => { q with req := restamp s q.req })
    let held := s.fabric.transit.map (fun e => match e with
      | (.request d r, w) => (.request d (restamp s r), w)
      | e => e)
    let f := { s.fabric with sent := again s.fabric.sent, waiting := again s.fabric.waiting, transit := held }
    watchFence { s with fabric := f, agenda := s.agenda ++ s.lineage.pending.map (fun e => .counterAdvanceResend e.1 e.2.lineage) }

/-- A neighbour heard of: it has joined, and one that has been reset is no longer lost (R343, R348). Advances that it has
not acknowledged are sent again (R374). -/
def meetNeighbour (s : State) (n : BitVec 16) (fresh : Bool) : State :=
  let f := s.fabric
  let lost := if fresh then f.lost.filter (· != n) else f.lost
  let s : State := { s with fabric := { f with
    present := if f.present.contains n then f.present else n :: f.present, lost } }
  if lost.contains n then s
  else (s.lineage.pending.filter (fun e => Config.peerNode e.1 == some n)).foldl
    (fun s e => s.due (.counterAdvanceResend e.1 e.2.lineage)) s

/-- A port whose peer has been reset, or that has been reset itself: the bootstrap key again, with what was unacknowledged
sent anew (R355). -/
def Port.bootstrap (q : Port) (stated : Nat) : Port :=
  { q with
    agen := 0, key := 0, rxKey := 0, rxGen := 0, txc := if q.agen = 0 then q.txc else 0, rxc := stated, hold := false, peer := false
    rseq := 0, rnext := 0, replay := [], part := none, early := none
    queue := (q.replay.map (·.2)).filter (fun w => match w.payload with
      | .keySwitch _ => false
      | _ => true) ++ q.queue }

/-- Whether a training sequence shows that the peer has been reset: it announces the bootstrap key after another, or the
counter value 0, which it states at no later training (R352, R355). -/
def Port.peerReset (q : Port) (stated : BitVec 48) (peerGen : BitVec 8) : Bool := peerGen == 0 && (q.rxGen != 0 || stated == 0)

/-- The port as the training sequence leaves it, but for its own counter (R352, R355, R357): the peer states the value that
it goes on with and the generation of its key. A switch whose flit was lost to the retrain is completed, and that flit is
ignored when it is replayed; none where the link stays down. -/
def Port.trained (q : Port) (stated : BitVec 48) (peerGen : BitVec 8) : Option Port :=
  let v := stated.toNat
  let held := q.link != .down
  let p : Port := if held then q else { q with rseq := 0, rnext := 0 }
  let p : Port := { p with link := .up, met := true }
  let key (k : BitVec 256) : Port := { p with rxKey := k, rxGen := peerGen, rxc := v, redo := held }
  if q.peerReset stated peerGen then some (p.bootstrap v)
  else if peerGen = q.rxGen then (if q.rxc < v then some { p with rxc := v } else none)
  else if q.arm && q.sgen == peerGen then some (key q.staged)
  else if q.agen = peerGen then some (key q.key)
  else if q.agen = 0 then some (p.bootstrap 0)
  else none

/-- A transmitter's counter rounded up to the next multiple of 2^20 (R352), with KEY_LOW and HOLD where that reaches them
(R356). -/
def roundCounter (s : State) (p : Fin 8) : State :=
  let o := (s.port p).txc
  let s := useSlots s p (2 ^ 20 - o % 2 ^ 20)
  if 2 ^ 48 - 2 ≤ o && !(s.port p).hold then s.due (.linkHold p) else s

/-- LINK_UP (R351, R352, R355, R357): a link that is not held down comes up where the port joins a neighbour; flits that
are unacknowledged are replayed, and an armed key is announced again where the peer may not know of it. The links are trained in
step 4 of R380, once the die that carries the port has set up its memory. A counter that has not been used under its key
starts at 0 (R355). -/
def execLinkUp (port : Fin 8) (stated : BitVec 48) (peerGen : BitVec 8) (s : State) : Host.Outcome State Fault Refusal :=
  let q := s.port port
  .next (match neighbour s port.val with
    | none => s
    | some n =>
      if q.down || q.link == .up || decide (s.host.booted.getD (portDie port) 0 < 2) then s
      else match q.trained stated peerGen with
        | none => takeDown s port
        | some q' =>
          let s := dropTimers (s.modPort port (fun _ => q')) (· == .linkDown port)
          let s := if !q.met || (q.agen != 0 && q'.agen == 0) then s else roundCounter s port
          let s := meetNeighbour (joinFabric s) (BitVec.ofNat 16 n) (q.peerReset stated peerGen)
          let s := if q'.replay.isEmpty then s else s.due (.nakReplay port)
          let s := if q'.arm && q'.replay.isEmpty then transmit s port false (.control true) else s
          watchSwitch (routesChanged (watchAck s port true) port) port)

end Sys2Proof.Machine
end

