-- ==== Sys2Proof/Machine/Csr.lean ====
section
/-! DEFINITION. Writes of control registers by the issuing context (R26, R153, R198, R361) and by a steward (R353, R368,
R384). -/

namespace Sys2Proof.Machine

/-- A register written by the issuing context, at the levels of R290; nothing else of the context moves. -/
def threadWrite (n : Nat) (w : Word) (s : State) : Host.Outcome State Fault Refusal :=
  match (s.slot s.cur).ctx with
  | none => .next s
  | some _ => runM (do
      csrLevel n
      writeCsr n w w
      return .gone) s

/-- FSTAT_WRITE (R26). -/
def execFstatWrite (w : Word) (s : State) : Host.Outcome State Fault Refusal := threadWrite 0x005 w s

/-- VTYPE_WRITE (R198). -/
def execVtypeWrite (w : Word) (s : State) : Host.Outcome State Fault Refusal := threadWrite 0x000 w s

/-- PLUMB_WRITE (R361). -/
def execPlumbWrite (w : Word) (s : State) : Host.Outcome State Fault Refusal := threadWrite 0x00A w s

/-- FABRIC written by the steward of die 0: ignored once the package has joined (R384). -/
def writeFabric (s : State) (w : Word) : State :=
  if s.fabric.joined then s
  else { s with fabric := { s.fabric with reg := wd (bits w 31 24 * 2 ^ 24 + bits w 10 0) } }

/-- FABRIC_WRITE (R384). -/
def execFabricWrite (w : Word) (s : State) : Host.Outcome State Fault Refusal := .next (writeFabric s w)

/-- A link register of a port written (Table 22.4). -/
def writeLink (s : State) (p : Fin 8) (k : Nat) (w : Word) : State :=
  match k with
  | 0 =>
    let s := s.modPort p (fun q => { q with sgen := BitVec.ofNat 8 (bits w 15 8) })
    writeDown (writeArm s p (bit w 0)) p (bit w 1)
  | 1 => if bit w 1 then s.modPort p (fun q => { q with klow := false }) else s
  | 3 => s.modPort p (fun q => { q with keyWords := if q.keyWords.length < 4 then q.keyWords ++ [w] else [w] })
  | _ => s

/-- A machine register written by the steward of a die: ASIDTB of its own die, the package settings by die 0, the link
registers by the steward of the port's die; every other write is ignored (R353, R384). -/
def stewardWrite (s : State) (die n : Nat) (w : Word) : State :=
  if n = 0x400 then s.modDie die (fun d => { d with asidtb := wd (bits w 36 20 * 2 ^ 20) })
  else if n = 0x401 then (if die = 0 then writeFabric s w else s)
  else if n = 0x402 then (if die = 0 then { s with scanpri := BitVec.ofNat 4 (bits w 3 0) } else s)
  else if n = 0x403 then (if die = 0 ∧ bits w 1 0 ≠ 3 then { s with plfloor := BitVec.ofNat 2 (bits w 1 0) } else s)
  else if 0x480 ≤ n ∧ n < 0x4A0 then
    let p : Fin 8 := Fin.ofNat 8 ((n - 0x480) / 4)
    if portDie p = die then writeLink s p ((n - 0x480) % 4) w else s
  else s

/-- A link register of a port read (Table 22.4). -/
def readLink (q : Port) (k : Nat) : Word :=
  match k with
  | 0 => wd (q.sgen.toNat * 2 ^ 8 + q.down.toNat * 2 + q.arm.toNat)
  | 1 => wd (q.agen.toNat * 2 ^ 8 + q.peer.toNat * 2 ^ 4 + (decide (q.keyWords.length = 4)).toNat * 2 ^ 3 +
      q.hold.toNat * 2 ^ 2 + q.klow.toNat * 2 + (decide (q.link = .up)).toNat)
  | 2 => wd (q.txc % 2 ^ 48)
  | _ => 0

/-- CMAPk of a die (Table 23.5): bit n stands for the physical core 64k + n of the die (R339). -/
def coreMap (s : State) (die k : Nat) : Word :=
  wd ((List.range 64).foldl (fun v n => v + (s.core (coreOfPhys die (64 * k + n))).present.toNat * 2 ^ n) 0)

/-- What the steward of a die reads in a machine register (R6, R353, R368, R384): 0 where the register has no number of
Tables 22.4, 23.5 and 25.3 or is another steward's. -/
def stewardRead (s : State) (die n : Nat) : Word :=
  if n = 0x400 then (s.die die).asidtb
  else if n = 0x401 then s.fabric.reg
  else if n = 0x402 then wd s.scanpri.toNat
  else if n = 0x403 then wd s.plfloor.toNat
  else if 0x440 ≤ n ∧ n < 0x444 then coreMap s die (n - 0x440)
  else if 0x480 ≤ n ∧ n < 0x4A0 then
    let p : Fin 8 := Fin.ofNat 8 ((n - 0x480) / 4)
    if portDie p = die then readLink (s.port p) ((n - 0x480) % 4) else 0
  else 0

/-- CSR_WRITE (R153, R353, R384). -/
def execCsrWrite (who : CsrAgent) (n : Nat) (w : Word) (s : State) : Host.Outcome State Fault Refusal :=
  match who with
  | .thread => threadWrite n w s
  | .steward die => .next (stewardWrite s die.val n w)

/-! The IEEE 1149.1 port (R381, R383). -/

/-- What the port reads. Of the arrays: a byte of a memory, cache or scratchpad by its key, the F/E tag of a word, an entry of
an instruction cache, of a translation cache, of an XU claim cache, of a frame table, or of a matrix scheduler (Table 23.1); an
entry of more than one word by its parts. -/
inductive JtagItem where
  | x (slot : Nat) (n : Fin 64)
  | v (slot : Nat) (n : Fin 16) (lane : Nat)
  | m (slot : Nat) (n : Fin 8) (half : Nat)
  | s (core : Nat) (n : Fin 8)
  | csr (slot n : Nat)
  | machineCsr (die n : Nat)
  | slotState (slot : Nat)
  | array (key : Nat)
  | tag (key : Nat)
  | cached (core i : Nat)
  | leaf (die i part : Nat)
  | claim (key : GroupKey) (elem part : Nat)
  | frame (clus i part : Nat)
  | record (i part : Nat)
  | linkKey (port : Fin 8)
  | keyMaterial (n : Nat)
  | xmss
  deriving DecidableEq, Repr

/-- The die of whose agents an item is, where a debug halt of it opens the item: register files, control registers and slot
states. -/
def JtagItem.die : JtagItem → Option Nat
  | .x t _ | .v t _ _ | .m t _ _ | .csr t _ | .slotState t => some (nameDie t)
  | .s c _ => some (c / 256)
  | .machineCsr d _ => some d
  | _ => none

/-- Whether the port gives the data of an item: in a package frozen while DBGEN was 1, which the stopped clocks leave as it
was, or on a die under debug halt. -/
def jtagOpen (s : State) (i : JtagItem) : Bool :=
  match s.power with
  | .frozen => s.host.dbgen
  | .on => match i.die with
    | some d => bit s.host.dhalt d
    | none => false
  | .off => false

/-- The parts of a cached leaf: ASID and VA page, its level, and the leaf. -/
def leafWords (e : BitVec 16 × Word × Nat × Word) : List Word := [wd e.1.toNat, e.2.1, wd e.2.2.1, e.2.2.2]

/-- The parts of an entry of a frame table (R159). -/
def FrameEnt.words (e : FrameEnt) : List Word :=
  [wd (e.live.toNat + 2 * e.orel.toNat + 4 * e.kind), wd e.core, wd e.base, wd e.size, wd e.count.toNat, wd e.gen.toNat]

/-- The parts of a claim entry (Table 3.6): its word, the claims queued for it and those held on it. -/
def Entry.words (e : Entry) : List Word :=
  let claim (q : ClaimReq) : Word := wd (q.node.toNat * 2 ^ 48 + q.elem % 2 ^ 48)
  wd e.word :: (e.fifo.map claim ++ e.held.map claim)

/-- The parts of a record in a matrix scheduler (Table 11.7): its words, its address, its state and its outcome. -/
def MRec.parts (m : MRec) : List Word :=
  m.words.toList ++ [m.va, wd (match m.state with
    | .waiting => 0
    | .running => 1
    | .complete => 2), wd m.code, wd m.pcode]

/-- The data of an item: keys and signing state give 0 in every case; a slot without a context has no registers. -/
def jtagData (s : State) : JtagItem → Word
  | .x t n => match (s.slot t).ctx with
    | some c => c.getX n
    | none => 0
  | .v t n lane => match (s.slot t).ctx with
    | some c => (c.v[n] >>> (64 * lane)).setWidth 64
    | none => 0
  | .m t n half => match (s.slot t).ctx with
    | some c => (c.m[n] >>> (64 * half)).setWidth 64
    | none => 0
  | .s c n => (s.core c).getS s.clock n
  | .csr t n => match (s.slot t).ctx with
    | some _ => readCsr { s with cur := t } n
    | none => 0
  | .machineCsr d n => stewardRead s d n
  | .slotState t => wd (slotCode s t)
  | .array k => wd (ofBytes (Mem.readN s.mem k 1))
  | .tag k => wd (isFull s k).toNat
  | .cached c i => match (s.core c).icache[i]? with
    | some e => wd e.half.toNat
    | none => 0
  | .leaf d i part => ((((s.die d).tlb[i]?).map leafWords).getD [])[part]?.getD 0
  | .claim g e part => ((((Tab.get? ((s.groups.find? (·.key == g)).elim [] (·.entries)) e).map Entry.words).getD []))[part]?.getD 0
  | .frame cl i part => ((s.ftab cl).toList[i]?.elim [] FrameEnt.words)[part]?.getD 0
  | .record i part => (s.records[i]?.elim [] MRec.parts)[part]?.getD 0
  | .linkKey _ | .keyMaterial _ | .xmss => 0

/-- A read of the IEEE 1149.1 port (R381, R383); the port performs no write. -/
def jtagRead (s : State) (i : JtagItem) : Word := if jtagOpen s i then jtagData s i else 0

end Sys2Proof.Machine
end

