-- ==== Sys2Proof/Machine/Kem.lean ====
section
/-! DEFINITION. ML-KEM-1024 of FIPS 203 (R369, R375, PRESUMED, log 12). A polynomial is the list of its 256 coefficients below
q = 3329; its transform is the list of its 128 remainders modulo X² - γ, two coefficients each. -/

namespace Sys2Proof.Machine

abbrev kemQ : Nat := 3329

/-- The seven bits of an index in reverse order. -/
def rev7 (i : Nat) : Nat := (List.range 7).foldl (fun v k => 2 * v + i / 2 ^ k % 2) 0

/-- The powers below q of 17, whose order is 256. -/
def powers17 : List Nat := (List.range 255).foldl (fun l _ => l ++ [l.getLastD 1 * 17 % kemQ]) [1]

/-- A power of 17. -/
def pow17 (n : Nat) : Nat := powers17.getD (n % 256) 1

/-- The exponent of the γ of remainder `i`. -/
def rootExp (i : Nat) : Nat := 2 * rev7 i + 1

/-- The transform: remainder `i` has the sums of the even and of the odd coefficients at γ. -/
def kemTransform (f : List Nat) : List Nat :=
  (List.range 256).map (fun p =>
    ((List.range 128).foldl (fun v j => v + f.getD (2 * j + p % 2) 0 * pow17 (rootExp (p / 2) * j)) 0) % kemQ)

/-- The polynomial of a transform; 3303 is the inverse of 128. -/
def kemUntransform (g : List Nat) : List Nat :=
  (List.range 256).map (fun p =>
    ((List.range 128).foldl (fun v i => v + g.getD (2 * i + p % 2) 0 * pow17 ((256 - rootExp i) * (p / 2))) 0) * 3303 % kemQ)

/-- The product of two transforms, remainder by remainder. -/
def kemTimes (f g : List Nat) : List Nat :=
  (List.range 256).map (fun p =>
    let b := p / 2 * 2
    let (f0, f1, g0, g1) := (f.getD b 0, f.getD (b + 1) 0, g.getD b 0, g.getD (b + 1) 0)
    (if p % 2 = 0 then f0 * g0 + f1 * g1 % kemQ * pow17 (rootExp (p / 2)) else f0 * g1 + f1 * g0) % kemQ)

/-- Sums and differences. -/
def kemPlus (f g : List Nat) : List Nat := List.zipWith (fun a b => (a + b) % kemQ) f g
def kemMinus (f g : List Nat) : List Nat := List.zipWith (fun a b => (a + kemQ - b) % kemQ) f g

/-- The sum of the products of two vectors. -/
def kemDot (u v : List (List Nat)) : List Nat := (List.zipWith kemTimes u v).foldl kemPlus (List.replicate 256 0)

/-- Coefficients packed in `d` bits each, the first least significant, and unpacked. -/
def kemPack (d : Nat) (f : List Nat) : List Byte := toBytes (32 * d) (f.foldr (fun a v => a + 2 ^ d * v) 0)
def kemUnpack (d : Nat) (l : List Byte) : List Nat :=
  let v := ofBytes l
  (List.range 256).map (fun i => v / 2 ^ (d * i) % 2 ^ d)

/-- Coefficients rounded to `d` bits and back. -/
def kemShrink (d : Nat) (f : List Nat) : List Nat := f.map (fun a => (2 * a * 2 ^ d + kemQ) / (2 * kemQ) % 2 ^ d)
def kemGrow (d : Nat) (f : List Nat) : List Nat := f.map (fun a => (2 * kemQ * a + 2 ^ d) / 2 ^ (d + 1))

/-- A transform drawn from a seed and two indices: the 12-bit numbers below q of the stream, in order. -/
def kemUniform (rho : List Byte) (i j : Nat) : List Nat :=
  let s := shake128 2016 (rho ++ [BitVec.ofNat 8 j, BitVec.ofNat 8 i])
  (((pieces 3 s).flatMap (fun b => [ofBytes b % 4096, ofBytes b / 4096])).filter (· < kemQ)).take 256

/-- A small polynomial drawn from a seed and a number: each coefficient the difference of two sums of two bits. -/
def kemSmall (seed : List Byte) (n : Nat) : List Nat :=
  let v := ofBytes (shakeBytes 128 (seed ++ [BitVec.ofNat 8 n]))
  let b (i : Nat) : Nat := v / 2 ^ i % 2
  (List.range 256).map (fun i => (b (4 * i) + b (4 * i + 1) + kemQ - b (4 * i + 2) - b (4 * i + 3)) % kemQ)

/-- Row or column `i` of the matrix of a seed. -/
def kemRow (rho : List Byte) (i : Nat) : List (List Nat) := (List.range 4).map (fun j => kemUniform rho i j)
def kemCol (rho : List Byte) (i : Nat) : List (List Nat) := (List.range 4).map (fun j => kemUniform rho j i)

/-- The key pair of two seeds of 32 bytes: the encapsulation key, 1,568 bytes, and the secret vector packed. -/
@[irreducible] def kemPair (d : List Byte) : List Byte × List Byte :=
  let g := sha3w512 (d ++ [4])
  let (rho, sigma) := (g.take 32, g.drop 32)
  let s := (List.range 4).map (fun i => kemTransform (kemSmall sigma i))
  let t := (List.range 4).map (fun i => kemPlus (kemDot (kemRow rho i) s) (kemTransform (kemSmall sigma (4 + i))))
  (t.flatMap (kemPack 12) ++ rho, s.flatMap (kemPack 12))

/-- The encryption of 32 bytes under an encapsulation key with given randomness, 1,568 bytes. -/
@[irreducible] def kemEncrypt (ek m r : List Byte) : List Byte :=
  let t := (pieces 384 (ek.take 1536)).map (fun l => (kemUnpack 12 l).map (· % kemQ))
  let rho := ek.drop 1536
  let y := (List.range 4).map (fun i => kemTransform (kemSmall r i))
  let u := (List.range 4).map (fun i => kemPlus (kemUntransform (kemDot (kemCol rho i) y)) (kemSmall r (4 + i)))
  let v := kemPlus (kemPlus (kemUntransform (kemDot t y)) (kemSmall r 8)) (kemGrow 1 (kemUnpack 1 m))
  u.flatMap (fun f => kemPack 11 (kemShrink 11 f)) ++ kemPack 5 (kemShrink 5 v)

/-- The 32 bytes of a ciphertext under a packed secret vector. -/
def kemDecrypt (sk c : List Byte) : List Byte :=
  let s := (pieces 384 sk).map (kemUnpack 12)
  let u := (pieces 352 (c.take 1408)).map (fun l => kemGrow 11 (kemUnpack 11 l))
  let v := kemGrow 5 (kemUnpack 5 (c.drop 1408))
  kemPack 1 (kemShrink 1 (kemMinus v (kemUntransform (kemDot s (u.map kemTransform)))))

/-- A shared secret of 32 bytes and its ciphertext, from 32 random bytes. -/
def kemEncaps (ek m : List Byte) : List Byte × List Byte :=
  let g := sha3w512 (m ++ sha3w256 ek)
  (g.take 32, kemEncrypt ek m (g.drop 32))

/-- The shared secret of a ciphertext, for the key pair of two seeds: one that was not made from its message gives a secret of
its own. -/
def kemDecaps (d z c : List Byte) : List Byte :=
  let (ek, sk) := kemPair d
  let m := kemDecrypt sk c
  let g := sha3w512 (m ++ sha3w256 ek)
  if kemEncrypt ek m (g.drop 32) = c then g.take 32 else shakeBytes 32 (z ++ c)

end Sys2Proof.Machine
end

