-- ==== Sys2Proof/Machine/Xmss.lean ====
section
/-! DEFINITION. XMSS-SHAKE256_20_256 of RFC 8391 and SP 800-208 (R369, PRESUMED, log 12): one tree of height 20 over one-time
keys of 67 chains of 16, with hashes of 32 bytes. -/

namespace Sys2Proof.Machine

/-- A hash of 32 bytes under a key, told apart by its tag: 0 chains, 1 tree nodes, 2 messages, 3 masks and keys, 4 secrets. -/
def tagHash (tag : Nat) (key l : List Byte) : List Byte := shakeBytes 32 (beBytes 32 tag ++ key ++ l)

/-- The address of a hash: its kind (0 chain, 1 key compression, 2 tree) and what it names; layer and tree are 0. -/
def hashAddr (kind a b c mask : Nat) : List Byte :=
  beBytes 12 0 ++ beBytes 4 kind ++ beBytes 4 a ++ beBytes 4 b ++ beBytes 4 c ++ beBytes 4 mask

/-- Two nodes joined into their parent. -/
def joinNodes (seed : List Byte) (kind a b c : Nat) (l r : List Byte) : List Byte :=
  let m (i : Nat) : List Byte := tagHash 3 seed (hashAddr kind a b c i)
  tagHash 1 (m 0) (xorL l (m 1) ++ xorL r (m 2))

/-- A chain's value moved on by `n` steps from step `i`. -/
def chainOn (seed : List Byte) (leaf chain : Nat) : Nat → Nat → List Byte → List Byte
  | 0, _, x => x
  | n + 1, i, x =>
    let m (k : Nat) : List Byte := tagHash 3 seed (hashAddr 0 leaf chain i k)
    chainOn seed leaf chain n (i + 1) (tagHash 0 (m 0) (xorL x (m 1)))

/-- The 64 digits of a digest, the high one of each byte first, and the three of their checksum. -/
def wotsDigits (d : List Byte) : List Nat :=
  let ds := d.flatMap (fun b => [b.toNat / 16, b.toNat % 16])
  let c := (ds.map (15 - ·)).sum
  ds ++ [c / 256, c / 16 % 16, c % 16]

/-- A level of a key's compression: pairs joined, an odd last one kept. -/
def joinPairs (seed : List Byte) (leaf level : Nat) (l : List (List Byte)) : List (List Byte) :=
  (pieces 2 l).zipIdx.map (fun e =>
    match e.1 with
    | [a, b] => joinNodes seed 1 leaf level e.2 a b
    | l => l.flatten)

/-- The leaf of a one-time key: the ends of its 67 chains compressed in seven levels. -/
def leafFrom (seed : List Byte) (leaf : Nat) (ends : List (List Byte)) : List Byte :=
  ((List.range 7).foldl (fun l level => joinPairs seed leaf level l) ends).flatten

/-- The start of a chain, from the secret seed. -/
def chainStart (secret seed : List Byte) (leaf chain : Nat) : List Byte := tagHash 4 secret (seed ++ hashAddr 0 leaf chain 0 0)

/-- The node of a height and index, from the secret seed. -/
def treeNode (secret seed : List Byte) : Nat → Nat → List Byte
  | 0, i => leafFrom seed i ((List.range 67).map (fun c => chainOn seed i c 15 0 (chainStart secret seed i c)))
  | h + 1, i => joinNodes seed 2 0 h i (treeNode secret seed h (2 * i)) (treeNode secret seed h (2 * i + 1))

/-- The secret part of a key pair: the chains' seed, the messages' seed and the public seed, 32 bytes each. -/
structure XmssSecret where
  chains : List Byte
  msgs : List Byte
  pub : List Byte

/-- The secret part held in 96 bytes. -/
def XmssSecret.of (v : BitVec 768) : XmssSecret :=
  let l := toBytes 96 v.toNat
  ⟨l.take 32, (l.drop 32).take 32, l.drop 64⟩

/-- The public key: the number of the parameter set, the root and the public seed, 68 bytes. -/
@[irreducible] def XmssSecret.key (k : XmssSecret) : List Byte := beBytes 4 0x12 ++ treeNode k.chains k.pub 20 0 ++ k.pub

/-- The digest of a message with its randomiser, the root and the leaf. -/
def xmssDigest (rnd root : List Byte) (leaf : Nat) (l : List Byte) : List Byte := tagHash 2 (rnd ++ root ++ beBytes 32 leaf) l

/-- The signature of a message with a leaf: the leaf's number, the randomiser, 67 chain values and the 20 nodes beside the path,
2,820 bytes. -/
@[irreducible] def XmssSecret.sign (k : XmssSecret) (leaf : Nat) (l : List Byte) : List Byte :=
  let rnd := tagHash 3 k.msgs (beBytes 32 leaf)
  let ds := wotsDigits (xmssDigest rnd ((k.key.drop 4).take 32) leaf l)
  beBytes 4 leaf ++ rnd ++
    ds.zipIdx.flatMap (fun e => chainOn k.pub leaf e.2 e.1 0 (chainStart k.chains k.pub leaf e.2)) ++
    (List.range 20).flatMap (fun h => treeNode k.chains k.pub h ((leaf / 2 ^ h) ^^^ 1))

/-- Whether a signature verifies under a public key: its chains run to their ends and its path to the root. -/
@[irreducible] def xmssVerify (key l sig : List Byte) : Bool :=
  let seed := key.drop 36
  let root := (key.drop 4).take 32
  let leaf := beNat (sig.take 4)
  let at32 (i : Nat) : List Byte := (sig.drop (36 + 32 * i)).take 32
  let ends := (wotsDigits (xmssDigest ((sig.drop 4).take 32) root leaf l)).zipIdx.map
    (fun e => chainOn seed leaf e.2 (15 - e.1) e.1 (at32 e.2))
  let top := (List.range 20).foldl (fun x h =>
    let y := at32 (67 + h)
    let i := leaf / 2 ^ h
    if i % 2 = 0 then joinNodes seed 2 0 h (i / 2) x y else joinNodes seed 2 0 h (i / 2) y x) (leafFrom seed leaf ends)
  key.take 4 == beBytes 4 0x12 && key.length == 68 && sig.length == 2820 && decide (leaf < 2 ^ 20) && top == root

end Sys2Proof.Machine
end

