-- ==== Sys2Proof/Machine/Lineage.lean ====
section
/-! DEFINITION. Identity (R369), counter advances and the record table (R372, R374). -/

namespace Sys2Proof.Machine

/-! Identity. -/

/-- The number of `n` bytes at an offset. -/
def numAt (l : List Byte) (off n : Nat) : Nat := ofBytes ((l.drop off).take n)

/-- The bytes of a signature (Table 24.1). -/
def sigLen : Nat := 2820

/-- The vendor root's key pair, the identity key pair of the package with a serial, and its public key. -/
def rootPair : XmssSecret := .of Config.rootSecret
def identPair (serial : BitVec 128) : XmssSecret := .of (Config.identSecret serial)
def identKey (serial : BitVec 128) : List Byte := (identPair serial).key

/-- The two seeds of the package's KEM key, and its encapsulation key. -/
def kemSeeds : List Byte × List Byte := (toBytes 64 Config.kemSecret.toNat).splitAt 32
def kemKey : List Byte := (kemPair kemSeeds.1).1

/-- The bytes of a certificate that its signature covers (Table 24.1). -/
def certBody (kind : Nat) (serial issuer : BitVec 128) (key : List Byte) : List Byte :=
  toBytes 8 (0x43455254 * 2 ^ 32 + kind) ++ toBytes 16 serial.toNat ++ toBytes 16 issuer.toNat ++ toBytes 8 key.length ++ key

/-- The identity certificate of the package with a serial, which the vendor root signs. -/
def identCert (serial : BitVec 128) : List Byte :=
  let b := certBody 1 serial 0 (identKey serial)
  b ++ rootPair.sign (Config.identLeaf serial).toNat b

/-- The package's KEM certificate, which its identity key signs with its first leaf (log 48). -/
def kemCert : List Byte :=
  let b := certBody 2 Config.serial Config.serial kemKey
  b ++ (identPair Config.serial).sign 0 b

/-- Whether a certificate is laid out for a kind with its key length, and its signature verifies under a key. -/
def certSigned (kind klen : Nat) (key : List Byte) (c : List Byte) : Bool :=
  numAt c 0 8 == 0x43455254 * 2 ^ 32 + kind && numAt c 0x28 8 == klen &&
    xmssVerify key (c.take (0x30 + klen)) ((c.drop (0x30 + klen)).take sigLen)

/-- Whether an identity certificate is signed by the vendor root's key, the one whose hash the fuses hold. -/
def identOk (c : List Byte) : Bool := numAt c 0x18 16 == 0 && certSigned 1 68 rootPair.key c

/-- Whether the certificate of the package with a serial chains to the vendor root. -/
def serialOk (serial : BitVec 128) : Bool := identOk (identCert serial)

/-- Whether a KEM certificate chains to the vendor root. -/
def kemCertOk (c : List Byte) : Bool :=
  let issuer : BitVec 128 := BitVec.ofNat 128 (numAt c 0x18 16)
  certSigned 2 1568 (identKey issuer) c && serialOk issuer

/-! Counter advances. -/

/-- The bytes of a counter advance that its signature covers. -/
def advanceBytes (a : Advance) : List Byte :=
  toBytes 16 a.lineage.toNat ++ toBytes 8 a.counter.toNat ++ toBytes 64 a.meas.toNat ++ a.cert

/-- The record of a lineage. -/
def Seal.record (l : Seal) (id : BitVec 128) : Option LineRec := l.records.find? (·.id == id)

/-- The record table after a verified advance, with the counter now recorded and whether the table is full. -/
def Seal.advance (l : Seal) (id : BitVec 128) (c : BitVec 40) : BitVec 40 × Bool × Seal :=
  match l.record id with
  | some r =>
    let n := if r.counter.toNat < c.toNat then c else r.counter
    (n, false, { l with records := l.records.map (fun (e : LineRec) => if e.id = id then { e with counter := n } else e) })
  | none =>
    if 1024 ≤ l.records.length then (0, true, l)
    else (c, false, { l with records := l.records ++ [⟨id, c, none⟩] })

/-- An advance that has arrived: dropped where its signature or chain does not verify. -/
def takeAdvance (s : State) (a : Advance) : Option (BitVec 40 × Bool) × State :=
  if identOk a.cert && xmssVerify ((a.cert.drop 0x30).take 68) (advanceBytes a) a.sig then
    let (n, full, l) := s.lineage.advance a.lineage a.counter
    (some (n, full), { s with lineage := l })
  else (none, s)

/-- COUNTER_ADVANCE_ARRIVAL (R374). -/
def execCounterAdvanceArrival (a : Advance) (s : State) : Host.Outcome State Fault Refusal := .next (takeAdvance s a).2

/-- COUNTER_ADVANCE_ACK (R374): a pending advance is done once the acknowledged counter is at least its own; that a peer has
acknowledged with *full* is kept for the SEAL in progress. -/
def execCounterAdvanceAck (peer lineage : BitVec 128) (counter : BitVec 40) (full : Bool) (s : State) :
    Host.Outcome State Fault Refusal :=
  .next (if full then
      { s with lineage := { s.lineage with job := s.lineage.job.map (fun j => { j with full := peer :: j.full }) } }
    else { s with lineage := { s.lineage with pending := s.lineage.pending.filter (fun e =>
      !(e.1 == peer && e.2.lineage == lineage && decide (e.2.counter.toNat ≤ counter.toNat))) } })

/-- An advance sent to a peer: to this package itself, or over the fabric where no request for it is unanswered; one that is
not present is tried again, so that it gets the advance once it is (R374). -/
def sendAdvance (s : State) (peer : BitVec 128) (a : Advance) : State :=
  if peer = Config.serial then
    match takeAdvance s a with
    | (some (n, full), s) => s.due (.counterAdvanceAck peer a.lineage n full)
    | (none, s) => s
  else match Config.peerNode peer with
  | none => s
  | some n =>
    if (absentCode s n).isSome then s.timeout retryClocks (.counterAdvanceResend peer a.lineage)
    else if (s.fabric.sent ++ s.fabric.waiting).any (fun q => q.dest == n && q.req.body == .advance a) then s
    else fabSend s n 0 0 0 (.advance a) (.advance peer a.lineage)

/-- COUNTER_ADVANCE_RESEND (R374). -/
def execCounterAdvanceResend (peer lineage : BitVec 128) (s : State) : Host.Outcome State Fault Refusal :=
  .next ((s.lineage.pending.filter (fun e => e.1 == peer && e.2.lineage == lineage)).foldl
    (fun s e => sendAdvance s peer e.2) s)

end Sys2Proof.Machine
end

