-- ==== Sys2Proof/Machine/Scalar.lean ====
section
/-! DEFINITION. Scalar arithmetic and logic: ALU-A, ALU-B, ADDI and MOVI (R140 to R143). -/

namespace Sys2Proof.Machine

/-- 1 where a condition holds, else 0. -/
def flag (b : Bool) : Word := if b then 1 else 0

def rotl (a b : Word) : Word := a.rotateLeft (b.toNat % 64)
def smin (a b : Word) : Word := if a.toInt ≤ b.toInt then a else b
def smax (a b : Word) : Word := if a.toInt ≤ b.toInt then b else a
def umin (a b : Word) : Word := if a.toNat ≤ b.toNat then a else b
def umax (a b : Word) : Word := if a.toNat ≤ b.toNat then b else a

/-- Quotient and remainder (R141), rounded toward zero. -/
def divRem (signed : Bool) (a b : Word) : Word × Word :=
  if b = 0 then (BitVec.allOnes 64, a)
  else if signed then
    (BitVec.ofInt 64 (a.toInt.tdiv b.toInt), BitVec.ofInt 64 (a.toInt.tmod b.toInt))
  else (wd (a.toNat / b.toNat), wd (a.toNat % b.toNat))

/-- Bits [127:64] of a signed product. -/
def mulHigh (a b : Word) : Word := BitVec.ofInt 64 (a.toInt * b.toInt / 2 ^ 64)

/-- Leading and trailing zeros and 1 bits of a word. -/
def clzW (a : Word) : Word := if a = 0 then 64 else wd (63 - Nat.log2 a.toNat)
def ctzW (a : Word) : Word := wd (((List.range 64).find? (fun i => a.getLsbD i)).getD 64)
def popcW (a : Word) : Word := wd ((List.range 64).filter (fun i => a.getLsbD i)).length

/-- The length a field specifier gives (R142). -/
def fieldLen (spec : Word) : Nat := min (bits spec 14 8) (64 - bits spec 5 0)

/-- BFX (R142). -/
def bfxW (v spec : Word) : Word :=
  let len := fieldLen spec
  if len = 0 then 0
  else
    let f := v.toNat / 2 ^ bits spec 5 0 % 2 ^ len
    if bit spec 15 then BitVec.ofInt 64 (sext len f) else wd f

/-- BFI (R142). -/
def bfiW (v spec d : Word) : Word :=
  let len := fieldLen spec
  let pos := bits spec 5 0
  if len = 0 then d else setBits d (pos + len - 1) pos v.toNat

/-- MOV (R140). -/
def execMov (o : Ops) (s : State) : Host.Outcome State Fault Refusal :=
  runM (unary id o) s

/-- ADD (R140). -/
def execAdd (o : Ops) (s : State) : Host.Outcome State Fault Refusal :=
  runM (binary (fun a b => a + b) o) s

/-- SUB (R140). -/
def execSub (o : Ops) (s : State) : Host.Outcome State Fault Refusal :=
  runM (binary (fun a b => a - b) o) s

/-- AND (R140). -/
def execAnd (o : Ops) (s : State) : Host.Outcome State Fault Refusal :=
  runM (binary (fun a b => a &&& b) o) s

/-- OR (R140). -/
def execOr (o : Ops) (s : State) : Host.Outcome State Fault Refusal :=
  runM (binary (fun a b => a ||| b) o) s

/-- XOR (R140). -/
def execXor (o : Ops) (s : State) : Host.Outcome State Fault Refusal :=
  runM (binary (fun a b => a ^^^ b) o) s

/-- ANDN (R140). -/
def execAndn (o : Ops) (s : State) : Host.Outcome State Fault Refusal :=
  runM (binary (fun a b => a &&& ~~~b) o) s

/-- SHL (R140): the count is b[5:0]. -/
def execShl (o : Ops) (s : State) : Host.Outcome State Fault Refusal :=
  runM (binary (fun a b => a <<< (b.toNat % 64)) o) s

/-- SHR (R140). -/
def execShr (o : Ops) (s : State) : Host.Outcome State Fault Refusal :=
  runM (binary (fun a b => a >>> (b.toNat % 64)) o) s

/-- SHA (R140). -/
def execSha (o : Ops) (s : State) : Host.Outcome State Fault Refusal :=
  runM (binary (fun a b => a.sshiftRight (b.toNat % 64)) o) s

/-- ROL (R140). -/
def execRol (o : Ops) (s : State) : Host.Outcome State Fault Refusal :=
  runM (binary (fun a b => rotl a b) o) s

/-- SLT (R140). -/
def execSlt (o : Ops) (s : State) : Host.Outcome State Fault Refusal :=
  runM (binary (fun a b => flag (decide (a.toInt < b.toInt))) o) s

/-- SLTU (R140). -/
def execSltu (o : Ops) (s : State) : Host.Outcome State Fault Refusal :=
  runM (binary (fun a b => flag (decide (a.toNat < b.toNat))) o) s

/-- SEQ (R140). -/
def execSeq (o : Ops) (s : State) : Host.Outcome State Fault Refusal :=
  runM (binary (fun a b => flag (a == b)) o) s

/-- MIN (R140). -/
def execMin (o : Ops) (s : State) : Host.Outcome State Fault Refusal :=
  runM (binary (fun a b => smin a b) o) s

/-- MAX (R140). -/
def execMax (o : Ops) (s : State) : Host.Outcome State Fault Refusal :=
  runM (binary (fun a b => smax a b) o) s

/-- ADDI (R143). -/
def execAddi (o : Ops) (s : State) : Host.Outcome State Fault Refusal :=
  runM (do
    let v ← readX o.a.x
    toX o.a.x (v + BitVec.ofInt 64 o.imm)
    return .seq) s

/-- MOVI (R143). -/
def execMovi (o : Ops) (s : State) : Host.Outcome State Fault Refusal :=
  runM (do
    toX o.a.x (BitVec.ofInt 64 o.imm)
    return .seq) s

/-- MUL (R141). -/
def execMul (o : Ops) (s : State) : Host.Outcome State Fault Refusal :=
  runM (binary (fun a b => a * b) o) s

/-- MULH (R141). -/
def execMulh (o : Ops) (s : State) : Host.Outcome State Fault Refusal :=
  runM (binary (fun a b => mulHigh a b) o) s

/-- MULHU (R141). -/
def execMulhu (o : Ops) (s : State) : Host.Outcome State Fault Refusal :=
  runM (binary (fun a b => wd (a.toNat * b.toNat / 2 ^ 64)) o) s

/-- DIV (R141). -/
def execDiv (o : Ops) (s : State) : Host.Outcome State Fault Refusal :=
  runM (binary (fun a b => (divRem true a b).1) o) s

/-- DIVU (R141). -/
def execDivu (o : Ops) (s : State) : Host.Outcome State Fault Refusal :=
  runM (binary (fun a b => (divRem false a b).1) o) s

/-- REM (R141). -/
def execRem (o : Ops) (s : State) : Host.Outcome State Fault Refusal :=
  runM (binary (fun a b => (divRem true a b).2) o) s

/-- REMU (R141). -/
def execRemu (o : Ops) (s : State) : Host.Outcome State Fault Refusal :=
  runM (binary (fun a b => (divRem false a b).2) o) s

/-- MINU (R141). -/
def execMinu (o : Ops) (s : State) : Host.Outcome State Fault Refusal :=
  runM (binary (fun a b => umin a b) o) s

/-- MAXU (R141). -/
def execMaxu (o : Ops) (s : State) : Host.Outcome State Fault Refusal :=
  runM (binary (fun a b => umax a b) o) s

/-- CLZ (R141). -/
def execClz (o : Ops) (s : State) : Host.Outcome State Fault Refusal :=
  runM (unary clzW o) s

/-- CTZ (R141). -/
def execCtz (o : Ops) (s : State) : Host.Outcome State Fault Refusal :=
  runM (unary ctzW o) s

/-- POPC (R141). -/
def execPopc (o : Ops) (s : State) : Host.Outcome State Fault Refusal :=
  runM (unary popcW o) s

/-- ABS (R141). -/
def execAbs (o : Ops) (s : State) : Host.Outcome State Fault Refusal :=
  runM (unary (fun v => if v.msb then -v else v) o) s

/-- NEG (R141). -/
def execNeg (o : Ops) (s : State) : Host.Outcome State Fault Refusal :=
  runM (unary (fun v => -v) o) s

/-- BFX (R142). -/
def execBfx (o : Ops) (s : State) : Host.Outcome State Fault Refusal :=
  runM (binary bfxW o) s

/-- BFI (R142): the field is taken from B and placed into the old destination. -/
def execBfi (o : Ops) (s : State) : Host.Outcome State Fault Refusal :=
  runM (ternary bfiW o) s

end Sys2Proof.Machine
end

