-- ==== Sys2Proof/Machine/Mem.lean ====
section
/-! DEFINITION. Loads and stores (R173 to R177), full/empty operations (R71, R178), atomics (R179, R180), phases,
fences and barriers (R94, R181, R182), and completion tags (R184). -/

namespace Sys2Proof.Machine

/-! Weak loads and stores. -/

/-- A loaded value of n bytes in 64 bits (R174). -/
def extend (n : Nat) (signed : Bool) (v : Nat) : Word :=
  if signed then BitVec.ofInt 64 (sext (8 * n) v) else wd (v % 2 ^ (8 * n))

/-- A load of n bytes into an x register: at once from the issuing core's scratchpad (R65), else pending. -/
def loadX (va : Word) (p : Place) (n : Nat) (signed : Bool) (dst : Fin 64) (inputs : RegSet) : M Unit := do
  match ← nearLoad va p n with
  | some v => writeX dst (extend n signed v)
  | none => sendLoad n [(0, va, p.key)] (.x dst signed) inputs

/-- A load whose destination is a frame slot: the value is waited for, then stored (log 20). -/
def loadFrame (va : Word) (p : Place) (n : Nat) (signed : Bool) (a : Opd) : M Unit := do
  let d ← prepDst a
  let v ← awaitLoad n va p loadPos
  writeDst d (extend n signed v.toNat)

/-- A weak scalar load (R170, R173, R174). -/
def weakLoad (n : Nat) (signed index : Bool) (o : Ops) : M Ctl := do
  let va ← effAddr o index (if o.a.isFrame then [] else [o.a.num])
  match o.a with
  | .r dst =>
    needDst dst.val
    let p ← checkPlace va n
    fate va p
    loadX va p n signed dst (addrRegs o index)
  | .f _ _ =>
    let p ← checkPlace va n
    fate va p
    loadFrame va p n signed o.a
  return .seq

/-- A weak scalar store of the low n bytes of its data (R170, R173, R174). -/
def weakStore (n : Nat) (index : Bool) (o : Ops) : M Ctl := do
  let va ← effAddr o index
  let v ← readOpd o.a 1
  let p ← checkPlace va n
  checkXu va n
  fate va p
  sendStore [(va, p.key, toBytes n v.toNat)]
  return .seq

/-- LD (R173). -/
def execLd (o : Ops) (s : State) : Host.Outcome State Fault Refusal := runM (weakLoad 8 false false o) s
/-- ST (R173). -/
def execSt (o : Ops) (s : State) : Host.Outcome State Fault Refusal := runM (weakStore 8 false o) s
/-- LDB (R174). -/
def execLdb (o : Ops) (s : State) : Host.Outcome State Fault Refusal := runM (weakLoad 1 true true o) s
/-- LDBU (R174). -/
def execLdbu (o : Ops) (s : State) : Host.Outcome State Fault Refusal := runM (weakLoad 1 false true o) s
/-- LDH (R174). -/
def execLdh (o : Ops) (s : State) : Host.Outcome State Fault Refusal := runM (weakLoad 2 true true o) s
/-- LDHU (R174). -/
def execLdhu (o : Ops) (s : State) : Host.Outcome State Fault Refusal := runM (weakLoad 2 false true o) s
/-- LDW (R174). -/
def execLdw (o : Ops) (s : State) : Host.Outcome State Fault Refusal := runM (weakLoad 4 true true o) s
/-- LDWU (R174). -/
def execLdwu (o : Ops) (s : State) : Host.Outcome State Fault Refusal := runM (weakLoad 4 false true o) s
/-- LDD (R174). -/
def execLdd (o : Ops) (s : State) : Host.Outcome State Fault Refusal := runM (weakLoad 8 false true o) s
/-- STB (R174). -/
def execStb (o : Ops) (s : State) : Host.Outcome State Fault Refusal := runM (weakStore 1 true o) s
/-- STH (R174). -/
def execSth (o : Ops) (s : State) : Host.Outcome State Fault Refusal := runM (weakStore 2 true o) s
/-- STW (R174). -/
def execStw (o : Ops) (s : State) : Host.Outcome State Fault Refusal := runM (weakStore 4 true o) s
/-- STD (R174). -/
def execStd (o : Ops) (s : State) : Host.Outcome State Fault Refusal := runM (weakStore 8 true o) s

/-- LDP (R175): two weak loads of one instruction. -/
def execLdp (o : Ops) (s : State) : Host.Outcome State Fault Refusal :=
  runM (do
    let d := o.a.x
    let d' : Fin 64 := Fin.ofNat 64 (d.val + 1)
    let va ← effAddr o true [d.val, d'.val]
    needDst d.val
    needDst d'.val
    let p ← checkPlace va 16
    fate va p
    let inputs := addrRegs o true
    loadX va p 8 false d inputs
    loadX (va + 8) (match p with
      | .arr k => .arr (k + 8)
      | .ord h => .ord h) 8 false d' inputs
    return .seq) s

/-- LEA (R176): it makes no access and takes no trap of R170. -/
def execLea (o : Ops) (s : State) : Host.Outcome State Fault Refusal :=
  runM (do
    let va ← effAddr o true
    let d ← prepDst o.a
    writeDst d va
    return .seq) s

/-- PF (R176): a hint without effect on what a program sees; it never faults and never parks. -/
def execPf (_o : Ops) (s : State) : Host.Outcome State Fault Refusal := runM (return .seq) s

/-! Strong operations. -/

/-- A value for a destination that a device step has left for the instruction, which then only writes it. -/
def taken (a : Opd) : M (Option Word) := do
  if a.isFrame then return ((← ctx).got.find? (·.1 == loadPos)).map (·.2) else return none

/-- A strong operation issued (R92, R93, R171, R172): `need` its permission, `write` whether the XU's memory is
shut to it, `op` what it does. In the issuing core's scratchpad it is performed at once (R65); elsewhere it holds the thread
if it acquires, is STS, or writes a frame slot. -/
def strongOp (o : Ops) (va : Word) (need : Need) (write hold : Bool) (a : Option Opd) (op : StrongOp) : M Ctl := do
  let d ← match a with
    | some a => some <$> prepDst a
    | none => pure none
  let p ← checkPlace va 8
  if write then checkXu va 8
  fate va p
  needStrong
  if qRel o.q then release .none 0 (qScope o.q)
  let key ← strongKey p va need
  let s ← get
  let c := s.ctx
  if atCore s.myCore [p.key] && !c.storesBefore (c.seq + 1) key 8 && !c.loadsBefore (c.seq + 1) key 8 then
    let (v, s) := strongDo s (.thread c.cid) c.seq ⟨qScope o.q, some s.myCore⟩ key none op
    set s
    if qAcq o.q then acquire (qScope o.q)
    match d with
    | some d => writeDst d v
    | none => pure ()
    return .seq
  let frame := match a with
    | some (.f _ _) => true
    | _ => false
  sendStrong op va key (match a with
    | some (.r n) => n
    | _ => 0) (qAcq o.q) (qScope o.q) (hold || qAcq o.q || frame) frame

/-- LDS (R177). -/
def execLds (o : Ops) (s : State) : Host.Outcome State Fault Refusal :=
  runM (do
    match ← taken o.a with
    | some v =>
      let d ← prepDst o.a
      writeDst d v
      return .seq
    | none =>
      let va ← effAddr o true
      strongOp o va .r false false (some o.a) .load) s

/-- STS (R177): the thread parks until the store is performed (R172). -/
def execSts (o : Ops) (s : State) : Host.Outcome State Fault Refusal :=
  runM (do
    let va ← effAddr o true
    let v ← readOpd o.a 1
    strongOp o va .w true true none (.store v)) s

/-- An AMO (R179, R180): under REG the operand is xC and A the destination, else A is both; CAS takes the expected
value from A and the new one from xC. -/
def amo (fn : Nat) (o : Ops) : M Ctl := do
  match ← taken o.a with
  | some v =>
    let d ← prepDst o.a
    writeDst d v
    return .seq
  | none =>
    let va ← effAddr o false
    let (v, cas) ← match o.c with
      | some c => do
        let w ← readX c
        if fn = 9 then
          let old ← readOpd o.a 1
          pure (old, w)
        else pure (w, 0)
      | none => if fn = 11 ∨ fn = 12 then pure (0, 0) else do
        let w ← readOpd o.a 1
        pure (w, 0)
    strongOp o va .rw true false (some o.a) (.amo fn v cas)

/-- AMOADD (R180). -/
def execAmoadd (o : Ops) (s : State) : Host.Outcome State Fault Refusal := runM (amo 0 o) s
/-- AMOAND (R180). -/
def execAmoand (o : Ops) (s : State) : Host.Outcome State Fault Refusal := runM (amo 1 o) s
/-- AMOOR (R180). -/
def execAmoor (o : Ops) (s : State) : Host.Outcome State Fault Refusal := runM (amo 2 o) s
/-- AMOXOR (R180). -/
def execAmoxor (o : Ops) (s : State) : Host.Outcome State Fault Refusal := runM (amo 3 o) s
/-- AMOMIN (R180). -/
def execAmomin (o : Ops) (s : State) : Host.Outcome State Fault Refusal := runM (amo 4 o) s
/-- AMOMAX (R180). -/
def execAmomax (o : Ops) (s : State) : Host.Outcome State Fault Refusal := runM (amo 5 o) s
/-- AMOMINU (R180). -/
def execAmominu (o : Ops) (s : State) : Host.Outcome State Fault Refusal := runM (amo 6 o) s
/-- AMOMAXU (R180). -/
def execAmomaxu (o : Ops) (s : State) : Host.Outcome State Fault Refusal := runM (amo 7 o) s
/-- AMOSWP (R180). -/
def execAmoswp (o : Ops) (s : State) : Host.Outcome State Fault Refusal := runM (amo 8 o) s
/-- AMOCAS (R179, R180). -/
def execAmocas (o : Ops) (s : State) : Host.Outcome State Fault Refusal := runM (amo 9 o) s
/-- AMOFADD (R180): RNE on binary64 whatever the mode. -/
def execAmofadd (o : Ops) (s : State) : Host.Outcome State Fault Refusal := runM (amo 10 o) s
/-- AMOINC (R180). -/
def execAmoinc (o : Ops) (s : State) : Host.Outcome State Fault Refusal := runM (amo 11 o) s
/-- AMODEC (R180): 0 stays 0 and raises no event. -/
def execAmodec (o : Ops) (s : State) : Host.Outcome State Fault Refusal := runM (amo 12 o) s

/-! Full/empty operations. -/

/-- Whether an operation of Table 4.5 goes on in the state of its word. -/
def feReady (s : State) (fn key : Nat) : Bool :=
  match fn with
  | 0 => isFull s key
  | 1 => isFull s key
  | 2 => !isFull s key
  | _ => true

/-- The tag set, and the waiters of the word told when it changes (R73). -/
def feTag (s : State) (key : Nat) (b : Bool) : State :=
  if isFull s key = b then s else (setFull s key b).due (.feWordStateChange key)

/-- An operation of Table 4.5 performed at the array, in one step (R71). -/
def feDo (s : State) (a : Agent) (m : Mark) (seq fn key : Nat) (v : Word) : Word × State :=
  match fn with
  | 0 => let (r, s) := strongRead s a key 8; (wd r, s)
  | 1 => let (r, s) := strongRead s a key 8; (wd r, feTag s key false)
  | 2 => (0, feTag (s.store key (toBytes 8 v.toNat) a seq (some m)) key true)
  | 3 => (0, feTag (s.store key (toBytes 8 v.toNat) a seq (some m)) key true)
  | 4 => (0, feTag s key false)
  | _ => (if isFull s key then 1 else 0, s)

/-- Whether a function reads its word's data. -/
def feReads (fn : Nat) : Bool := fn == 0 || fn == 1

/-- An F/E operation (R70, R71, R178). -/
def feOp (fn : Nat) (dst : Option Opd) (data : Option Opd) (o : Ops) : M Ctl := do
  match ← (match dst with
    | some a => taken a
    | none => pure none) with
  | some v =>
    let d ← prepDst o.a
    writeDst d v
    return .seq
  | none =>
    let va ← effAddr o true
    let v ← match data with
      | some a => readOpd a 1
      | none => pure 0
    let d ← match dst with
      | some a => some <$> prepDst a
      | none => pure none
    let p ← checkPlace va 8
    match p with
    | .ord _ => trap 0x0F va
    | .arr key =>
      needStrong
      let c ← ctx
      if c.storesBefore (c.seq + 1) key 8 || c.loadsBefore (c.seq + 1) key 8 then park .none 0
      else
        if qRel o.q then release .none 0 (qScope o.q)
        let s ← get
        if feReads fn && poisoned s key 8 then
          modify (fun s => noteBad s ((badGran s key 8).getD 0))
          trap 0x0D va
        else if feReady s fn key then
          let (r, s) := feDo s (.thread c.cid) ⟨qScope o.q, some s.myCore⟩ c.seq fn key v
          set s
          if qAcq o.q then acquire (qScope o.q)
          match d with
          | some d => writeDst d r
          | none => pure ()
          return .seq
        else
          modC (fun c => { c with
            stage := 1
            fe := some ⟨fn, key, va, v, (match dst with
              | some (.r n) => n
              | _ => 0), qAcq o.q, qScope o.q, (match dst with
              | some (.f _ _) => true
              | _ => false)⟩ })
          park .fe va

/-- LDF (R71, R178). -/
def execLdf (o : Ops) (s : State) : Host.Outcome State Fault Refusal := runM (feOp 0 (some o.a) none o) s
/-- LDFC (R71, R178). -/
def execLdfc (o : Ops) (s : State) : Host.Outcome State Fault Refusal := runM (feOp 1 (some o.a) none o) s
/-- STF (R71, R178). -/
def execStf (o : Ops) (s : State) : Host.Outcome State Fault Refusal := runM (feOp 2 none (some o.a) o) s
/-- STO (R71, R178). -/
def execSto (o : Ops) (s : State) : Host.Outcome State Fault Refusal := runM (feOp 3 none (some o.a) o) s
/-- SETE (R71, R178). -/
def execSete (o : Ops) (s : State) : Host.Outcome State Fault Refusal := runM (feOp 4 none none o) s
/-- TSTF (R71, R178). -/
def execTstf (o : Ops) (s : State) : Host.Outcome State Fault Refusal := runM (feOp 5 (some o.a) none o) s

/-! Phases, fences, barriers. -/

/-- PHASE (R94). -/
def execPhase (o : Ops) (s : State) : Host.Outcome State Fault Refusal :=
  runM (do
    release .phase 2 o.imm.toNat
    acquire o.imm.toNat
    return .seq) s

/-- FENCE (R94): only the release. -/
def execFence (o : Ops) (s : State) : Host.Outcome State Fault Refusal :=
  runM (do
    release .phase 2 o.imm.toNat
    return .seq) s

/-- The stores behind a context's floor are those that its fetches return from now on (R99). -/
def fetchFloor (cid : Nat) (h : List Record) : List Record :=
  h.map (fun r => if r.seen.contains (.thread cid) && !r.seen.contains (.fetch cid) then { r with seen := .fetch cid :: r.seen }
    else r)

/-- The instruction cache of the issuing core discarded by the issuing thread. -/
def discardLines (s : State) : State :=
  let (n, s) := s.fresh
  let s := (s.setCore s.myCore { s.core s.myCore with icache := [] }).mod (fun c => { c with ifnc := n })
  { s with hist := fetchFloor s.ctx.cid s.hist }

/-- IFNC (R99): every line of the issuing core's instruction cache is discarded. The discard is done when the thread's
own earlier stores, weak and strong, are performed, so that later fetches return them (log 33). -/
def execIfnc (_o : Ops) (s : State) : Host.Outcome State Fault Refusal :=
  runM (do
    let c ← ctx
    if !c.stores.isEmpty || c.strong.isSome || !c.outer.isEmpty then park .none 0
    modify discardLines
    return .seq) s

/-- BAR (R182, R183). A thread that has arrived waits for the next generation; a resumed one does not arrive
again. -/
def execBar (o : Ops) (s : State) : Host.Outcome State Fault Refusal :=
  runM (do
    let s ← get
    match s.ctx.barrier with
    | some (k, g) =>
      if (s.barrier s.myClus k).g ≠ g then
        modC (fun c => { c with barrier := none })
        acquire 1
        return .seq
      else park .barrier 0
    | none =>
      let k := o.imm.toNat
      let nv ← readX o.a.x
      let r := s.regionOf s.ctx
      if !(decide (k < 16) && r.barm / 2 ^ k % 2 == 1) then trap 0x08 (BitVec.ofInt 64 o.imm)
      else if nv = 0 ∨ 256 < nv.toNat then trap 0x08 nv
      else
        release .none 0 1
        let s ← get
        let b := s.barrier s.myClus k
        if b.a ≠ 0 ∧ nv.toNat ≠ b.n then trap 0x08 nv
        else if b.a + 1 = nv.toNat then
          set (s.setBarrier s.myClus k { n := nv.toNat, a := 0, g := b.g + 1 })
          acquire 1
          return .seq
        else
          set (s.setBarrier s.myClus k { n := nv.toNat, a := b.a + 1, g := b.g })
          modC (fun c => { c with barrier := some (k, b.g) })
          park .barrier 0) s

/-! Completion tags. -/

/-- WAITANY (R184). -/
def execWaitany (o : Ops) (s : State) : Host.Outcome State Fault Refusal :=
  runM (do
    let mask ← readOpd o.b 0
    let d ← prepDst o.a
    let c ← ctx
    if c.cb &&& mask = 0 ∧ c.tags &&& mask ≠ 0 then park .tag mask
    else
      observeTags (c.cb &&& mask)
      writeDst d (c.cb &&& mask)
      return .seq) s

/-- WAITALL (R184). -/
def execWaitall (o : Ops) (s : State) : Host.Outcome State Fault Refusal :=
  runM (do
    let mask ← readOpd o.b 0
    let d ← prepDst o.a
    let c ← ctx
    if c.tags &&& mask ≠ 0 then park .tag mask
    else
      observeTags (c.cb &&& mask)
      writeDst d (c.cb &&& mask)
      return .seq) s

/-- FFR (R184): the lowest ready tag under the mask, else 64; it never parks on a tag. -/
def execFfr (o : Ops) (s : State) : Host.Outcome State Fault Refusal :=
  runM (do
    let mask ← readOpd o.b 0
    let d ← prepDst o.a
    let c ← ctx
    let t := ctzW (c.cb &&& mask)
    observeTags (c.cb &&& mask &&& (1 <<< t.toNat))
    writeDst d t
    return .seq) s

/-- TCLR (R184). -/
def execTclr (o : Ops) (s : State) : Host.Outcome State Fault Refusal :=
  runM (do
    let mask ← readOpd o.b 0
    modC (fun c => { c with cb := c.cb &&& ~~~mask, te := c.te &&& ~~~mask })
    return .seq) s

end Sys2Proof.Machine
end

