-- ==== Sys2Proof/Machine/Perform.lean ====
section
/-! DEFINITION. Device steps that perform the accesses of threads (R71, R73, R86 to R92, R97, R98, R171, R295 to R298),
end waits (R27, R147, R314), and fill stack pages (R338). -/

namespace Sys2Proof.Machine

/-- The core of a context: that of its slot, or the one it had. -/
def coreOfCid (s : State) (cid : Nat) : Nat :=
  nameCore (s.nameOf cid)

/-! Weak loads. -/

/-- What the elements of a load give: their values by element number, or the first that fails. -/
inductive Got where
  | ok (vals : List (Nat × Nat))
  | bad (va : Word) (b : Bad)
  deriving DecidableEq, Repr

/-- The elements of a weak load read one after another. -/
def readElems (a : Agent) (asid : BitVec 16) (n : Nat) :
    List (Nat × Word × Option Nat) → List (Nat × Nat) → State → Got × State
  | [], acc, s => (.ok acc, s)
  | (i, va, key) :: l, acc, s =>
    let (r, s) := resolve s asid (match key with
      | some k => .arr k
      | none => .ord (homeDie va)) va n .r
    match r with
    | .error b => (.bad va b, s)
    | .ok k =>
      let (v, s) := weakRead s a k n (viaOf s asid va)
      readElems a asid n l (acc ++ [(i, v)]) s

/-- The register or operand filled with the values of a load (R25, R174, R199). -/
def Ctx.fillLoad (c : Ctx) (l : PLoad) (vals : List (Nat × Nat)) : Ctx :=
  let c := { c with loads := c.loads.filter (·.id != l.id) }
  match l.dst with
  | .x r signed => c.fillX r (extend l.n signed ((vals.head?.map (·.2)).getD 0))
  | .v r w zero =>
    let old := c.getV r
    let v := ofElems w ((List.range (1024 / w)).map (fun i =>
      match vals.find? (·.1 == i) with
      | some e => e.2
      | none => if zero then 0 else elemOf w old i))
    (c.putV r v).setPend (64 + r.val) false
  | .operand => { c with got := c.got ++ (l.elems.zip vals).map (fun e => (e.2.1, wd e.2.2)) }

/-- REGISTER_FILL (R25, R87, R91): a pending load returns its data, after the thread's own earlier accesses to its
bytes. -/
def execRegisterFill (cid id : Nat) (s : State) : Host.Outcome State Fault Refusal :=
  .next (match s.findCtx cid with
    | none => s
    | some c => match c.loads.find? (·.id == id) with
      | none => s
      | some l =>
        let wait := l.elems.any (fun e => let loc := locOf e.2.1 e.2.2
          c.storesBefore l.seq loc l.n || c.loadsBefore l.seq loc l.n || c.strongBefore l.seq loc l.n ||
            (e.2.2.isNone && recalled s cid l.seq (s.regionOf c).asid e.2.1 l.n))
        if wait then s.due (.registerFill cid id)
        else match readElems (.thread cid) (s.regionOf c).asid l.n l.elems [] s with
          | (.ok vals, s) => s.modCtx cid (·.fillLoad l vals)
          | (.bad va (.poison g), s') => killBad s' cid va g
          | (.bad _ _, s') => s'.due (.weakLoadFault cid id))

/-- A load fault held until the next boundary (R296, R298): the pending result is cancelled. Faults of one
instruction are one. An RFILL that waits for the cancelled result (Table 9.13) goes on waiting for the next result of the
thread's own that fills its register: DESIGN CHOICE, log 105. -/
def Ctx.holdFault (c : Ctx) (l : PLoad) (va : Word) (pool : Bool) : Ctx :=
  let c := { c with loads := c.loads.filter (·.id != l.id) }
  let c := match l.dst with
    | .operand => c
    | _ => c.setPend l.dst.num false
  if c.lfaults.any (·.seq == l.seq) then
    { c with lfaults := c.lfaults.map (fun f => if f.seq = l.seq ∧ va.toNat < f.va.toNat then { f with va } else f) }
  else
    let f : LFault := ⟨l.seq, l.pc, va, pool, l.dst, l.inputs⟩
    { c with lfaults := c.lfaults.filter (fun g => decide (g.seq < l.seq)) ++ [f] ++
        c.lfaults.filter (fun g => decide (l.seq < g.seq)) }

/-- WEAK_LOAD_FAULT (R171, R296): the fault of a weak load arrives from its home die. -/
def execWeakLoadFault (cid id : Nat) (s : State) : Host.Outcome State Fault Refusal :=
  .next (match s.findCtx cid with
    | none => s
    | some c => match c.loads.find? (·.id == id) with
      | none => s
      | some l => match readElems (.thread cid) (s.regionOf c).asid l.n l.elems [] s with
        | (.ok _, _) => s.due (.registerFill cid id)
        | (.bad va (.poison g), s') => killBad s' cid va g
        | (.bad va b, s') => s'.modCtx cid (·.holdFault l va (b == .pool)))

/-- HELD_LOAD_FAULT_TRAP (R293, R296, R298): the oldest held fault is taken at a boundary outside the Trap
state. -/
def execHeldLoadFaultTrap (cid : Nat) (s : State) : Host.Outcome State Fault Refusal :=
  .next (asCtx s cid takeHeld)

/-! Weak stores. -/

/-- How far a weak store has got: the elements behind a pinned line, and the fault of the first element that failed in
translation or protection, with whether it was for want of frames. -/
structure StoreEnd where
  left : List (Word × Option Nat × List Byte) := []
  fault : Option (Word × Bool) := none
  bad : Option (Word × Nat) := none
  deriving DecidableEq, Repr

/-- The elements of a weak store performed one after another, in ascending order (R211): one that fails writes nothing and is
discarded (R98), and a pinned line holds up its element and those behind it (R81). -/
def storeElems (a : Agent) (seq : Nat) (asid : BitVec 16) :
    List (Word × Option Nat × List Byte) → Option (Word × Bool) → State → StoreEnd × State
  | [], f, s => ({ fault := f }, s)
  | (va, key, bs) :: l, f, s =>
    let (r, s1) := resolve s asid (match key with
      | some k => .arr k
      | none => .ord (homeDie va)) va bs.length .w
    match r with
    | .ok k =>
      if pinned s1 k bs.length then ({ left := (va, key, bs) :: l, fault := f }, s1)
      else storeElems a seq asid l f (s1.store k bs a seq none (viaOf s1 asid va))
    | .error (.poison g) => ({ bad := some (va, g) }, s1)
    | .error b => storeElems a seq asid l (some (f.getD (va, b == .pool))) s1

/-- A pending store of the context changed, or ended. -/
def Ctx.modStore (c : Ctx) (id : Nat) (f : PStore → Option PStore) : Ctx :=
  { c with stores := c.stores.filterMap (fun q => if q.id = id then f q else some q) }

/-- WEAK_STORE_PERFORMED (R86, R87, R172): a pending store is performed, after the thread's earlier accesses to
its bytes. -/
def execWeakStorePerformed (cid id : Nat) (s : State) : Host.Outcome State Fault Refusal :=
  .next (match s.findCtx cid with
    | none => s
    | some c => match c.stores.find? (·.id == id) with
      | none => s
      | some p =>
        let wait := p.elems.any (fun e => let loc := locOf e.1 e.2.1
          c.storesBefore p.seq loc e.2.2.length || c.loadsBefore p.seq loc e.2.2.length ||
            c.strongBefore p.seq loc e.2.2.length ||
            (e.2.1.isNone && recalled s cid p.seq (s.regionOf c).asid e.1 e.2.2.length))
        if wait then s.due (.weakStorePerformed cid id)
        else
          let (e, s') := storeElems (.thread cid) p.seq (s.regionOf c).asid p.elems p.fault s
          match e.bad with
          | some (va, g) => killBad s' cid va g
          | none =>
            if e.left.isEmpty && e.fault.isNone then s'.modCtx cid (·.modStore id (fun _ => none))
            else
              (s'.modCtx cid (·.modStore id (fun q => some { q with elems := e.left, fault := e.fault }))).due
                (if e.left.isEmpty then .weakStoreFault cid id else .weakStorePerformed cid id))

/-- A failed weak store held for the next release, in program order (R98). -/
def Ctx.holdStoreFault (c : Ctx) (f : SFault) : Ctx :=
  { c with sfaults := c.sfaults.filter (fun g => decide (g.seq ≤ f.seq)) ++ [f] ++
      c.sfaults.filter (fun g => decide (f.seq < g.seq)) }

/-- WEAK_STORE_FAULT (R98, R171): the fault of a weak store that has failed at its home die arrives, and is kept for the
next release. -/
def execWeakStoreFault (cid id : Nat) (s : State) : Host.Outcome State Fault Refusal :=
  .next (match s.findCtx cid with
    | none => s
    | some c => match c.stores.find? (·.id == id) with
      | none => s
      | some p => match p.elems, p.fault with
        | [], some (va, pool) => s.modCtx cid (fun c => (c.modStore id (fun _ => none)).holdStoreFault ⟨p.seq, va, pool⟩)
        | _, _ => s.due (.weakStorePerformed cid id))

/-! Strong operations. -/

/-- The context after its strong operation is performed with a result. -/
def Ctx.strongDone (c : Ctx) (p : PStrong) (v : Word) : Ctx :=
  let c := { c with strong := none }
  if p.frame then { c with got := [(loadPos, v)], stage := 0 }
  else match p.op with
    | .store _ => c
    | _ => c.fillX p.dst v

/-- STRONG_ACCESS_PERFORMED (R92, R97, R172): the strong operation or an outer-frame write of a thread is
performed, after its earlier accesses to the same word, in the instances of the core at which it issued (R84). Data that
turns uncorrectable after the issue kills the thread with the operation's own address (R98). -/
def execStrongAccessPerformed (cid id : Nat) (s : State) : Host.Outcome State Fault Refusal :=
  .next (match s.findCtx cid with
    | none => s
    | some c =>
      match c.outer.find? (·.id == id) with
      | some p =>
        let first := c.outer.find? (·.key == p.key)
        if first.map (·.id) ≠ some id ∨ c.loadsBefore p.seq p.key 8 ∨ c.strongBefore p.seq p.key 8 ∨
            c.stores.any (fun q => decide (q.seq < p.seq) && q.elems.any (fun e => overlap (locOf e.1 e.2.1) e.2.2.length p.key 8)) then
          s.due (.strongAccessPerformed cid id)
        else
          let sc := if p.key < 2 ^ 42 then 1 else 0
          (s.store p.key (toBytes 8 p.val.toNat) (.thread cid) p.seq (some ⟨sc, some p.core⟩)).modCtx cid
            (fun c => { c with outer := c.outer.filter (·.id != id) })
      | none => match c.strong with
        | none => s
        | some p =>
          if p.id ≠ id then s
          else if c.storesBefore p.seq p.loc 8 || c.loadsBefore p.seq p.loc 8 || (p.op != .load && pinned s p.key 8) ||
              (decide (p.key < 2 ^ 40) && recalled s cid p.seq (s.regionOf c).asid p.va 8) then
            s.due (.strongAccessPerformed cid id)
          else if p.op.reads && poisoned s p.key 8 then
            killBadAt s cid p.pc p.va ((badGran s p.key 8).getD 0)
          else
            let (v, s) := strongDo s (.thread cid) p.seq ⟨p.scope, some p.core⟩ p.key
              (if p.key < 2 ^ 40 then viaOf s (s.regionOf c).asid p.va else none) p.op
            let s := if p.acq then acquireMark s (.thread cid) p.scope (some p.core) else s
            if p.hold && !p.frame then finishCtx s cid (·.strongDone p v) else s.modCtx cid (·.strongDone p v))

/-! Full/empty words. -/

/-- The slots whose contexts wait on a word and can now be served. -/
def feWaiters (s : State) (key : Nat) : List Nat :=
  (s.slots.filter (fun e => match e.2.ctx with
    | some c => match c.fe with
      | some w => w.key == key && feReady s w.fn key
      | none => false
    | none => false)).map (·.1)

/-- FE_WORD_STATE_CHANGE (R73): one waiter of the word is served, in an order that is not promised (log 7). -/
def execFeWordStateChange (key : Nat) (s : State) : Host.Outcome State Fault Refusal :=
  let ws := feWaiters s key
  .next (match ws[Config.fePick s.tick % ws.length]? with
    | none => s
    | some t =>
      let s := { s with tick := s.tick + 1 }
      match (s.slot t).ctx.bind (fun c => c.fe.map (fun w => (c, w))) with
      | none => s
      | some (c, w) =>
        if feReads w.fn && poisoned s key 8 then killBad s c.cid w.va ((badGran s key 8).getD 0)
        else
          let (v, s) := feDo s (.thread c.cid) ⟨w.scope, some (nameCore t)⟩ c.seq w.fn key w.val
          let s := if w.acq then acquireMark s (.thread c.cid) w.scope (some (nameCore t)) else s
          let s := if w.frame then s.modCtx c.cid (fun c => { c with got := [(loadPos, v)], stage := 0, fe := none })
            else finishCtx s c.cid (fun c => if feReads w.fn then c.putX w.dst v else c)
          if (feWaiters s key).isEmpty then s else s.due (.feWordStateChange key))

/-! Waits. -/

/-- Whether a wait has reached its limit in this clock (R27). -/
def limitReached (s : State) (c : Ctx) : Bool :=
  match c.wait with
  | some w => w.kind != .none && s.host.dhalt == 0 && bits c.wlim 31 0 != 0 && c.run == .parked &&
      decide (w.start + bits c.wlim 31 0 * 256 ≤ s.clock)
  | none => false

/-- WAIT_LIMIT_EXPIRY (R27): cause 0x09 at the waiting instruction. -/
def execWaitLimitExpiry (cid : Nat) (s : State) : Host.Outcome State Fault Refusal :=
  .next (asCtx s cid (fun s =>
    let c := s.ctx
    match c.wait with
    | some w => if limitReached s c then takeTrap s { cause := 0x09, val := w.obj, epc := c.pc } else s
    | none => s))

/-- YIELD_COMPLETE (R147). -/
def execYieldComplete (cid : Nat) (s : State) : Host.Outcome State Fault Refusal :=
  .next (finishYield s cid)

/-- WFE_TIMEOUT (R314): the timeout of the WFE in progress sets EVT.TO. -/
def execWfeTimeout (cid : Nat) (s : State) : Host.Outcome State Fault Refusal :=
  .next (s.modCtx cid (fun c => match c.wfeStart with
    | some t => if t ≤ s.clock then { c with evt := c.evt ||| 8 } else c
    | none => c))

/-! Stack pages. -/

/-- PAGE_GROWTH_FILL (R337, R338): a stack page of an ASID is filled where its walk ends as not mapped at level 3
or 4 inside a growth window. An access that meets the missing page makes the same fill and takes its
failure. -/
def execPageGrowthFill (die : Nat) (asid : BitVec 16) (va : Word) (s : State) : Host.Outcome State Fault Refusal :=
  .next (match walk s die asid va with
    | .none level => (growPage s die asid va level).2
    | _ => s)

end Sys2Proof.Machine
end

