-- ==== Sys2Proof/Machine/Tasks.lean ====
section
/-! DEFINITION. POST, SPAWN, LAUNCH, TCRD, RWAIT and HOMEQ (R185 to R190). -/

namespace Sys2Proof.Machine

/-- The tests of R42 that the package of a POST makes (R56). -/
def postOk (s : State) (r : Region) (id : Word) : Bool :=
  r.tsp != 5 && bits id 47 32 == 0 && isPresent s (idNode id) &&
    (idNode id != s.node || (match s.grp? r.grpKey with
      | some g => decide (idIndex id < g.count)
      | none => false))

/-- POST (R56, R185): it does not wait for the element's home XU. -/
def execPost (o : Ops) (s : State) : Host.Outcome State Fault Refusal :=
  runM (do
    let id ← readOpd o.b 0
    let s ← get
    let r := s.regionOf s.ctx
    if !postOk s r id then trap 0x12 id
    else
      let p : PostMsg := { grp := r.grpKey, elem := id, rcb := r.rcbva, region := r.id, node := s.node }
      set (if idNode id = s.node then s.due (.postArrival p)
        else fabSend s (idNode id) s.cur s.ctx.inc r.asid (.post p) (.post r.id id))
      return .seq) s

/-- How many records the spill queue of one die may hold: a quarter of QUOTA in records of 64 bytes (R32, R325). -/
def spillRoom (r : Region) : Nat := r.quota / 4 / 64

/-- SPAWN (R32, R186). -/
def execSpawn (o : Ops) (s : State) : Host.Outcome State Fault Refusal :=
  runM (do
    let entry ← readOpd o.b 0
    let x5 ← readX 5
    let x6 ← readX 6
    let x7 ← readX 7
    let x8 ← readX 8
    let d ← prepDst o.a
    if bit entry 0 then trap 0x05 entry
    else if bits entry 63 56 ≠ 0 then trap 0x08 entry
    else
      let s ← get
      let r := s.regionOf s.ctx
      let p : Spawn := { id := s.ids, region := r.id, entry, x5, x6, x7, x8 }
      let co := s.core s.myCore
      let spill := r.spill.getD s.myDie []
      if 16 ≤ co.deque.length ∧ spillRoom r ≤ spill.length then
        release .none 0 2
        park .deque 1
      else
        release .none 0 2
        modify (fun s => s.fresh.2)
        if co.deque.length < 16 then
          modify (fun s => s.setCore s.myCore { s.core s.myCore with deque := p :: co.deque })
          writeDst d 0
        else
          modify (fun s => s.modRegion r.id (fun r => { r with spill := r.spill.set! s.myDie (spill ++ [p]) }))
          writeDst d 1
        return .seq) s

/-- LAUNCH (R19, R187): the thread parks until the device has read the RCB; the result comes later. -/
def execLaunch (o : Ops) (s : State) : Host.Outcome State Fault Refusal :=
  runM (do
    match ← taken o.a with
    | some v =>
      let d ← prepDst o.a
      writeDst d v
      return .seq
    | none =>
      let va ← readOpd o.b 0
      match o.a with
      | .r n => needDst n.val
      | .f d slot => let _ ← framePlace d.val slot
      if va.toNat % 256 ≠ 0 then trap 0x05 va
      else
        release .none 0 2
        modify (fun s =>
          let (id, s) := s.fresh
          let c := s.ctx
          let r := s.regionOf c
          let l : Launch := { id, asid := r.asid, rcbva := va, rcb := none, parent := some r.id, user := c.level == .user,
                              cookie := r.cookie, cid := some c.cid, reg := o.a.x, entry := none, bad := false }
          let s := s.mod (fun c => { c with
            stage := 1, got := if o.a.isFrame then c.got ++ [(launchPos, 0)] else c.got })
          State.dueBy { s with launches := Tab.set s.launches id l } (s.clock + 3000) (.regionAdmission id))
        park .none 0) s

/-- The item that a selector of TCRD names (Table 9.7). -/
def tcrdItem (s : State) (sel : Word) : Word :=
  let c := s.ctx
  let r := s.regionOf c
  match Tab.get? s.tasks c.task with
  | none => 0
  | some t =>
    let tile := r.tsp == 5 && !t.spawned
    let elem := r.tsp != 5 && !t.spawned
    match sel.toNat with
    | 0 => if t.spawned then 0 else t.coord
    | 1 => if tile then wd (bits t.coord 19 0) else 0
    | 2 => if tile then wd (bits t.coord 39 20) else 0
    | 3 => if tile then wd (bits t.coord 59 40) else 0
    | 4 => if elem then wd (bits t.coord 31 0) else 0
    | 5 => if elem then wd (bits t.coord 63 48) else 0
    | 6 => if t.again then 1 else 0
    | 7 => r.rcbva
    | 8 => wd r.level
    | 9 => if t.spawned then 1 else 0
    | _ => 0

/-- TCRD (R188). -/
def execTcrd (o : Ops) (s : State) : Host.Outcome State Fault Refusal :=
  runM (do
    let sel ← readOpd o.b 0
    let d ← prepDst o.a
    writeDst d (tcrdItem (← get) sel)
    return .seq) s

/-- The child of a region that was launched from an RCB address, the latest where there are several. -/
def childAt (s : State) (rid : Nat) (va : Word) : Option Region :=
  ((s.regions.filter (fun e => e.2.parent == some rid && e.2.rcbva == va)).getLast?).map (·.2)

/-- Whether a LAUNCH from an RCB address by a task of a region still awaits its result (R187). -/
def launching (s : State) (rid : Nat) (va : Word) : Bool :=
  s.launches.any (fun l => l.2.parent == some rid && l.2.rcbva == va)

/-- RWAIT (R189). A child whose LAUNCH awaits its result is not yet complete (log 32). -/
def execRwait (o : Ops) (s : State) : Host.Outcome State Fault Refusal :=
  runM (do
    let va ← readOpd o.b 0
    let d ← prepDst o.a
    let s ← get
    if launching s (s.regionOf s.ctx).id va then park .region va
    else match childAt s (s.regionOf s.ctx).id va with
    | none => trap 0x08 va
    | some r =>
      if r.live && r.halted == 0 then park .region va
      else
        acquire 2
        writeDst d (wd r.status)
        return .seq) s

/-- The home of a VA (Table 9.9) as a thread on a core sees it. -/
def homeWord (core : Nat) (va : Word) : Word :=
  let die := core / 256
  let word (win clus cr home : Nat) : Word :=
    wd (win * 2 ^ 48 + clus * 2 ^ 8 + cr * 16 + (home == die).toNat * 8 + home)
  match placeWith (fun _ _ => true) core va 1 with
  | none => wd (2 ^ 63)
  | some (.ord d) => word (bits va 55 48) 0xFF 0xF d
  | some (.arr k) =>
    match bits va 55 48 with
    | 0xFF => word 0xFF (clusIndex (core / 16)) (core % 16) die
    | 0xFE =>
      let cl := (k - 2 ^ 41) / 2 ^ 22
      word 0xFE (clusIndex cl) (k / 128 % 16) (cl / 16)
    | w => word w 0xFF 0xF (bits va 47 46)

/-- HOMEQ (R190): no access is made. -/
def execHomeq (o : Ops) (s : State) : Host.Outcome State Fault Refusal :=
  runM (do
    let va ← readOpd o.b 0
    let d ← prepDst o.a
    writeDst d (homeWord (← get).myCore va)
    return .seq) s

end Sys2Proof.Machine
end

