-- ==== Sys2Proof/Machine/Trowel.lean ====
section
/-! DEFINITION. The Trowel: CPY and CPYS (R77, R79, R219 to R223) and the completion of a copy (R68, R72, R79,
R222, R224). -/

namespace Sys2Proof.Machine

/-! Reading a descriptor. -/

/-- A weak load of the issuing thread that it waits for, with precise faults (R221 step 2). -/
def ownRead (va : Word) : M Word := do
  let p ← checkPlace va 8
  let s ← get
  let c := s.ctx
  let loc := locOf va p.key
  if c.storesBefore (c.seq + 1) loc 8 || c.loadsBefore (c.seq + 1) loc 8 || c.strongBefore (c.seq + 1) loc 8 ||
      (p.key.isNone && recalled s c.cid c.seq (s.regionOf c).asid va 8) then park .none 0
  else
    let key ← strongKey p va .r
    let s ← get
    let (v, s) := weakRead s (.thread c.cid) key 8
    set s
    return wd v

/-- `n` words from a VA up. -/
def ownWords (va : Word) : Nat → M (List Word)
  | 0 => return []
  | n + 1 => do
    let w ← ownRead va
    let l ← ownWords (va + 8) n
    return w :: l

/-! Tags (R77). -/

/-- The two tests before a tag is taken. -/
def needTag (t : Nat) : M Unit := do
  let s ← get
  if bit s.ctx.tags t || decide (64 ≤ (s.copies.filter (·.clus == s.myClus)).length) then park .tag (wd (2 ^ t))
  else pure ()

/-- The one step that takes a tag; a finished copy that used it is no longer observed through it. -/
def Ctx.takeTag (c : Ctx) (t : Nat) : Ctx :=
  { c with cb := setBit c.cb t false, te := setBit c.te t false, tags := setBit c.tags t true
           done := c.done.filter (·.1 != t) }

/-- The issuing thread takes a tag: the release of its region's completion covers the writes of the finished copy or record
that the tag no longer tells of (R20, R95). -/
def State.takeTag (s : State) (t : Nat) : State :=
  (loosen s s.ctx.region ((s.ctx.done.filter (·.1 == t)).map (fun e => .engine e.2))).mod (·.takeTag t)

/-- A copy or an index build takes its tag and its place in the cluster's queue, and its background work is due. -/
def enqueueCopy (t : Nat) (desc : Option Word) (k : CopyKind) (ev : Nat → Ev) : M Unit :=
  modify (fun s =>
    let (id, s) := s.fresh
    let c := s.ctx
    let e : Copy := { id, clus := s.myClus, core := s.myCore, cid := c.cid, name := BitVec.ofNat 14 s.cur, inc := c.inc, task := c.task, region := c.region,
                      asid := (s.regionOf c).asid, tag := t, desc, seq := c.seq, kind := k, pos := 0, out := false,
                      cov := [], stop := none, back := none }
    let s := engineStart (s.takeTag t) id c.cid
    State.due { s with copies := s.copies ++ [e] } (ev id))

/-- A copy issued; one of no bytes completes at once (R221). -/
def issueCopy (t : Nat) (desc : Option Word) (d : CopyDesc) : M Ctl := do
  needTag t
  if d.total = 0 then
    modify (fun s => (s.takeTag t).mod (fun c => { c with cb := setBit c.cb t true, tags := setBit c.tags t false }))
  else enqueueCopy t desc (.copy d) .copyComplete
  return .seq

/-- The outer dimensions of a descriptor from their words; none where a reserved field is not 0. -/
def descDims : List Word → Option (List (Nat × Int × Int))
  | n :: s :: d :: l => if bits n 63 32 ≠ 0 then none else (descDims l).map (fun r => (n.toNat, s.toInt, d.toInt) :: r)
  | _ => some []

/-- CPY (R220, R221). A side that names this package is a local one (R68, R224). -/
def execCpy (o : Ops) (s : State) : Host.Outcome State Fault Refusal :=
  runM (do
    let va ← readOpd o.b 0
    if va.toNat % 8 ≠ 0 then trap 0x05 va
    else
      let h ← ownWords va 6
      let ctl := h.getD 2 0
      let ndim := bits ctl 4 0
      if ndim = 0 ∨ 16 < ndim then trap 0x08 va
      else
        let l ← ownWords (va + 48) (3 * (ndim - 1))
        let bad : Bool := bits ctl 31 11 != 0 || bits ctl 7 5 != 0 || bits (h.getD 3 0) 63 40 != 0 || (bit ctl 10 && bit ctl 9)
        match (if bad then none else descDims l) with
        | none => trap 0x08 va
        | some dims =>
          let me := (← get).node
          let far (b : Bool) (n : BitVec 16) : Option (BitVec 16) := if b && n != me then some n else none
          let d : CopyDesc := {
            dst := h.getD 0 0, src := h.getD 1 0
            dnode := far (bit ctl 10) (BitVec.ofNat 16 (bits ctl 63 48))
            snode := far (bit ctl 9) (BitVec.ofNat 16 (bits ctl 47 32))
            fill := bit ctl 8, len0 := bits (h.getD 3 0) 39 0, dims }
          if 2 ^ 48 ≤ d.total then trap 0x08 va
          else issueCopy (o.a.num % 64) (some va) d) s

/-- CPYS (R223). -/
def execCpys (o : Ops) (s : State) : Host.Outcome State Fault Refusal :=
  runM (do
    let dst ← readX o.b.x
    let src ← readX (Fin.ofNat 64 (o.b.num + 1))
    let len ← readX o.cx
    if bits len 62 40 ≠ 0 then trap 0x08 len
    else
      let d : CopyDesc := { dst, src, dnode := none, snode := none, fill := bit len 63, len0 := bits len 39 0, dims := [] }
      issueCopy (o.a.num % 64) none d) s

/-! Completion. -/

/-- STATUS and FVA written by the device; the VA of the first word whose write failed. -/
def writeStatus (s : State) (k : Copy) (desc status fva : Word) : State × Option Word :=
  let r := (s.region? k.region).getD Region.blank
  let s := touchOwn s r k.core (desc + 0x20)
  match ownKey s r k.core (desc + 0x20) with
  | none => (s, some (desc + 0x20))
  | some a =>
    let s := touchOwn (s.store a (toBytes 8 status.toNat) (.engine k.id) k.seq none) r k.core (desc + 0x28)
    match ownKey s r k.core (desc + 0x28) with
    | none => (s, some (desc + 0x28))
    | some b => (s.store b (toBytes 8 fva.toNat) (.engine k.id) k.seq none, none)

/-- Whether the device's own writes to a copy's descriptor wait for a line that an engine owns or a fetch unit pins (R79,
R81). -/
def Copy.descWaits (k : Copy) (s : State) : Bool :=
  match k.desc with
  | some d => heldUp s k.id k.asid (d + 0x20) 16
  | none => false

/-- A copy leaves its queue: its status, the copy-error event, and its tag (R77, R224). -/
def finishCopy (s : State) (k : Copy) (fail : Option (Nat × Word)) : State :=
  let s := dueRecords { s with copies := s.copies.filter (·.id != k.id) }
  let status := (fail.map (·.1)).getD 1
  let fva := (fail.map (·.2)).getD 0
  let (s, bad) := match k.desc with
    | none => (s, none)
    | some desc => writeStatus s k desc (wd status) fva
  let aux := k.tag + status * 2 ^ 16
  let s := match bad, fail with
    | some va, _ => engineRecord s k.region k.cid 8 (wd (aux + 2 ^ 32)) va
    | none, some _ => engineRecord s k.region k.cid 8 (wd aux) fva
    | none, none => s
  completeTag s k.cid k.tag k.id (bad.isSome || fail.isSome)

/-- The tags of the words given set full; ordinary memory has none (R72). -/
def fillTags (s : State) (v : Mover) (l : List Word) : State :=
  l.foldl (fun s va => match v.place va 8 with
    | some (.arr key) => if tagged key then feTag s key true else s
    | _ => s) s

/-- Where a run begins, for the thread's order of accesses to one location. -/
def locAt (v : Mover) (va : Word) : Nat := locOf va ((v.place va 1).bind (·.key))

/-- Whether a copy still waits: for accesses of its thread that came before it to its bytes (R79, R87), and for
earlier work of engines on its lines. -/
def copyWaits (s : State) (k : Copy) (v : Mover) (d : CopyDesc) : Bool :=
  let c := (s.findCtx k.cid).getD Ctx.blank
  d.runs.any (fun e =>
    (d.snode.isNone && (c.storesBefore k.seq (locAt v e.1) d.len0 || c.strongBefore k.seq (locAt v e.1) d.len0 ||
      engineRecalled s k.id k.asid e.1 d.len0)) ||
    (d.dnode.isNone && (c.storesBefore k.seq (locAt v e.2) d.len0 || c.loadsBefore k.seq (locAt v e.2) d.len0 ||
      c.strongBefore k.seq (locAt v e.2) d.len0 || engineRecalled s k.id k.asid e.2 d.len0)))

/-- How a copy goes on: it is over, with its failure if any; it goes on later; or a pinned line holds it up. -/
inductive Went where
  | over (s : State) (fail : Option (Nat × Word))
  | later (s : State)
  | pin
  deriving DecidableEq, Repr

/-- The runs of a copy within the package (R222). -/
def localRuns (v : Mover) (seq len : Nat) (fill : Bool) : List (Word × Word) → List (Nat × Nat) → State → Went
  | [], _, s => .over s none
  | (src, dst) :: l, cov, s =>
    let (bs, bad, s) := readBurst v (len + 1) src len [] s
    match writeBurst v seq (bs.length + 1) dst bs 0 s with
    | none => .pin
    | some (n, bad', s) =>
      let (cov, ws) := coverRun cov dst n
      let s := if fill then fillTags s v ws else s
      match bad', bad with
      | some b, _ => .over s (some (b.1.status true, b.2))
      | none, some b => .over s (some (b.1.status false, b.2))
      | none, none => localRuns v seq len fill l cov s

/-- The failure of a run of `len` bytes of which `n` could be done. -/
def shortRun (va : Word) (len n status : Nat) : Option (Nat × Word) :=
  if status ≠ 1 then some (status, va + wd n) else if n < len then some (4, va + wd n) else none

/-- A request of a copy sent, with the identity of the thread that issued it (R15, R346). -/
def sendBurst (s : State) (k : Copy) (node : BitVec 16) (body : ReqBody) : State :=
  fabSend s node k.name.toNat k.inc k.asid body (.copy k.id)

/-- What a reply brought is taken in (R224): data read are written here, and the run is done. -/
def takeBack (s : State) (k : Copy) (v : Mover) (d : CopyDesc) (src dst : Word) (b : List Byte × Nat × Nat) : Went :=
  let next (s : State) (k : Copy) (bad : Option (Nat × Word)) : Went :=
    match bad with
    | some b => .over s (some b)
    | none =>
      let k := { k with pos := k.pos + 1, back := none, stop := none }
      .later (State.due { s with copies := s.copies.map (fun e => if e.id = k.id then k else e) } (.copyComplete k.id))
  if d.snode.isSome then
    match writeBurst v k.seq (b.1.length + 1) dst b.1 0 s with
    | none => .pin
    | some (n, bad, s) =>
      let (cov, ws) := coverRun k.cov dst n
      let s := if d.fill then fillTags s v ws else s
      next s { k with cov } (bad.map (fun b => (b.1.status true, b.2)) <|> shortRun src d.len0 b.2.1 b.2.2)
  else
    let (cov, _) := coverRun k.cov dst b.2.1
    next s { k with cov } (if b.2.2 = 1 then k.stop else shortRun dst d.len0 b.2.1 b.2.2)

/-- Whether a copy may name a byte of another package (R63, R68). -/
def farOk (v : Mover) (va : Word) : Bool := (remotePlace va 1).isSome && (v.place va 1).isSome

/-- The next run of a copy with another package: its request is sent. -/
def askRun (s : State) (k : Copy) (v : Mover) (d : CopyDesc) (src dst : Word) : Went :=
  let put (s : State) (k : Copy) : State := { s with copies := s.copies.map (fun e => if e.id = k.id then k else e) }
  match d.snode, d.dnode with
  | some node, _ =>
    let g := leading (farOk v) src d.len0
    if g = 0 then .over s (some (4, src))
    else if (absentCode s node).isSome then .over s (some (7, src))
    else .later (sendBurst (put s { k with out := true }) k node (.read src g))
  | none, some node =>
    let (bs, bad, s) := readBurst v (d.len0 + 1) src d.len0 [] s
    let g := leading (farOk v) dst bs.length
    let stop := if g < bs.length then some (4, dst + wd g) else bad.map (fun b => (b.1.status false, b.2))
    if g = 0 then .over s stop
    else if (absentCode s node).isSome then .over s (some (7, dst))
    else
      let (_, ws) := coverRun k.cov dst g
      .later (sendBurst (put s { k with out := true, stop }) k node (.write dst (bs.take g) (if d.fill then ws else [])))
  | none, none => .over s none

/-- COPY_COMPLETE (R77, R79, R222, R224, R383). -/
def execCopyComplete (id : Nat) (s : State) : Host.Outcome State Fault Refusal :=
  .next (match s.copies.find? (·.id == id) with
    | none => s
    | some k => match k.kind with
      | .index _ => s
      | .copy d =>
        let r := (s.region? k.region).getD Region.blank
        let v : Mover := { agent := .engine id, own := some (k.cid, k.seq), asid := k.asid, place := place r k.core }
        if k.out then s
        else if copyWaits s k v d || (s.halted (k.clus / 16) && k.pos == 0 && k.back.isNone) then s.due (.copyComplete id)
        else
          let s1 := engineSees s id k.cid k.seq
          let went : Went := match d.snode, d.dnode with
            | none, none => localRuns v k.seq d.len0 d.fill d.runs [] s1
            | _, _ => match d.runs[k.pos]? with
              | none => .over s1 none
              | some (src, dst) => match k.back with
                | some b => takeBack s1 k v d src dst b
                | none => askRun s1 k v d src dst
          match went with
          | .over s' fail => if k.descWaits s' then s.due (.copyComplete id) else finishCopy s' k fail
          | .later s => s
          | .pin => s.due (.copyComplete id))

end Sys2Proof.Machine
end

