-- ==== Sys2Proof/Machine/Remote.lean ====
section
/-! DEFINITION. Operations on named packages (R68, R100, R191 to R193), messages to threads (R194 to R196), the
replies to requests (R346, R348), and what a request does at its target (R192, R195). -/

namespace Sys2Proof.Machine

/-! RLD, RST and RAMO. -/

/-- LCODE of RSTAT set (Table 9.14). -/
def Ctx.setLcode (c : Ctx) (code : Nat) : Ctx := { c with rstat := setBits c.rstat 7 0 code }

/-- A failed remote operation takes cause 0x0E (R193). -/
def remoteFailed : M Unit := do
  match (← ctx).got.find? (·.1 == remotePos) with
  | some e => trap 0x0E e.2
  | none => pure ()

/-- The checks made at the issuer (R61 to R63, R68): R63 holds of every access by a thread, with the issuing region's own
allocation. -/
def checkRemote (va : Word) (node : BitVec 16) : M Unit := do
  let s ← get
  if va.toNat % 8 ≠ 0 then trap 0x05 va
  else match place (s.regionOf s.ctx) s.myCore va 8 with
    | none => trap 0x08 va
    | some _ =>
      if node ≠ s.node ∧ (bits va 55 48 = 0xFF ∨ (bits va 55 48 = 0xFE ∧ bits va 47 40 = 0xFF)) then trap 0x08 va
      else pure ()

/-- A remote operation sent: its destination is empty with a result pending, and the thread leaves rotation until the reply
arrives (R25, R191). -/
def sendRemote (o : Ops) (va : Word) (node : BitVec 16) (dst : Option Opd) (write : Bool) (body : ReqBody) : M Ctl := do
  match dst with
  | some (.r n) => needDst n.val
  | some (.f d slot) => let _ ← framePlace d.val slot
  | none => pure ()
  let s ← get
  let c := s.ctx
  let loc := locOf va ((placeWith (fun _ _ => true) s.myCore va 8).bind Place.key)
  if node = s.node ∧ (c.storesBefore (c.seq + 1) loc 8 ∨ c.loadsBefore (c.seq + 1) loc 8) then park .none 0
  else
    needStrong
    match absentCode s node with
    | some code =>
      modC (·.setLcode code)
      trap 0x0E va
    | none =>
      if qRel o.q then release .none 0 3
      modify (fun s =>
        let frame := match dst with
          | some (.f _ _) => true
          | _ => false
        let op : RemoteOp := { core := s.myCore, dst := o.a.x, va, write, acq := qAcq o.q, frame, was := s.ctx.isFull o.a.x.val }
        let s := s.mod (fun c => { (if write || frame then c else c.awaitReg o.a.x.val) with remote := some op, stage := 1 })
        fabSend s node s.cur s.ctx.inc (s.regionOf s.ctx).asid body (.thread s.ctx.cid))
      throw .away

/-- The result of a remote operation that goes to a frame slot. -/
def writeTaken (a : Opd) (v : Word) : M Ctl := do
  let d ← prepDst a
  writeDst d v
  return .seq

/-- RLD (R191, R192). -/
def execRld (o : Ops) (s : State) : Host.Outcome State Fault Refusal :=
  runM (do
    remoteFailed
    match ← taken o.a with
    | some v => writeTaken o.a v
    | none =>
      let va ← effAddr o false
      let t ← readX o.cx
      let node := BitVec.ofNat 16 t.toNat
      checkRemote va node
      sendRemote o va node (some o.a) false (.rld va)) s

/-- RST (R191, R192). -/
def execRst (o : Ops) (s : State) : Host.Outcome State Fault Refusal :=
  runM (do
    remoteFailed
    let va ← effAddr o false
    let t ← readX o.cx
    let v ← readOpd o.a 1
    let node := BitVec.ofNat 16 t.toNat
    checkRemote va node
    sendRemote o va node none true (.rst va v)) s

/-- RAMO (R191, R192): under CAS the new value is in the register after that of field A. -/
def execRamo (o : Ops) (s : State) : Host.Outcome State Fault Refusal :=
  runM (do
    remoteFailed
    match ← taken o.a with
    | some v => writeTaken o.a v
    | none =>
      let va ← effAddr o false
      let t ← readX o.cx
      let node := BitVec.ofNat 16 t.toNat
      let fn := bits t 19 16
      if fn = 9 ∧ o.a.num = 63 then undefinedHere
      else
        let v ← readOpd o.a 1
        let w ← if fn = 9 then readX (Fin.ofNat 64 (o.a.num + 1)) else pure 0
        checkRemote va node
        if 0xD ≤ fn then trap 0x08 t
        else sendRemote o va node (some o.a) false (.ramo fn va v w)) s

/-! RFILL and RSTAT. -/

/-- An RFILL outcome counted in RSTAT (R196). -/
def countOutcome (w : Word) (code : Nat) : Word :=
  if code = 0 then w
  else
    let w := if code = 1 then setBits w 39 32 (min 255 (bits w 39 32 + 1)) else setBits w 31 24 (min 255 (bits w 31 24 + 1))
    setBits w 15 8 code

/-- RFILLs whose outcome has not returned (Table 9.14). -/
def pendOf (w : Word) : Nat := bits w 47 40

/-- RFILL (R194): it completes without waiting for the outcome. -/
def execRfill (o : Ops) (s : State) : Host.Outcome State Fault Refusal :=
  runM (do
    let desc ← readOpd o.b 0
    let v ← readOpd o.a 1
    if bits desc 5 0 = 0 ∨ bits desc 31 30 ≠ 0 ∨ bits desc 15 6 ≠ 0 then trap 0x08 desc
    else
      release .none 0 3
      let s ← get
      let c := s.ctx
      if 16 ≤ pendOf c.rstat then park .none 0
      let node := BitVec.ofNat 16 (bits desc 63 48)
      match absentCode s node with
      | some code =>
        modC (fun c => { c with rstat := countOutcome c.rstat code })
        return .seq
      | none =>
        let m : RfillMsg := { name := BitVec.ofNat 14 (bits desc 29 16), inc := BitVec.ofNat 16 (bits desc 47 32)
                              reg := Fin.ofNat 64 (bits desc 5 0), val := v
                              src := if node = s.node then some c.cid else none }
        let s := s.mod (fun c => { c with rstat := setBits c.rstat 47 40 (pendOf c.rstat + 1) })
        set (if node = s.node then s.dueBy (s.clock + 1000 * micro) (.rfillArrival m)
          else fabSend s node s.cur c.inc (s.regionOf c).asid (.rfill m) (.rfill c.cid))
        return .seq) s

/-- RSTAT (R196). -/
def execRstat (o : Ops) (s : State) : Host.Outcome State Fault Refusal :=
  runM (do
    needDst o.a.x.val
    let w := (← ctx).rstat
    if pendOf w ≠ 0 then park .none 0
    else
      modC (fun c => { c with rstat := setBits (setBits (setBits c.rstat 39 32 0) 31 24 0) 15 8 0 })
      toX o.a.x w
      return .seq) s

/-- The fate of an arriving RFILL (Table 9.13), decided in one step. -/
def applyRfill (s : State) (m : RfillMsg) : Nat × State :=
  let t := m.name.toNat
  let sl := s.slot t
  match sl.ctx with
  | none => (1, s)
  | some c =>
    if sl.inc ≠ m.inc ∨ sl.scrub ∨ !coreOk s (nameCore t) then (1, s)
    else if c.isPend m.reg.val then
      (0, s.setSlot t { sl with ctx := some { c with rfq := c.rfq ++ [(m.reg, m.val)] } })
    else (0, s.setSlot t { sl with ctx := some (c.putX m.reg m.val) })

/-- RFILL_ARRIVAL (R195). -/
def execRfillArrival (m : RfillMsg) (s : State) : Host.Outcome State Fault Refusal :=
  let (code, s) := applyRfill s m
  .next (match m.src with
    | some cid => s.dueBy (s.clock + 1000 * micro) (.rfillOutcome cid code)
    | none => s)

/-- RFILL_OUTCOME (R196). -/
def execRfillOutcome (cid : Nat) (code : Nat) (s : State) : Host.Outcome State Fault Refusal :=
  .next (s.modCtx cid (fun c =>
    { c with rstat := countOutcome (setBits c.rstat 47 40 (pendOf c.rstat - 1)) code }))

/-! Replies. -/

/-- The context of a remote operation after its reply (R192, R193); one that is whole now is finished besides. -/
def Ctx.remoteDone (c : Ctx) (op : RemoteOp) (r : Reply) : Ctx :=
  let v : Word := match r with
    | .word w => w
    | _ => 0
  let back (c : Ctx) (l : List (Nat × Word)) : Ctx := { c with remote := none, got := l, stage := 0, run := .running }
  match r with
  | .fail code =>
    let c := if op.write || op.frame then c else c.giveBack op.dst op.was
    back (c.setLcode code) [(remotePos, op.va)]
  | _ =>
    let c := c.setLcode 0
    if op.frame then back c [(loadPos, v)]
    else if op.write then { c with remote := none }
    else { c with remote := none }.fillX op.dst v

/-- What a reply brings to the one that sent the request. -/
def takeReply (s : State) (q : Sent) (r : Reply) : State :=
  match q.origin with
  | .thread cid => match (s.findCtx cid).bind (·.remote) with
    | none => s
    | some op =>
      let ok := match r with
        | .fail _ => false
        | _ => true
      let s := if ok && op.acq then acquireMark s (.thread cid) 3 (some op.core) else s
      if ok && !op.frame then finishCtx s cid (·.remoteDone op r) else s.modCtx cid (·.remoteDone op r)
  | .rfill cid => s.due (.rfillOutcome cid (match r with
      | .fail code => code
      | _ => 0))
  | .copy id =>
    let back : List Byte × Nat × Nat := match r with
      | .burst l n st => (l, n, st)
      | .fail _ => ([], 0, 7)
      | _ => ([], 0, 1)
    if s.copies.any (·.id == id) then
      State.due { s with copies := s.copies.map (fun (k : Copy) =>
        if k.id = id then { k with out := false, back := some back } else k) } (.copyComplete id)
    else s
  | .sweep id => match r, Tab.get? s.sweeps id with
    | .fail _, some w => if w.granted then s else failSweep s w 7 (wd q.dest.toNat) 0
    | _, _ => s
  | .grant c => match r with
    | .fail _ => releaseReq s c
    | _ => s
  | .advance peer lineage => match r with
    | .word w => s.due (.counterAdvanceAck peer lineage (BitVec.ofNat 40 w.toNat) (bit w 63))
    | _ => s.timeout retryClocks (.counterAdvanceResend peer lineage)
  | .post region id => match r with
    | .postFail n => writeFault s region { reason := 12, aux := id, val := wd n }
    | _ => s
  | .other => s

/-- A request that waited for a place among the 4,096 is sent (R346). -/
def sendWaiting (s : State) (dest : BitVec 16) : State :=
  match s.fabric.waiting.find? (·.dest == dest) with
  | none => s
  | some q =>
    let s : State := { s with fabric := { s.fabric with
      waiting := s.fabric.waiting.erase q, sent := s.fabric.sent ++ [q] } }
    (forward s dest (.request dest q.req)).timeout retryClocks (.requestRetry dest q.req.seq)

/-- REMOTE_REPLY (R100, R346): the request is done, and another takes its place. -/
def execRemoteReply (dest : BitVec 16) (seq : BitVec 32) (r : Reply) (s : State) : Host.Outcome State Fault Refusal :=
  .next (match s.fabric.sent.find? (fun q => q.dest == dest && q.req.seq == seq) with
    | none => s
    | some q =>
      let s : State := { s with
        fabric := { s.fabric with sent := s.fabric.sent.erase q }
        hist := s.hist.filter (fun h => !(q.req.cov.map (farKey dest)).contains h.key) }
      let s := takeReply (sendWaiting s dest) q r
      if bodyWrites q.req.body then settleOut s q.origin else s)

/-! What a request does at its target. -/

/-- Who makes the accesses of a request: the requester here, or the package it came from, with the core. -/
def asker (s : State) (r : Request) : Agent × Option Nat :=
  if r.src = s.node then
    match (s.fabric.sent.find? (fun q => q.dest == s.node && q.req.seq == r.seq)).map (·.origin) with
    | some (Origin.thread cid) => (.thread cid, ((s.findCtx cid).bind (·.remote)).map (·.core))
    | some (Origin.copy id) => (.engine id, none)
    | _ => (.device, none)
  else (.peer r.src, none)

/-- The mark of a strong access of a request: scope 4 where it comes from another package. -/
def askerMark (s : State) (r : Request) : Mark :=
  if r.src = s.node then ⟨3, (asker s r).2⟩ else ⟨4, none⟩

/-- How a request ends at its target: it has to wait, a reply, or none from here. -/
inductive Served where
  | later
  | done (s : State) (r : Reply)
  | silent (s : State)
  deriving DecidableEq, Repr

/-- A strong operation on one word (R180, R192). -/
def serveWord (s : State) (r : Request) (va : Word) (op : StrongOp) : Served :=
  let (a, core) := asker s r
  let write := op != .load
  match placeWith (fun _ _ => true) (core.getD 0) va 8 with
  | none => .done s (.fail 4)
  | some p =>
    if write && heldByXu s r.asid va 8 then .done s (.fail 4)
    else if anyOwns s r.asid va 8 then .later
    else match resolve s r.asid p va 8 (match op with
        | .load => .r
        | .store _ => .w
        | .amo _ _ _ => .rw) with
      | (.error .prot, s) => .done s (.fail 4)
      | (.error (.poison g), s) => .done (noteBad s g) (.fail 5)
      | (.error _, s) => .done s (.fail 3)
      | (.ok key, s) =>
        if write && pinned s key 8 then .later
        else
          let (v, s) := strongDo s a 0 (askerMark s r) key (viaOf s r.asid va) op
          .done s (match op with
            | .store _ => .ack
            | _ => .word v)

/-- Who moves the bytes of a burst. -/
def burstMover (s : State) (r : Request) : Mover :=
  let a := (asker s r).1
  { agent := a, asid := r.asid, place := remotePlace
    own := match a with
      | .engine id => (s.copies.find? (·.id == id)).map (fun k => (k.cid, k.seq))
      | _ => none }

/-- Whether a burst waits for an engine to write its lines. -/
def burstWaits (s : State) (r : Request) (va : Word) (n : Nat) : Bool :=
  match (asker s r).1 with
  | .engine id => engineRecalled s id r.asid va n
  | _ => anyOwns s r.asid va n

/-- A read burst of a copy. -/
def serveRead (s : State) (r : Request) (va : Word) (n : Nat) : Served :=
  if burstWaits s r va n then .later
  else match readBurst (burstMover s r) (n + 1) va n [] s with
    | (l, none, s) => .done s (.burst l l.length 1)
    | (l, some b, s) => .done s (.burst l l.length (b.1.status false))

/-- A write burst of a copy, with the tags it makes full (R72). -/
def serveWrite (s : State) (r : Request) (va : Word) (bs : List Byte) (full : List Word) : Served :=
  let v := burstMover s r
  if burstWaits s r va bs.length then .later
  else match writeBurst v r.seq.toNat (bs.length + 1) va bs 0 s with
    | none => .later
    | some (n, bad, s) =>
      let whole := full.filter (fun w => decide (w.toNat + 8 ≤ va.toNat + n))
      .done (fillTags s v whole) (.burst [] n (match bad with
        | none => 1
        | some b => b.1.status true))

end Sys2Proof.Machine
end

