-- ==== Sys2Proof/Machine/FabricIn.lean ====
section
/-! DEFINITION. Requests that arrive over the fabric (R347), requests sent again (R348), and lost packages (R60, R348,
R349). -/

namespace Sys2Proof.Machine

/-- What a request does here, once (R347). -/
def performReq (s : State) (r : Request) : Served :=
  match r.body with
  | .rld va => serveWord s r va .load
  | .rst va v => serveWord s r va (.store v)
  | .ramo fn va v w => serveWord s r va (.amo fn v w)
  | .rfill m =>
    let (code, s) := applyRfill s m
    .done s (if code = 0 then .ack else .fail code)
  | .read va n => serveRead s r va n
  | .write va bs full => serveWrite s r va bs full
  | .claim c => .done (claimArrives s c) .ack
  | .release c => .done (releaseReq s c) .ack
  | .withdraw c => .done (withdraw s c) .ack
  | .grant w o =>
    if (Tab.get? s.sweeps w).isSome then .done (s.due (.claimGrantArrival w o)) .ack else .done s (.fail 0)
  | .post p => .silent (postArrives s p r.seq)
  | .lost n => .done (s.dueBy (s.clock + 100 * micro) (.lostNoticeArrival n)) .ack
  | .advance a => match takeAdvance s a with
    | (some (n, full), s) => .done s (.word (wd (n.toNat + full.toNat * 2 ^ 63)))
    | (none, s) => .silent s

/-- A source heard of for the first time, or under a join number that is newer than the one kept (R347): only the latter shows
that it has joined since it was declared lost (R343, log 24). No release of before its reset comes to cover its bursts. -/
def newJoin (s : State) (r : Request) (fresh : Bool) : State :=
  let s : State := { s with
    fabric := { s.fabric with
      joins := Tab.set s.fabric.joins r.src.toNat r.join, replies := s.fabric.replies.filter (·.1 != r.src) }
    hist := s.hist.map (fun h => { h with auth := h.auth.filter (· != .peer r.src) }) }
  if r.src = s.node then s else meetNeighbour s r.src fresh

/-- The bursts of a peer that its completed releases at system scope cover, as its request tells (R88, R89, log 56). -/
def coverBursts (s : State) (r : Request) : State :=
  if r.cov.isEmpty then s
  else { s with hist := s.hist.map (fun h =>
    if h.auth.contains (.peer r.src) && (r.cov.map (·.toNat)).contains h.seq && !h.rel.contains ⟨4, none⟩ then
      { h with rel := ⟨4, none⟩ :: h.rel } else h) }

/-- A request from a source whose join number is the one kept: answered again from its record, or performed. -/
def knownRequest (s : State) (r : Request) : State :=
  match s.fabric.replies.find? (fun e => e.1 == r.src && e.2.1 == r.seq) with
  | some e => forward s r.src (.reply r.src s.node r.seq e.2.2)
  | none =>
    match performReq (coverBursts s r) r with
    | .later => s.due (.fabricRequestArrival r)
    | .done s rep => answerReq s r.src r.seq rep
    | .silent s => s

/-- FABRIC_REQUEST_ARRIVAL (R347, R348): a fenced package performs none, and none of a lost package is performed. -/
def execFabricRequestArrival (r : Request) (s : State) : Host.Outcome State Fault Refusal :=
  .next (if s.fabric.fenced ∧ r.src ≠ s.node then s
    else match Tab.get? s.fabric.joins r.src.toNat with
    | none => if s.fabric.lost.contains r.src then newJoin s r false else knownRequest (newJoin s r false) r
    | some k =>
      if r.join.toNat < k.toNat then s
      else if k.toNat < r.join.toNat then knownRequest (newJoin s r true) r
      else if s.fabric.lost.contains r.src then s
      else knownRequest s r)

/-- REQUEST_RETRY (R348). -/
def execRequestRetry (dest : BitVec 16) (seq : BitVec 32) (s : State) : Host.Outcome State Fault Refusal :=
  .next (match s.fabric.sent.find? (fun q => q.dest == dest && q.req.seq == seq) with
    | none => s
    | some q => (forward s dest (.request dest q.req)).timeout retryClocks (.requestRetry dest seq))

/-! Lost packages. -/

/-- The claim requests of a package that stand in this package's units. -/
def claimsOf (s : State) (node : BitVec 16) : List ClaimReq :=
  s.groups.flatMap (fun g =>
    ((g.entries.flatMap (fun e => e.2.held ++ e.2.fifo)) ++ g.deferred.map (·.2) ++
      g.heldReq.filterMap (fun h => match h with
        | .inl r => some r
        | .inr _ => none)).filter (·.node == node))

/-- The claims of a lost package given back and its requests withdrawn; sweeps that need a claim on its elements end
(R60). -/
def dropClaims (s : State) (node : BitVec 16) : State :=
  let s := (claimsOf s node).foldl (fun s r => releaseReq (withdraw s r) r) s
  s.sweeps.foldl (fun s (e : Nat × Sweep) =>
    match Tab.get? s.sweeps e.1 with
    | none => s
    | some w =>
      if w.granted then s
      else match w.set[w.next]? with
        | some m => if idNode m.1 = node then failSweep s w 7 (wd node.toNat) 0 else s
        | none => s) s

/-- Requests to nodes that a test picks end with code 6, at once, within the 2 ms of R348; nothing is sent to those nodes any
more. -/
def endRequests (s : State) (p : BitVec 16 → Bool) : State :=
  let f := s.fabric
  let ended := (f.sent ++ f.waiting).filter (fun q => p q.dest)
  let s : State := { s with fabric := { f with
    sent := f.sent ++ f.waiting.filter (fun q => p q.dest), waiting := f.waiting.filter (fun q => !p q.dest)
    transit := f.transit.filter (fun e => match e.1 with
      | .request d _ => !p d
      | .reply d _ _ _ => !p d
      | _ => true) } }
  let s : State := { s with agenda := s.agenda.filter (fun e => match e with
    | .fabricRequestArrival r => !p r.src
    | _ => true) }
  ended.foldl (fun s q => s.dueBy (s.clock + 100 * micro) (.remoteReply q.dest q.req.seq (.fail 6))) s

/-- LOST_NOTICE_ARRIVAL (R60, R348, R349). Advances that it has not acknowledged are tried from now on until it is present again
(R374). -/
def execLostNoticeArrival (node : BitVec 16) (s : State) : Host.Outcome State Fault Refusal :=
  .next (if node = s.node ∨ s.fabric.lost.contains node then s
    else
      let s : State := { s with fabric := { s.fabric with
        lost := node :: s.fabric.lost, present := s.fabric.present.filter (· != node) } }
      let s := dropTimers (endRequests s (· == node)) (· == .packageLost node)
      let s := (s.lineage.pending.filter (fun e => Config.peerNode e.1 == some node)).foldl
        (fun s e => s.due (.counterAdvanceResend e.1 e.2.lineage)) s
      watchFence (sendTransit (dropClaims s node)))

/-- The other packages that are present. -/
def presentNodes (s : State) : List (BitVec 16) :=
  ((List.range 2048).map (BitVec.ofNat 16)).filter (fun n => n != s.node && isPresent s n)

/-- PACKAGE_LOST (R348): declared here, and told to every package that is present. -/
def execPackageLost (node : BitVec 16) (s : State) : Host.Outcome State Fault Refusal :=
  .next (if node = s.node ∨ isLost s node then s
    else (((presentNodes s).filter (· != node)).foldl (fun s n => fabSend s n 0 0 0 (.lost node) .other) s).dueBy
      (s.clock + 1000 * micro) (.lostNoticeArrival node))

/-- A port of a package that fences itself: no request or reply leaves it any more, not one that waits in it, nor one that it
would replay. -/
def fencePort (s : State) (p : Fin 8) : State :=
  let s := s.modPort p (fun (q : Port) => { q with queue := q.queue.filter (fun w => !isPlain w.payload), part := none })
  if (s.port p).replay.any (fun e => isPlain e.2.payload) then takeDown s p else s

/-- PACKAGE_FENCE (R348): the package takes no further part in the fabric. -/
def execPackageFence (s : State) : Host.Outcome State Fault Refusal :=
  let s := endRequests s (· != s.node)
  .next ((List.finRange 8).foldl fencePort { s with fabric := { s.fabric with fenced := true, replies := [], transit := [] } })

end Sys2Proof.Machine
end

