-- ==== Sys2Proof/Machine/Float.lean ====
section
/-! DEFINITION. Scalar floating point: page 6 (R155 to R157). -/

namespace Sys2Proof.Machine

/-- The precision that Q names, and the rounding mode (R155). -/
def prec (o : Ops) : FloatFmt := if bit o.q 0 then f32 else f64
def fpMode (o : Ops) : Nat := bits o.q 2 1

/-- The bits of a register that an operand of the precision takes. -/
def lowOf (o : Ops) (w : Word) : Nat := w.toNat % 2 ^ (prec o).width

/-- Functions of one, two and three encodings in the precision and mode of Q, over registers. -/
def fp1 (o : Ops) (f : FloatFmt → Nat → Nat → Nat) (a : Word) : Word := wd (f (prec o) (fpMode o) (lowOf o a))
def fp2 (o : Ops) (f : FloatFmt → Nat → Nat → Nat → Nat) (a b : Word) : Word :=
  wd (f (prec o) (fpMode o) (lowOf o a) (lowOf o b))
def fp3 (o : Ops) (f : FloatFmt → Nat → Nat → Nat → Nat → Nat) (a b c : Word) : Word :=
  wd (f (prec o) (fpMode o) (lowOf o a) (lowOf o b) (lowOf o c))

/-- FADD (R155). -/
def execFadd (o : Ops) (s : State) : Host.Outcome State Fault Refusal :=
  runM (binary (fp2 o (fun f m a b => f.add m a b)) o) s

/-- FSUB (R155). -/
def execFsub (o : Ops) (s : State) : Host.Outcome State Fault Refusal :=
  runM (binary (fp2 o (fun f m a b => f.sub m a b)) o) s

/-- FMUL (R155). -/
def execFmul (o : Ops) (s : State) : Host.Outcome State Fault Refusal :=
  runM (binary (fp2 o (fun f m a b => f.mul m a b)) o) s

/-- FDIV (R155). -/
def execFdiv (o : Ops) (s : State) : Host.Outcome State Fault Refusal :=
  runM (binary (fp2 o (fun f m a b => f.div m a b)) o) s

/-- FSQRT (R155). -/
def execFsqrt (o : Ops) (s : State) : Host.Outcome State Fault Refusal :=
  runM (unary (fp1 o (fun f m a => f.sqrt m a)) o) s

/-- FMIN (R156). -/
def execFmin (o : Ops) (s : State) : Host.Outcome State Fault Refusal :=
  runM (binary (fp2 o (fun f _ a b => f.pick false a b)) o) s

/-- FMAX (R156). -/
def execFmax (o : Ops) (s : State) : Host.Outcome State Fault Refusal :=
  runM (binary (fp2 o (fun f _ a b => f.pick true a b)) o) s

/-- FABS (R156). -/
def execFabs (o : Ops) (s : State) : Host.Outcome State Fault Refusal :=
  runM (unary (fp1 o (fun f _ a => f.abs a)) o) s

/-- FNEG (R156). -/
def execFneg (o : Ops) (s : State) : Host.Outcome State Fault Refusal :=
  runM (unary (fp1 o (fun f _ a => f.flip a)) o) s

/-- FSGNJ (R156). -/
def execFsgnj (o : Ops) (s : State) : Host.Outcome State Fault Refusal :=
  runM (binary (fp2 o (fun f _ a b => f.copySign a b)) o) s

/-- FMA (R155). -/
def execFma (o : Ops) (s : State) : Host.Outcome State Fault Refusal :=
  runM (ternary (fp3 o (fun f m a b c => f.fma m false false a b c)) o) s

/-- FMS (R155). -/
def execFms (o : Ops) (s : State) : Host.Outcome State Fault Refusal :=
  runM (ternary (fp3 o (fun f m a b c => f.fma m false true a b c)) o) s

/-- FNMA (R155). -/
def execFnma (o : Ops) (s : State) : Host.Outcome State Fault Refusal :=
  runM (ternary (fp3 o (fun f m a b c => f.fma m true false a b c)) o) s

/-- FEQ (R157). -/
def execFeq (o : Ops) (s : State) : Host.Outcome State Fault Refusal :=
  runM (binary (fp2 o (fun f _ a b => (f.eq a b).toNat)) o) s

/-- FLT (R157). -/
def execFlt (o : Ops) (s : State) : Host.Outcome State Fault Refusal :=
  runM (binary (fp2 o (fun f _ a b => (f.lt a b).toNat)) o) s

/-- FLE (R157). -/
def execFle (o : Ops) (s : State) : Host.Outcome State Fault Refusal :=
  runM (binary (fp2 o (fun f _ a b => (f.le a b).toNat)) o) s

/-- FCLASS (R157, Table 8.9). -/
def execFclass (o : Ops) (s : State) : Host.Outcome State Fault Refusal :=
  runM (unary (fp1 o (fun f _ a => 2 ^ f.classBit a)) o) s

/-- FCVTI (R102, R157). -/
def execFcvti (o : Ops) (s : State) : Host.Outcome State Fault Refusal :=
  runM (unary (fun w => BitVec.ofInt 64 (((prec o).decode (lowOf o w)).toInt (fpMode o) (-2 ^ 63) (2 ^ 63 - 1))) o) s

/-- FCVTU (R102, R157). -/
def execFcvtu (o : Ops) (s : State) : Host.Outcome State Fault Refusal :=
  runM (unary (fun w => BitVec.ofInt 64 (((prec o).decode (lowOf o w)).toInt (fpMode o) 0 (2 ^ 64 - 1))) o) s

/-- ICVTF (R102, R157). -/
def execIcvtf (o : Ops) (s : State) : Host.Outcome State Fault Refusal :=
  runM (unary (fun w => wd ((prec o).encode (fpMode o) (Fp.ofInt w.toInt))) o) s

/-- UCVTF (R102, R157). -/
def execUcvtf (o : Ops) (s : State) : Host.Outcome State Fault Refusal :=
  runM (unary (fun w => wd ((prec o).encode (fpMode o) (Fp.ofInt w.toNat))) o) s

/-- FCVTF (R157: from the other precision). -/
def execFcvtf (o : Ops) (s : State) : Host.Outcome State Fault Refusal :=
  runM (unary (fun w => wd ((prec o).encode (fpMode o) (if bit o.q 0 then f64.decode w.toNat else f32.decode (w.toNat % 2 ^ 32)))) o) s

end Sys2Proof.Machine
end

