-- ==== Sys2Proof/Machine/Frames.lean ====
section
/-! DEFINITION. Frames and the display (R158 to R167). -/

namespace Sys2Proof.Machine

/-- The depth in field A, and the depth in an imm4. -/
def depthA (o : Ops) : Nat := o.a.num % 8
def depthB (o : Ops) : Nat := o.imm.toNat % 8

def Ctx.disp (c : Ctx) (d : Nat) : Word := c.d.getD d 0
def Ctx.setDisp (c : Ctx) (d : Nat) (w : Word) : Ctx := { c with d := c.d.set! d w }

/-- A display entry in use by an outer frame may not be replaced (R160 to R162, R166). -/
def needUntied (d : Nat) : M Unit := do
  let c ← ctx
  if bit c.j d || bit c.o d then trap 0x08 (wd d) else pure ()

/-- The bytes of a frame of n words, a multiple of 16 (R160). -/
def frameBytes (n : Nat) : Nat := (8 * n + 15) / 16 * 16

/-- FENTER (R160): the store of slot 0 is checked precisely at its home. -/
def execFenter (o : Ops) (s : State) : Host.Outcome State Fault Refusal :=
  runM (do
    let d := depthA o
    let x2 ← readX 2
    needDst 2
    needUntied d
    needDisplay d
    if x2.toNat % 16 ≠ 0 then trap 0x05 x2
    else
      let low := (stackRange (← get) (← ctx)).1
      let base : Int := (x2.toNat : Int) - frameBytes o.imm.toNat
      if base < low.toNat then trap 0x0B (BitVec.ofInt 64 base)
      else
        let va := BitVec.ofInt 64 base
        let p ← checkPlace va 8
        checkXu va 8
        needStoreRoom
        let s ← get
        let (r, s') := resolve s (s.regionOf s.ctx).asid p va 8 .w
        set s'
        match r with
        | .error .pool => trap 0x13 va
        | .error _ => trap 0x08 va
        | .ok _ =>
          sendStore [(va, p.key, toBytes 8 ((← ctx).disp d).toNat)]
          modC (fun c => (c.setDisp d va).putX 2 va)
          return .seq) s

/-- FLEAVE (R160). -/
def execFleave (o : Ops) (s : State) : Host.Outcome State Fault Refusal :=
  runM (do
    let d := depthA o
    let x2 ← readX 2
    needDst 2
    needDisplay d
    let e := (← ctx).disp d
    let base := wd (bits e 47 0)
    if bits e 63 60 ≠ 0 ∨ base ≠ x2 then trap 0x0B e
    else
      let p ← checkPlace base 8
      let v ← awaitLoad 8 base p 0
      modC (fun c => (c.setDisp d v).putX 2 (base + wd (frameBytes o.imm.toNat)))
      return .seq) s

/-- The VA that R126 forms for a kind. -/
def windowVa (k base : Nat) : Word := if k = 1 then wd (0x00FF000000000000 ||| base) else wd (0x00FEFF0000000000 ||| base)

/-- The first of `n` bytes that fails the tests of R61 to R63 (R62). FOPEN names that byte in TVAL, where a vector access
names its element's VA: the spec does not say which byte a check of several reports (DESIGN CHOICE, log 44). -/
def firstBad (r : Region) (core : Nat) (va : Word) (n : Nat) : Option Word :=
  ((List.range n).find? (fun i => (place r core (va + wd i) 1).isNone)).map (fun i => va + wd i)

/-- FOPEN (R161): the thread becomes the owner of a new outer frame; its words are not cleared. -/
def execFopen (o : Ops) (s : State) : Host.Outcome State Fault Refusal :=
  runM (do
    let d := depthA o
    let desc ← readOpd o.b 0
    let size ← readX o.cx
    needUntied d
    needDisplay d
    let k := bits desc 63 60
    let base := bits desc 47 0
    if k ≠ 1 ∧ k ≠ 2 then trap 0x08 desc
    else if base % 8 ≠ 0 then trap 0x05 (windowVa k base)
    else if size = 0 ∨ size.toNat % 8 ≠ 0 ∨ 65536 < size.toNat then trap 0x0B size
    else
      let s ← get
      match firstBad (s.regionOf s.ctx) s.myCore (windowVa k base) size.toNat with
      | some va => trap 0x08 va
      | none =>
        if (matchEntry s s.myClus s.myCore desc).isSome then trap 0x0B (windowVa k base)
        else match (List.range 64).find? (fun i => !((s.ftab s.myClus).getD i {}).live) with
          | none => trap 0x0B 0
          | some i =>
            let g := ((s.ftab s.myClus).getD i {}).gen
            modify (fun s => s.modEntry s.myClus i (fun e =>
              { e with live := true, kind := k, core := s.myCore, base, size := size.toNat, count := 0, orel := false }))
            modC (fun c => { c.setDisp d (wd (k * 2 ^ 60 + g.toNat * 2 ^ 48 + base)) with o := setBit c.o d true })
            return .seq) s

/-- FJOIN (R162). -/
def execFjoin (o : Ops) (s : State) : Host.Outcome State Fault Refusal :=
  runM (do
    let d := depthA o
    let v ← readOpd o.b 0
    needUntied d
    needDisplay d
    if bits v 63 60 ≠ 1 ∧ bits v 63 60 ≠ 2 then trap 0x08 v
    else
      let s ← get
      match matchEntry s s.myClus s.myCore v with
      | none => trap 0x0A 0
      | some i =>
        if ((s.ftab s.myClus).getD i {}).gen.toNat ≠ bits v 59 48 then trap 0x0A 0
        else
          modify (fun s => s.modEntry s.myClus i (fun e => { e with count := e.count + 1 }))
          modC (fun c => { c.setDisp d v with j := setBit c.j d true })
          return .seq) s

/-- FPUB (R97, R164): it waits for the thread's earlier outer-frame writes. -/
def execFpub (_o : Ops) (s : State) : Host.Outcome State Fault Refusal :=
  runM (do
    if (← ctx).outer.isEmpty then return .seq else park .none 0) s

/-- The key at which an outer frame begins. -/
def frameKey (s : State) (e : FrameEnt) : Nat :=
  if e.kind = 1 then coreKey e.core e.base else clusKey s.myClus e.base

/-- Whether a context has a write to `n` bytes at a key of an explicit level on its way. -/
def Ctx.writesTo (c : Ctx) (key n : Nat) : Bool :=
  c.storesBefore (c.seq + 1) key n || match c.strong with
    | some p => p.op != .load && overlap p.key 8 key n
    | none => false

/-- FRET (R97, R163): it waits for the thread's earlier writes to the frame, by whatever access. R163 takes the entry to be live;
where none matches, as after an edited image, J[d] is cleared and nothing else is done (DESIGN CHOICE, log 106). -/
def execFret (o : Ops) (s : State) : Host.Outcome State Fault Refusal :=
  runM (do
    let d := depthA o
    let s ← get
    let c := s.ctx
    if !bit c.j d then trap 0x08 (wd d)
    else match matchEntry s s.myClus s.myCore (c.disp d) with
      | none =>
        modC (fun c => { c with j := setBit c.j d false })
        return .seq
      | some i =>
        let e := (s.ftab s.myClus).getD i {}
        if c.writesTo (frameKey s e) e.size then park .none 0
        else
          set (retireEntry s s.myClus i false)
          modC (fun c => { c with j := setBit c.j d false })
          return .seq) s

/-- FRET.OWN (R163): the owner's release does not wait for the count. Nor does it wait for the thread's outer-frame writes, of
which R97 and R163 speak for FRET alone; where no live entry matches, O[d] alone is cleared (DESIGN CHOICE, logs 106 and
107). -/
def execFretOwn (o : Ops) (s : State) : Host.Outcome State Fault Refusal :=
  runM (do
    let d := depthA o
    let s ← get
    let c := s.ctx
    if !bit c.o d then trap 0x08 (wd d)
    else
      match matchEntry s s.myClus s.myCore (c.disp d) with
      | none => pure ()
      | some i => set (retireEntry s s.myClus i true)
      modC (fun c => { c with o := setBit c.o d false })
      return .seq) s

/-- DGET (R166). -/
def execDget (o : Ops) (s : State) : Host.Outcome State Fault Refusal :=
  runM (do
    toX o.a.x ((← ctx).disp (depthB o))
    return .seq) s

/-- The status word of Table 8.11. -/
def frameStatus (s : State) (d : Nat) : Word :=
  let c := s.ctx
  let e := c.disp d
  let own := (bit c.j d).toNat * 2 ^ 61 + (bit c.o d).toNat * 2 ^ 60
  match (if bits e 63 60 = 0 then none else matchEntry s s.myClus s.myCore e) with
  | none => wd own
  | some i =>
    let f := (s.ftab s.myClus).getD i {}
    wd (own + (f.gen.toNat == bits e 59 48).toNat * 2 ^ 63 + f.orel.toNat * 2 ^ 62 + f.gen.toNat * 2 ^ 48 +
      i * 2 ^ 18 + f.count.toNat)

/-- DGET.ST (R97, R166): a strong read at the frame table. -/
def execDgetSt (o : Ops) (s : State) : Host.Outcome State Fault Refusal :=
  runM (do
    needDst o.a.x.val
    needStrong
    toX o.a.x (frameStatus (← get) (depthB o))
    return .seq) s

/-- DSET (R166): without checks of the value. -/
def execDset (o : Ops) (s : State) : Host.Outcome State Fault Refusal :=
  runM (do
    let d := depthA o
    let v ← readOpd o.b 0
    needUntied d
    needDisplay d
    modC (·.setDisp d v)
    return .seq) s

/-- FADDR (R167): the address of any slot; no access is made. -/
def execFaddr (o : Ops) (s : State) : Host.Outcome State Fault Refusal :=
  runM (do
    let slot ← readX o.cx
    let c ← ctx
    let va ← frameVa c (depthB o) slot.toNat
    checkFrame c (depthB o) slot.toNat va
    toX o.a.x va
    return .seq) s

end Sys2Proof.Machine
end

