-- ==== Sys2Proof/Machine/Sfu.lean ====
section
/-! DEFINITION. The special functions (R116, Table 6.8): each the exact value of its function rounded once. The
elementary ones are enclosed ever more narrowly until both ends round alike (log 10). -/

namespace Sys2Proof.Machine

/-! Numbers over 2^p. -/

/-- A series of `n` terms t/(2k+1), each next t divided by `q`, with alternating signs where `alt` holds. -/
def oddSeries (alt : Bool) (q : Nat) : Nat → Nat → Nat → Int → Int
  | 0, _, _, acc => acc
  | n + 1, k, t, acc =>
    oddSeries alt q n (k + 1) (t / q) (if alt && k % 2 == 1 then acc - t / (2 * k + 1) else acc + t / (2 * k + 1))

/-- ln 2, as twice the area tangent of 1/3. -/
def ln2Fx (p : Nat) : Nat := (oddSeries false 9 (p / 3 + 4) 0 (2 ^ (p + 1) / 3) 0).toNat

/-- π, by Machin's formula. -/
def piFx (p : Nat) : Nat :=
  (16 * oddSeries true 25 (p / 4 + 4) 0 (2 ^ p / 5) 0 - 4 * oddSeries true 57121 (p / 15 + 4) 0 (2 ^ p / 239) 0).toNat

/-- The exponential of t for 0 ≤ t < 2. -/
def expFx (p t : Nat) : Nat → Nat → Nat → Nat → Nat
  | 0, _, _, acc => acc
  | n + 1, k, term, acc =>
    let term := term * t / 2 ^ p / (k + 1)
    expFx p t n (k + 1) term (acc + term)

def exp0 (p t : Nat) : Nat := expFx p t (p / 4 + 10) 0 (2 ^ p) (2 ^ p)

/-- The area tangent of z for 0 ≤ z ≤ 1/3. -/
def atanhFx (p z2 : Nat) : Nat → Nat → Nat → Nat → Nat
  | 0, _, _, acc => acc
  | n + 1, k, zk, acc => atanhFx p z2 n (k + 1) (zk * z2 / 2 ^ p) (acc + zk / (2 * k + 1))

/-- Sine or cosine of r for 0 ≤ r < 2: the terms from a first one on, each next one multiplied by -r²/(k+1)(k+2). -/
def trigFx (p r2 : Nat) : Nat → Nat → Nat → Int → Int
  | 0, _, _, acc => acc
  | n + 1, k, term, acc =>
    let term := term * r2 / 2 ^ p / ((k + 1) * (k + 2))
    trigFx p r2 n (k + 2) term (if k / 2 % 2 = 0 then acc - term else acc + term)

def sin0 (p r : Nat) : Nat := (trigFx p (r * r / 2 ^ p) (p / 6 + 10) 1 r r).toNat
def cos0 (p r : Nat) : Nat := (trigFx p (r * r / 2 ^ p) (p / 6 + 10) 0 (2 ^ p) (2 ^ p)).toNat

/-- A number known to within 2^24 units of 2^e: its sign and magnitude. -/
structure Near where
  neg : Bool
  v : Nat
  e : Int

/-- Whether every number within the bounds rounds alike. -/
def Near.settled (f : FloatFmt) (x : Near) : Bool := f.round 0 x.neg (x.v - 2 ^ 24) x.e == f.round 0 x.neg (x.v + 2 ^ 24) x.e

/-- The exact value rounded once, from its bounds at growing working precisions: the first that settles it; no value of a
format lies so near to a rounding boundary that the last does not (log 10). -/
def settleAt (f : FloatFmt) (g : Nat → Near) : Nat :=
  let x := (([192, 384, 768].map g).find? (·.settled f)).getD (g 768)
  f.round 0 x.neg x.v x.e

/-! The functions. -/

/-- 2^x (VEXP2, and exp2_fn of R217). -/
def sfuExp2 (f : FloatFmt) (b : Nat) : Nat :=
  match f.decode b with
  | .nan => f.nan
  | .inf s => if s then 0 else f.infBits
  | .num s m e =>
    let top := e + Nat.log2 m
    if m = 0 ∨ top < -64 then f.round 0 false 1 0
    else if 12 ≤ top then f.round 0 false 1 (if s then -8192 else 8192)
    else
      let d := (-(min e 0)).toNat
      let x := scaled s m e (min e 0)
      let n := x / 2 ^ d
      let r := (x % 2 ^ d).toNat
      if r = 0 then f.round 0 false 1 n
      else settleAt f (fun p => ⟨false, exp0 p (r * 2 ^ p / 2 ^ d * ln2Fx p / 2 ^ p), n - p⟩)

/-- log2 x (VLOG2). -/
def sfuLog2 (f : FloatFmt) (b : Nat) : Nat :=
  match f.decode b with
  | .nan => f.nan
  | .inf s => if s then f.nan else f.infBits
  | .num s m e =>
    if m = 0 then f.signBit + f.infBits
    else if s then f.nan
    else
      let l := Nat.log2 m
      if m = 2 ^ l then f.encode 0 (Fp.ofInt (e + l))
      else settleAt f (fun p =>
        let z := (m - 2 ^ l) * 2 ^ p / (m + 2 ^ l)
        let ln := 2 * atanhFx p (z * z / 2 ^ p) (p / 3 + 4) 0 z 0
        let v : Int := (e + l) * 2 ^ p + (ln * 2 ^ p / ln2Fx p : Nat)
        ⟨decide (v < 0), v.natAbs, -(p : Int)⟩)

/-- 1/x (VRCP). -/
def sfuRcp (f : FloatFmt) (b : Nat) : Nat := f.div 0 (f.round 0 false 1 0) b

/-- 1/√x (VRSQ). -/
def sfuRsq (f : FloatFmt) (b : Nat) : Nat :=
  match f.decode b with
  | .nan => f.nan
  | .inf s => if s then f.nan else 0
  | .num s m e =>
    if m = 0 then (if s then f.signBit else 0) + f.infBits
    else if s then f.nan
    else
      let k := ((e + Nat.log2 m).natAbs / 2 + f.fb + 8)
      let n : Int := 2 * k - e
      let r := isqrt (2 ^ n.toNat / m)
      f.round 0 false (2 * r + (if r * r * m = 2 ^ n.toNat then 0 else 1)) (-(k : Int) - 1)

/-- sin x and cos x (VSIN, VCOS) for a finite x that is not 0. -/
def sfuTrig (f : FloatFmt) (cosine s : Bool) (m : Nat) (e : Int) : Nat :=
  let top := e + Nat.log2 m
  if top < -40 then (if cosine then f.round 0 false 1 0 else f.round 0 s m e)
  else settleAt f (fun p =>
    let big := (max 0 (top + 1)).toNat
    let w := p + big + 32
    let x := if 0 ≤ e + w then m * 2 ^ (e + w).toNat else m / 2 ^ (-(e + w)).toNat
    let h := piFx w / 2
    let r := x % h / 2 ^ (big + 32)
    let q := (x / h + (if cosine then 1 else 0)) % 4
    let v := if q % 2 = 0 then sin0 p r else cos0 p r
    ⟨(decide (2 ≤ q)) != (s && !cosine), v, -(p : Int)⟩)

def sfuSin (f : FloatFmt) (b : Nat) : Nat :=
  match f.decode b with
  | .nan => f.nan
  | .inf _ => f.nan
  | .num s m e => if m = 0 then f.round 0 s 0 0 else sfuTrig f false s m e

def sfuCos (f : FloatFmt) (b : Nat) : Nat :=
  match f.decode b with
  | .nan => f.nan
  | .inf _ => f.nan
  | .num s m e => if m = 0 then f.round 0 false 1 0 else sfuTrig f true s m e

/-- tanh x (VTANH). -/
def sfuTanh (f : FloatFmt) (b : Nat) : Nat :=
  match f.decode b with
  | .nan => f.nan
  | .inf s => f.round 0 s 1 0
  | .num s m e =>
    let top := e + Nat.log2 m
    if m = 0 then f.round 0 s 0 0
    else if top < -40 then f.round 0 s m e
    else if 5 ≤ top then f.round 0 s 1 0
    else settleAt f (fun p =>
      let w := p + 112
      let t := if 0 ≤ e + w then 2 * m * 2 ^ (e + w).toNat else 2 * m / 2 ^ (-(e + w)).toNat
      let ln := ln2Fx w
      let ex := exp0 w (t % ln) * 2 ^ (t / ln)
      ⟨s, (ex - 2 ^ w) * 2 ^ p / (ex + 2 ^ w), -(p : Int)⟩)

end Sys2Proof.Machine
end

