-- ==== Sys2Proof/Machine/Vector.lean ====
section
/-! DEFINITION. Vector arithmetic, conversions, compares, reductions, scans, permutes, masks and special functions
(R197 to R210, R213, R214). -/

namespace Sys2Proof.Machine

/-- The format of a class F element type. -/
def fmtOf (et : Nat) : FloatFmt :=
  match et with
  | 8 => f16
  | 9 => bf16
  | 10 => f32
  | _ => f64

def intOrFp (et : Nat) : Bool := decide (et < 12)
def allET (_et : Nat) : Bool := true
def sfuClass (et : Nat) : Bool := et == 10 || et == 11

/-- Page 0 names m0 and merges (R199). -/
def pageOnly : M VMask := return pageMask

/-! Forms (R202, Table 10.3). -/

def vUnary (ok : Nat → Bool) (mask : M VMask) (f : VCfg → Nat → Nat) (o : Ops) : M Ctl := do
  let k ← needClass ok
  let m ← mask
  let b ← readV o.b.v
  putV k m o.a.v (fun i => f k (elemOf k.w b i))
  return .seq

/-- vA with vB without REG, vB with vC under REG. -/
def vBinary (ok : Nat → Bool) (mask : M VMask) (f : VCfg → Nat → Nat → Nat) (o : Ops) : M Ctl := do
  let k ← needClass ok
  let m ← mask
  let b ← readV o.b.v
  let (x, y) ← match o.c with
    | some _ => do
      let c ← readV o.cv
      pure (b, c)
    | none => do
      let a ← readV o.a.v
      pure (a, b)
  putV k m o.a.v (fun i => f k (elemOf k.w x i) (elemOf k.w y i))
  return .seq

/-- Three inputs: the elements of vB, vC and the old destination. -/
def vTernary (ok : Nat → Bool) (mask : M VMask) (f : VCfg → Nat → Nat → Nat → Nat) (o : Ops) : M Ctl := do
  let k ← needClass ok
  let m ← mask
  let b ← readV o.b.v
  let c ← readV o.cv
  let old ← readV o.a.v
  putV k m o.a.v (fun i => f k (elemOf k.w b i) (elemOf k.w c i) (elemOf k.w old i))
  return .seq

/-! Elements. A result is taken modulo 2^w where it is put into its register. -/

def vAddE (k : VCfg) (a b : Nat) : Nat := if isF k.et then (fmtOf k.et).add k.rm a b else a + b
def vSubE (k : VCfg) (a b : Nat) : Nat := if isF k.et then (fmtOf k.et).sub k.rm a b else a + 2 ^ k.w - b
def vMulE (k : VCfg) (a b : Nat) : Nat := if isF k.et then (fmtOf k.et).mul k.rm a b else a * b

/-- VMIN and VMAX: signed under class I (Table 10.4). -/
def vMinE (max : Bool) (k : VCfg) (a b : Nat) : Nat :=
  if isF k.et then (fmtOf k.et).pick max a b
  else if decide (sext k.w a ≤ sext k.w b) != max then a else b

/-- b × c + d with the signs of the product and of d inverted as told. -/
def vFmaE (np nd : Bool) (k : VCfg) (b c d : Nat) : Nat :=
  if isF k.et then (fmtOf k.et).fma k.rm np nd b c d
  else wrap k.w ((if np then -(b * c : Int) else b * c) + (if nd then -(d : Int) else d))

def vDivE (k : VCfg) (a b : Nat) : Nat :=
  if isF k.et then (fmtOf k.et).div k.rm a b
  else if b = 0 then 2 ^ k.w - 1
  else if k.et < 4 then wrap k.w ((sext k.w a).tdiv (sext k.w b)) else a / b

/-! Conversion (R205). -/

/-- The value of an element as an integer (class I). -/
def intOf (et v : Nat) : Int := if et < 4 then sext (etWidth et) v else v

/-- The least and the greatest value of an integer type. -/
def intLow (et : Nat) : Int := if et < 4 then -(2 : Int) ^ (etWidth et - 1) else 0
def intHigh (et : Nat) : Int := if et < 4 then (2 : Int) ^ (etWidth et - 1) - 1 else (2 : Int) ^ etWidth et - 1

/-- One element converted from a type to another. -/
def convE (rm src dst v : Nat) : Nat :=
  let x : Fp := if isI src then Fp.ofInt (intOf src v) else if isF src then (fmtOf src).decode v else skimDecode v
  if isF dst then (fmtOf dst).encode rm x
  else if isI dst then
    wrap (etWidth dst) (if isI src then clamp (intLow dst) (intHigh dst) (intOf src v)
      else x.toInt rm (intLow dst) (intHigh dst))
  else skimEncode x

/-- VCVT: which source element each destination element takes. -/
def vConvert (k : VCfg) (m : VMask) (src seg : Nat) (b : VWord) (a : Fin 16) : M Unit := do
  let ws := etWidth src
  let ns := 1024 / ws
  let conv (i : Nat) : Nat := convE k.rm src k.et (elemOf ws b i)
  if k.n ≤ ns then
    let g := seg % (ns / k.n)
    putV k m a (fun i => conv (g * k.n + i))
  else
    let g := seg % (k.n / ns)
    let inSeg (i : Nat) : Bool := decide (g * ns ≤ i) && decide (i < (g + 1) * ns)
    let mask := BitVec.ofNat 128 ((List.range 128).foldl (fun v i => if inSeg i && m.m.getLsbD i then v + 2 ^ i else v) 0)
    putV k ⟨mask, m.zero⟩ a (fun i => conv (i - g * ns))

/-! Masks. -/

/-- A mask result; m0 takes none. -/
def toM (a : Fin 8) (w : MWord) : M Unit := do
  needDst (80 + a.val)
  writeM a w

/-- A mask result bit by bit: inactive bits kept or cleared (R199, R207). -/
def putM (k : VCfg) (m : VMask) (a : Fin 8) (f : Nat → Bool) : M Unit := do
  needDst (80 + a.val)
  if !m.zero then needFull (80 + a.val)
  modC (fun c => c.putM a (BitVec.ofNat 128 ((List.range 128).foldl (fun v i =>
    if (if activeAt k.vl m.m i then f i else !m.zero && (c.getM a).getLsbD i) then v + 2 ^ i else v) 0)))

/-- MAND, MOR and MXOR. -/
def maskOp (f : MWord → MWord → MWord) (o : Ops) : M Ctl := do
  let b ← readM o.b.m
  let (x, y) ← match o.c with
    | some c => do
      let z ← readM (Fin.ofNat 8 c.val)
      pure (b, z)
    | none => do
      let a ← readM o.a.m
      pure (a, b)
  toM o.a.m (f x y)
  return .seq

/-! Compares (R207). -/

def cmpClass (fn et : Nat) : Bool := if fn < 2 then true else if fn < 6 then decide (et < 12) else isF et

def cmpE (k : VCfg) (fn a b : Nat) : Bool :=
  let f := fmtOf k.et
  match fn with
  | 0 => a == b
  | 1 => a != b
  | 2 => decide (sext k.w a < sext k.w b)
  | 3 => decide (sext k.w a ≤ sext k.w b)
  | 4 => decide (a < b)
  | 5 => decide (a ≤ b)
  | 6 => f.eq a b
  | 7 => f.lt a b
  | 8 => f.le a b
  | _ => (f.decode a).isNan || (f.decode b).isNan

/-! Reductions and scans (R117, R208, R209). -/

/-- The identity of a reduction (Table 10.6). -/
def redUnit (k : VCfg) (fn : Nat) : Nat :=
  let f := fmtOf k.et
  match fn with
  | 0 => 0
  | 1 => 2 ^ (k.w - 1) - 1
  | 2 => 2 ^ (k.w - 1)
  | 3 => 2 ^ k.w - 1
  | 4 => 0
  | 5 => 2 ^ k.w - 1
  | 6 => 0
  | 7 => f.signBit
  | 8 => f.infBits
  | _ => f.signBit + f.infBits

/-- One node of a reduction. -/
def redNode (k : VCfg) (fn a b : Nat) : Nat :=
  match fn with
  | 0 => (a + b) % 2 ^ k.w
  | 1 => vMinE false k a b
  | 2 => vMinE true k a b
  | 3 => min a b
  | 4 => max a b
  | 5 => Nat.land a b
  | 6 => Nat.lor a b
  | 7 => (fmtOf k.et).add k.rm a b
  | 8 => (fmtOf k.et).pick false a b
  | _ => (fmtOf k.et).pick true a b

/-- One level of the pairwise tree. -/
def pairUp (g : Nat → Nat → Nat) : List Nat → List Nat
  | a :: b :: l => g a b :: pairUp g l
  | l => l

/-- Levels of the tree until one element is left. -/
def treeOf (g : Nat → Nat → Nat) : Nat → List Nat → Nat
  | 0, l => l.headD 0
  | n + 1, l => treeOf g n (pairUp g l)

/-- VRED: the tree over the N positions, extended to 64 bits. -/
def vReduce (k : VCfg) (m : VMask) (fn : Nat) (b : VWord) : Word :=
  let l := (List.range k.n).map (fun i => if activeAt k.vl m.m i then elemOf k.w b i else redUnit k fn)
  let r := treeOf (redNode k fn) 7 l
  let signed : Bool := match fn with
    | 1 => true
    | 2 => true
    | 0 => decide (k.et < 4)
    | 5 => decide (k.et < 4)
    | 6 => decide (k.et < 4)
    | _ => false
  if signed then BitVec.ofInt 64 (sext k.w r) else wd r

/-- The prefixes of VSCAN: ADD, MAX and FADD are nodes 0, 2 and 7 of VRED. -/
def scanE (k : VCfg) (m : VMask) (fn : Nat) (b : VWord) : List Nat :=
  let node := match fn with
    | 0 => 0
    | 1 => 2
    | _ => 7
  ((List.range k.vl).foldl (fun (acc : List Nat) i =>
    let x := if activeAt k.vl m.m i then elemOf k.w b i else redUnit k node
    (match acc with
      | [] => x
      | p :: _ => redNode k node p x) :: acc) []).reverse

/-! Page 0 (R202). -/

/-- VMOV (R202). -/
def execVmov (o : Ops) (s : State) : Host.Outcome State Fault Refusal :=
  runM (vUnary allET pageOnly (fun _ a => a) o) s

/-- VADD (R202). -/
def execVadd (o : Ops) (s : State) : Host.Outcome State Fault Refusal :=
  runM (vBinary intOrFp pageOnly (vAddE) o) s

/-- VSUB (R202). -/
def execVsub (o : Ops) (s : State) : Host.Outcome State Fault Refusal :=
  runM (vBinary intOrFp pageOnly (vSubE) o) s

/-- VMUL (R202). -/
def execVmul (o : Ops) (s : State) : Host.Outcome State Fault Refusal :=
  runM (vBinary intOrFp pageOnly (vMulE) o) s

/-- VMIN (R202). -/
def execVmin (o : Ops) (s : State) : Host.Outcome State Fault Refusal :=
  runM (vBinary intOrFp pageOnly (vMinE false) o) s

/-- VMAX (R202). -/
def execVmax (o : Ops) (s : State) : Host.Outcome State Fault Refusal :=
  runM (vBinary intOrFp pageOnly (vMinE true) o) s

/-- VFMA (R202). -/
def execVfma (o : Ops) (s : State) : Host.Outcome State Fault Refusal :=
  runM (vTernary intOrFp pageOnly (vFmaE false false) o) s

/-- VAND (R202). -/
def execVand (o : Ops) (s : State) : Host.Outcome State Fault Refusal :=
  runM (vBinary allET pageOnly (fun _ a b => Nat.land a b) o) s

/-- VOR (R202). -/
def execVor (o : Ops) (s : State) : Host.Outcome State Fault Refusal :=
  runM (vBinary allET pageOnly (fun _ a b => Nat.lor a b) o) s

/-- VXOR (R202). -/
def execVxor (o : Ops) (s : State) : Host.Outcome State Fault Refusal :=
  runM (vBinary allET pageOnly (fun _ a b => Nat.xor a b) o) s

/-- VSHL (R202). -/
def execVshl (o : Ops) (s : State) : Host.Outcome State Fault Refusal :=
  runM (vBinary intOrFp pageOnly (fun k a b => a * 2 ^ (b % k.w)) o) s

/-- VSHR (R202). -/
def execVshr (o : Ops) (s : State) : Host.Outcome State Fault Refusal :=
  runM (vBinary intOrFp pageOnly (fun k a b => a / 2 ^ (b % k.w)) o) s

/-- VSHA (R202). -/
def execVsha (o : Ops) (s : State) : Host.Outcome State Fault Refusal :=
  runM (vBinary intOrFp pageOnly (fun k a b => wrap k.w (sext k.w a / (2 : Int) ^ (b % k.w))) o) s

/-- VBCST (R202). -/
def execVbcst (o : Ops) (s : State) : Host.Outcome State Fault Refusal :=
  runM (do
    let k ← vcfg
    let x ← readOpd o.b 0
    putV k pageMask o.a.v (fun _ => x.toNat)
    return .seq) s

/-- VNEG (R202). -/
def execVneg (o : Ops) (s : State) : Host.Outcome State Fault Refusal :=
  runM (vUnary intOrFp pageOnly (fun k a => if isF k.et then (fmtOf k.et).flip a else 2 ^ k.w - a) o) s

/-- VABS (R202). -/
def execVabs (o : Ops) (s : State) : Host.Outcome State Fault Refusal :=
  runM (vUnary intOrFp pageOnly (fun k a => if isF k.et then (fmtOf k.et).abs a
    else if k.et < 4 ∧ sext k.w a < 0 then 2 ^ k.w - a else a) o) s

/-! Page 2 major 0 (R204 to R206). -/

/-- VDIV (R141, R204). -/
def execVdiv (o : Ops) (s : State) : Host.Outcome State Fault Refusal :=
  runM (vBinary intOrFp (qMask o.q) vDivE o) s

/-- VSQRT (R204). -/
def execVsqrt (o : Ops) (s : State) : Host.Outcome State Fault Refusal :=
  runM (vUnary isF (qMask o.q) (fun k a => (fmtOf k.et).sqrt k.rm a) o) s

/-- VMINU (R204). -/
def execVminu (o : Ops) (s : State) : Host.Outcome State Fault Refusal :=
  runM (vBinary isI (qMask o.q) (fun _ a b => min a b) o) s

/-- VMAXU (R204). -/
def execVmaxu (o : Ops) (s : State) : Host.Outcome State Fault Refusal :=
  runM (vBinary isI (qMask o.q) (fun _ a b => max a b) o) s

/-- VFMS (R204). -/
def execVfms (o : Ops) (s : State) : Host.Outcome State Fault Refusal :=
  runM (vTernary intOrFp (qMask o.q) (vFmaE false true) o) s

/-- VFNMA (R204). -/
def execVfnma (o : Ops) (s : State) : Host.Outcome State Fault Refusal :=
  runM (vTernary intOrFp (qMask o.q) (vFmaE true false) o) s

/-- VCVT (R205). -/
def execVcvt (o : Ops) (s : State) : Host.Outcome State Fault Refusal :=
  runM (do
    let k ← vcfg
    let m ← qMask o.q
    let src ← readV o.b.v
    let t := (← ctx).vtype
    vConvert k m (bits t 39 36) (bits t 35 33) src o.a.v
    return .seq) s

/-- VSEL (R206). -/
def execVsel (o : Ops) (s : State) : Host.Outcome State Fault Refusal :=
  runM (do
    let k ← vcfg
    let q ← qMask o.q
    let b ← readV o.b.v
    let c ← readV o.cv
    putV k ⟨BitVec.allOnes 128, q.zero⟩ o.a.v (fun i => elemOf k.w (if q.m.getLsbD i then c else b) i)
    return .seq) s

/-! Compares, reductions and scans (R207 to R209). -/

/-- VCMP (R207). -/
def execVcmp (fn : Fin 10) (o : Ops) (s : State) : Host.Outcome State Fault Refusal :=
  runM (do
    let k ← needClass (cmpClass fn.val)
    let m ← qMask o.q
    let b ← readV o.b.v
    let c ← readV o.cv
    putM k m o.a.m (fun i => cmpE k fn.val (elemOf k.w b i) (elemOf k.w c i))
    return .seq) s

/-- VRED (R117, R208). -/
def execVred (fn : Fin 10) (o : Ops) (s : State) : Host.Outcome State Fault Refusal :=
  runM (do
    let k ← needClass (if fn.val < 7 then isI else isF)
    let m ← qMask o.q
    let b ← readV o.b.v
    toX o.a.x (vReduce k m fn.val b)
    return .seq) s

/-- VSCAN (R117, R209). -/
def execVscan (fn : Fin 3) (o : Ops) (s : State) : Host.Outcome State Fault Refusal :=
  runM (do
    let k ← needClass (if fn.val < 2 then isI else isF)
    let m ← qMask o.q
    let b ← readV o.b.v
    let out := scanE k m fn.val b
    putV k m o.a.v (fun i => out.getD i 0)
    return .seq) s

/-! Permutes and single elements (R210). -/

/-- VPERM (R210). -/
def execVperm (o : Ops) (s : State) : Host.Outcome State Fault Refusal :=
  runM (do
    let k ← vcfg
    let m ← qMask o.q
    let b ← readV o.b.v
    let c ← readV o.cv
    putV k m o.a.v (fun i => let j := elemOf k.w c i; if j < k.n then elemOf k.w b j else 0)
    return .seq) s

/-- VSLUP (R210: active elements below the count keep their value). -/
def execVslup (o : Ops) (s : State) : Host.Outcome State Fault Refusal :=
  runM (do
    let k ← vcfg
    let m ← qMask o.q
    let b ← readV o.b.v
    let n := (← readX o.cx).toNat
    needDst (64 + o.a.v.val)
    if (List.range (min n k.n)).any (activeAt k.vl m.m) then needFull (64 + o.a.v.val)
    let old := (← ctx).getV o.a.v
    putV k m o.a.v (fun i => if n ≤ i then elemOf k.w b (i - n) else elemOf k.w old i)
    return .seq) s

/-- VSLDN (R210). -/
def execVsldn (o : Ops) (s : State) : Host.Outcome State Fault Refusal :=
  runM (do
    let k ← vcfg
    let m ← qMask o.q
    let b ← readV o.b.v
    let n := (← readX o.cx).toNat
    putV k m o.a.v (fun i => if i + n < k.n then elemOf k.w b (i + n) else 0)
    return .seq) s

/-- VCOMP (R210). -/
def execVcomp (o : Ops) (s : State) : Host.Outcome State Fault Refusal :=
  runM (do
    let k ← vcfg
    let m ← qMask o.q
    let b ← readV o.b.v
    let l := ((List.range k.n).filter (activeAt k.vl m.m)).map (elemOf k.w b)
    needDst (64 + o.a.v.val)
    if !m.zero && l.length != k.n then needFull (64 + o.a.v.val)
    modC (fun c => c.putV o.a.v (ofElems k.w ((List.range k.n).map (fun i =>
      if i < l.length then l.getD i 0 else if m.zero then 0 else elemOf k.w (c.getV o.a.v) i))))
    return .seq) s

/-- VIOTA (R210). -/
def execViota (o : Ops) (s : State) : Host.Outcome State Fault Refusal :=
  runM (do
    let k ← needClass isI
    let m ← qMask o.q
    putV k m o.a.v (fun i => ((List.range i).filter (activeAt k.vl m.m)).length)
    return .seq) s

/-- VGETL (R210). -/
def execVgetl (o : Ops) (s : State) : Host.Outcome State Fault Refusal :=
  runM (do
    let k ← vcfg
    let b ← readV o.b.v
    let j := (← readX o.cx).toNat
    let e := if j < k.n then elemOf k.w b j else 0
    toX o.a.x (if k.et < 4 then BitVec.ofInt 64 (sext k.w e) else wd e)
    return .seq) s

/-- VSETL (R210: the mask and VL play no part). -/
def execVsetl (o : Ops) (s : State) : Host.Outcome State Fault Refusal :=
  runM (do
    let k ← vcfg
    let x ← readOpd o.b 0
    let j := (← readX o.cx).toNat
    needDst (64 + o.a.v.val)
    if j < k.n then needFull (64 + o.a.v.val)
    modC (fun c => if j < k.n then c.putV o.a.v (ofElems k.w ((List.range k.n).map (fun i =>
      if i = j then x.toNat else elemOf k.w (c.getV o.a.v) i))) else c)
    return .seq) s

/-! Masks (R213). -/

/-- MAND (R213). -/
def execMand (o : Ops) (s : State) : Host.Outcome State Fault Refusal :=
  runM (maskOp (fun a b => a &&& b) o) s

/-- MOR (R213). -/
def execMor (o : Ops) (s : State) : Host.Outcome State Fault Refusal :=
  runM (maskOp (fun a b => a ||| b) o) s

/-- MXOR (R213). -/
def execMxor (o : Ops) (s : State) : Host.Outcome State Fault Refusal :=
  runM (maskOp (fun a b => a ^^^ b) o) s

/-- MNOT (R213). -/
def execMnot (o : Ops) (s : State) : Host.Outcome State Fault Refusal :=
  runM (do
    let b ← readM o.b.m
    toM o.a.m (~~~b)
    return .seq) s

/-- MPOP (R213). -/
def execMpop (o : Ops) (s : State) : Host.Outcome State Fault Refusal :=
  runM (do
    let k ← vcfg
    let b ← readM o.b.m
    toX o.a.x (wd ((List.range k.vl).filter (fun i => b.getLsbD i)).length)
    return .seq) s

/-- MFF (R213). -/
def execMff (o : Ops) (s : State) : Host.Outcome State Fault Refusal :=
  runM (do
    let k ← vcfg
    let b ← readM o.b.m
    toX o.a.x (wd (((List.range k.vl).find? (fun i => b.getLsbD i)).getD 128))
    return .seq) s

/-- MTOX (R213). -/
def execMtox (o : Ops) (s : State) : Host.Outcome State Fault Refusal :=
  runM (do
    let b ← readM o.b.m
    toX o.a.x (wd (if o.b.num / 8 % 2 = 1 then b.toNat / 2 ^ 64 else b.toNat))
    return .seq) s

/-- MFROMX (R213). -/
def execMfromx (o : Ops) (s : State) : Host.Outcome State Fault Refusal :=
  runM (do
    let x ← readOpd o.b 0
    let old ← readM o.a.m
    toM o.a.m (if o.a.num / 8 % 2 = 1 then setBits old 127 64 x.toNat else setBits old 63 0 x.toNat)
    return .seq) s

/-! The type (R201). -/

/-- VSETT (R201). -/
def execVsett (o : Ops) (s : State) : Host.Outcome State Fault Refusal :=
  runM (do
    let x ← readOpd o.b 0
    needVtype
    let d ← prepDst o.a
    let t := vtypePut (← ctx).vtype x
    modC (fun c => { c with vtype := t })
    writeDst d (wd (vtVL t))
    return .seq) s

/-! Special functions (R214). -/

/-- VEXP2 (R116, R214). -/
def execVexp2 (o : Ops) (s : State) : Host.Outcome State Fault Refusal :=
  runM (vUnary sfuClass (qMask o.q) (fun k a => sfuExp2 (fmtOf k.et) a) o) s

/-- VLOG2 (R116, R214). -/
def execVlog2 (o : Ops) (s : State) : Host.Outcome State Fault Refusal :=
  runM (vUnary sfuClass (qMask o.q) (fun k a => sfuLog2 (fmtOf k.et) a) o) s

/-- VRCP (R116, R214). -/
def execVrcp (o : Ops) (s : State) : Host.Outcome State Fault Refusal :=
  runM (vUnary sfuClass (qMask o.q) (fun k a => sfuRcp (fmtOf k.et) a) o) s

/-- VRSQ (R116, R214). -/
def execVrsq (o : Ops) (s : State) : Host.Outcome State Fault Refusal :=
  runM (vUnary sfuClass (qMask o.q) (fun k a => sfuRsq (fmtOf k.et) a) o) s

/-- VSIN (R116, R214). -/
def execVsin (o : Ops) (s : State) : Host.Outcome State Fault Refusal :=
  runM (vUnary sfuClass (qMask o.q) (fun k a => sfuSin (fmtOf k.et) a) o) s

/-- VCOS (R116, R214). -/
def execVcos (o : Ops) (s : State) : Host.Outcome State Fault Refusal :=
  runM (vUnary sfuClass (qMask o.q) (fun k a => sfuCos (fmtOf k.et) a) o) s

/-- VTANH (R116, R214). -/
def execVtanh (o : Ops) (s : State) : Host.Outcome State Fault Refusal :=
  runM (vUnary sfuClass (qMask o.q) (fun k a => sfuTanh (fmtOf k.et) a) o) s

end Sys2Proof.Machine
end

