-- ==== Sys2Proof/Machine/Gang.lean ====
section
/-! DEFINITION. Gangs (R29 to R31, R215, R216) and softmax pairs (R217, R218). -/

namespace Sys2Proof.Machine

/-! Gangs. -/

/-- The context of a follower (R29): copies of the leader's x, m and D registers, user RW CSRs and block state, and of
the loops by which the gang goes on (log 22); v zero and full. -/
def follower (c : Ctx) (cid size idx : Nat) : Ctx :=
  { Ctx.blank with
    cid, task := c.task, region := c.region, pc := c.pc, npc := c.npc
    x := c.x, xfe := c.xfe, m := c.m, mfe := c.mfe, d := c.d, loops := c.loops
    vtype := c.vtype, cb := c.cb, te := c.te, wlim := c.wlim
    gstat := wd ((bit c.gstat 16).toNat * 2 ^ 16 + idx * 16 + size * 4 + 1)
    rstat := rstatPut 0 c.rstat, plumb := c.plumb, blk := c.blk, level := c.level, seq := c.seq }

/-- GSIZE of a gang of n. -/
def sizeCode (n : Nat) : Nat := match n with
  | 2 => 1
  | 4 => 2
  | _ => 3

/-- GSTAT of the leader of a new gang: DISB, DCAUSE and DMEM stay. -/
def leadStat (g : Word) (size idx : Nat) : Word := setBits g 6 0 (idx * 16 + size * 4 + 3)

/-- Whether the followers' slots can be taken (R215). -/
def gangFree (s : State) (t n : Nat) : Bool :=
  let r := s.regionOf s.ctx
  decide (liveCount s r.id (nameDie t) + n - 1 ≤ r.mslot) &&
    (groupSlots t n).all (fun u => u == t || (slotFree s u && (s.slot u).owner.toNat == r.shq))

/-- The mark in `got` of a GANG that waits for its second clock. -/
def gangMark : Nat := 7

/-- GANG reads the registers that it copies: it parks while a result for one of them is pending (R25, log 31). A register
that FSTAT emptied is copied as it stands, since FSTAT is a user RW CSR (R29). -/
def needCopied : M Unit := do
  let c ← ctx
  match ((List.range 64).drop 1 ++ (List.range 88).drop 81).find? c.isPend with
  | some n => park .reg (wd n)
  | none => pure ()

/-- GANG (R29, R215): it is decided at the thread's next offered clock after the one in which it issues. -/
def execGang (o : Ops) (s : State) : Host.Outcome State Fault Refusal :=
  runM (do
    let n := o.imm.toNat
    let c ← ctx
    needDst o.a.x.val
    if c.inGang || c.inTrap then
      writeX o.a.x 0
      return .seq
    else match c.got.find? (·.1 == gangMark) with
      | none =>
        needCopied
        modify (fun s => s.mod (fun c => { c with got := c.got ++ [(gangMark, wd s.clock)] }))
        park .none 0
      | some _ =>
        let s ← get
        if !gangFree s s.cur n then
          writeX o.a.x 0
          return .seq
        else
          let t := s.cur
          let size := sizeCode n
          modC (fun c => { c.putX o.a.x (wd n) with gstat := leadStat c.gstat size (nameCore t % n) })
          let lead := (← ctx).complete .seq
          modify (fun s => (groupSlots t n).foldl (fun s u =>
            if u = t then s
            else
              let (id, s) := s.fresh
              let s := placeCtx s u (follower lead id size (nameCore u % n))
              { s with tasks := Tab.modify s.tasks lead.task (fun k => { k with members := k.members + 1 }) }) s)
          return .seq) s

/-- DISB (R31, R216). -/
def execDisb (_o : Ops) (s : State) : Host.Outcome State Fault Refusal :=
  runM (do
    modify (fun s => disband s s.cur 1)
    return .seq) s

/-- GID (R216): 0 in the leader. -/
def execGid (o : Ops) (s : State) : Host.Outcome State Fault Refusal :=
  runM (do
    let g := (← ctx).gstat
    toX o.a.x (if bit g 1 then 0 else wd (bits g 6 4))
    return .seq) s

/-! Softmax pairs. -/

/-- pmrg_pair (R217). -/
def pmrgPair (f : FloatFmt) (a b : Nat × Nat) : Nat × Nat :=
  let m1 := f.decode a.1
  let m2 := f.decode b.1
  if m1.isNan || m2.isNan then (f.nan, f.nan)
  else if m1 = .inf true then b
  else if m2 = .inf true then a
  else
    let m := f.pick true a.1 b.1
    let t (x : Nat) : Nat := if f.eq x m then f.round 0 false 1 0 else sfuExp2 f (f.sub 0 x m)
    (m, f.add 0 (f.mul 0 a.2 (t a.1)) (f.mul 0 b.2 (t b.1)))

/-- PMRG (R217). -/
def execPmrg (o : Ops) (s : State) : Host.Outcome State Fault Refusal :=
  runM (do
    let k ← needClass sfuClass
    let b ← readV o.b.v
    let (x, y) ← match o.c with
      | some _ => do
        let c ← readV o.cv
        pure (b, c)
      | none => do
        let a ← readV o.a.v
        pure (a, b)
    let e (v : VWord) (p : Nat) : Nat × Nat := (elemOf k.w v (2 * p), elemOf k.w v (2 * p + 1))
    putV { k with vl := k.vl / 2 * 2 } pageMask o.a.v (fun i =>
      let r := pmrgPair (fmtOf k.et) (e x (i / 2)) (e y (i / 2))
      if i % 2 = 0 then r.1 else r.2)
    return .seq) s

/-- The exchange entries of a slot for k = 0 and k = 1 (R218). -/
def Slot.getXchg (sl : Slot) (k : Nat) : Option (Nat × Fin 16 × VWord) := if k = 0 then sl.xchg0 else sl.xchg1

/-- A slot with the exchange entry for k set. -/
def Slot.putXchg (sl : Slot) (k : Nat) (e : Option (Nat × Fin 16 × VWord)) : Slot :=
  if k = 0 then { sl with xchg0 := e } else { sl with xchg1 := e }

/-- The slot with which PXCH exchanges. -/
def pxchPartner (t k : Nat) : Nat := t / 64 * 64 + Nat.xor (t / 16 % 4) (k + 1) * 16 + t % 16

/-- A context whose register a is matched in an exchange with k with a slot: its wait is over, the data is on its way. -/
def Ctx.pxchDone (c : Ctx) (k t : Nat) (a : Fin 16) : Ctx := { c with pxch := c.pxch.erase (k, t, a) }

/-- The context and register that wait for what a slot's context sends in an exchange with k: the partner slot's own context
first, then one that was saved since (R218). -/
def pxchWaiter (s : State) (t k : Nat) : Option (Nat × Fin 16) :=
  let want (c : Ctx) : Option (Nat × Fin 16) := (c.pxch.find? (fun e => e.1 == k && e.2.1 == t)).map (fun e => (c.cid, e.2.2))
  match (s.slot (pxchPartner t k)).ctx.bind want with
  | some w => some w
  | none => match s.slots.findSome? (fun e => e.2.ctx.bind want) with
    | some w => some w
    | none => s.saved.findSome? (fun v => want v.ctx)

/-- PXCH (R218): data that the partner has sent fills vA at once, else vA waits for the partner; vB fills the register that
waits for it, else it goes to the partner's entry. -/
def execPxch (o : Ops) (s : State) : Host.Outcome State Fault Refusal :=
  runM (do
    let k := o.cx.val
    let a := o.a.v
    let v ← readV o.b.v
    needDst (64 + a.val)
    let s ← get
    let t := s.cur
    let u := pxchPartner t k
    if !coreOk s (nameCore u) then trap 0x08 0
    else match (s.slot t).getXchg k with
      | some (cid, ra, w) =>
        set (((s.setSlot t ((s.slot t).putXchg k none)).modCtx cid (·.pxchDone k t ra)).due (.pxchDataArrival cid ra v))
        writeV a w
        return .seq
      | none =>
        match pxchWaiter s t k with
        | some (cid, ra) => set ((s.modCtx cid (·.pxchDone k t ra)).due (.pxchDataArrival cid ra v))
        | none =>
          if ((s.slot u).getXchg k).isSome then park .reg (wd (64 + a.val))
          else set (s.setSlot u ((s.slot u).putXchg k (some (s.ctx.cid, a, v))))
        modC (fun c => { c.awaitReg (64 + a.val) with pxch := (k, u, a) :: c.pxch })
        return .seq) s

/-- PXCH_DATA_ARRIVAL (R218, Table 2.9): the partner's data fills the register that waits for it. -/
def execPxchDataArrival (cid : Nat) (a : Fin 16) (data : VWord) (s : State) : Host.Outcome State Fault Refusal :=
  .next (s.modCtx cid (fun c => (c.putV a data).setPend (64 + a.val) false))

end Sys2Proof.Machine
end

