-- ==== Sys2Proof/Machine/Roller.lean ====
section
/-! DEFINITION. The Roller: its arithmetic (R109 to R115), MENQ, MQRY and MCAN (R225 to R227, R234), the matrix
schedulers (R228 to R232), and the completion of records (R81, R230, R231, R233, R235). -/

namespace Sys2Proof.Machine

/-! Arithmetic. -/

/-- The elements of a format in packed bytes (R101, R106, R110); `signed` is the signedness of an integer format. -/
def elements (f : Nat) (signed : Bool) (bs : List Byte) : List Fp :=
  let int (w v : Nat) : Fp := Fp.ofInt (if signed then sext w v else v)
  let rec wide (k : Nat) (dec : Nat → Fp) : Nat → List Byte → List Fp
    | 0, _ => []
    | _, [] => []
    | n + 1, l => dec (ofBytes (l.take k)) :: wide k dec n (l.drop k)
  match f with
  | 0 => bs.map (fun b => skimDecode b.toNat)
  | 1 => bs.map (fun b => int 8 b.toNat)
  | 2 => bs.flatMap (fun b => [int 4 (b.toNat % 16), int 4 (b.toNat / 16)])
  | 3 => wide 2 f16.decode bs.length bs
  | 4 => wide 2 bf16.decode bs.length bs
  | _ => wide 4 f32.decode bs.length bs

/-- A number times 2^k (R109). -/
def Fp.scale (k : Int) : Fp → Fp
  | .num s m e => .num s m (e + k)
  | v => v

/-- The part of a number between 0 and itself that is a multiple of 2^u. -/
def truncAt (u : Int) : Fp → Fp
  | .num s m e => .num s (roundAt 1 s m e u) u
  | v => v

/-- The exponent of the leading bit of a product; none of a zero or what is no number. -/
def leadExp : Fp → Option Int
  | .num _ m e => if m = 0 then none else some (e + Nat.log2 m)
  | _ => none

/-- segment_sum (R111). -/
def segmentSum (exact : Bool) (prods : List Fp) : Fp :=
  let sum (l : List Fp) : Fp := l.foldl (Fp.add 0) (.num false 0 0)
  match prods.find? (fun p => match p with
    | .num _ _ _ => false
    | _ => true) with
  | some _ => sum prods
  | none =>
    if exact then sum prods
    else match (prods.filterMap leadExp) with
      | [] => .num false 0 0
      | e :: l => sum (prods.map (truncAt (l.foldl max e - 40)))

/-- One step of an accumulator (R112). -/
def accumulate (acc : Nat) (seg : Fp) (k : Int) : Nat := f32.encode 0 ((f32.decode acc).add 0 (seg.scale k))

/-- stencil (R115). -/
def stencil (key row col : Nat) : Nat :=
  let h0 := (key + row * 0x9E37 + col * 0x79B9) % 65536
  let h1 := Nat.xor h0 (h0 / 32)
  let h2 := h1 * 0x2C1B % 65536
  Nat.xor h2 (h2 / 128)

/-- An output element (Table 6.6). -/
def outElem (f c : Nat) : Nat :=
  let v := f32.decode c
  match f with
  | 0 => skimEncode v
  | 1 => wrap 8 (v.toInt 0 (-128) 127)
  | 2 => wrap 4 (v.toInt 0 (-8) 7)
  | 3 => f16.encode 0 v
  | 4 => bf16.encode 0 v
  | _ => c

/-- drain_element (R114) for row i and column j, with the residual if there is one. -/
def MRec.drained (m : MRec) (i j c : Nat) (res : Option Fp) : Nat :=
  let c := match res with
    | some r => f32.add 0 c (f32.encode 0 r)
    | none => c
  if m.drp then
    if m.w 11 31 16 ≤ stencil (m.w 11 15 0) (m.w 11 63 32 + i) (m.w 12 63 32 + j) then f32.mul 0 c (m.w 12 31 0) else 0
  else c

/-- A row of output bytes. -/
def packRow (f : Nat) (l : List Nat) : List Byte :=
  toBytes (32 * elemBits f) (l.zipIdx.foldl (fun acc e => acc + outElem f e.1 * 2 ^ (elemBits f * e.2)) 0)

/-! Records by id (R227, R228). -/

/-- The latest record of a region with an id. -/
def recOf (s : State) (region id : Nat) : Option MRec :=
  s.records.reverse.find? (fun m => m.region == region && m.id == id)
def putRec (s : State) (m : MRec) : State :=
  { s with records := s.records.map (fun k => if k.order = m.order then m else k) }

/-- The id of a region's n-th record: 32 bits that count up from 1 and skip 0 on wrap (R227). -/
def recId (n : Nat) : Nat := (n - 1) % (2 ^ 32 - 1) + 1

/-- The latest record id of a region; 0 where it has none. -/
def Region.lastRec (r : Region) : Nat := if r.nextRec = 1 then 0 else recId (r.nextRec - 1)

/-- How many ids a region has given since one. -/
def Region.recAge (r : Region) (id : Nat) : Nat := (r.lastRec + (2 ^ 32 - 1) - id) % (2 ^ 32 - 1)

/-- Whether an id is one of the latest 4,096 that a region has given, whose outcomes are kept (R228). -/
def Region.keeps (r : Region) (id : Nat) : Bool :=
  decide (0 < id) && decide (id < 2 ^ 32) && decide (r.recAge id < 4096) && decide (r.recAge id + 1 < r.nextRec)

/-- The record of an id that a record names as its predecessor; none of an older id, which counts as DONE (R228). -/
def predOf (s : State) (region id : Nat) : Option MRec :=
  if ((s.region? region).getD Region.blank).keeps id then recOf s region id else none

/-- The ids of the predecessors that a record names; PRED1 of a partner is a match and no dependence (R231). -/
def MRec.preds (m : MRec) : List Nat := (if m.isPartner then [m.pred0] else [m.pred0, m.pred1]).take m.npred

/-- Whether a record's predecessors have all completed, and whether all with DONE; an id that is no longer kept counts
as DONE. -/
def recReady (s : State) (m : MRec) : Bool :=
  m.preds.all (fun p => match predOf s m.region p with
    | some q => q.state == .complete
    | none => true)
def predsDone (s : State) (m : MRec) : Bool :=
  m.preds.all (fun p => match predOf s m.region p with
    | some q => q.code == 1
    | none => true)

/-- The record whose drain a continuation takes up (R230). -/
def chainOf (s : State) (m : MRec) : Option MRec :=
  if m.npred = 0 then none else (predOf s m.region m.pred0).filter (·.chn)

/-! MENQ, MQRY, MCAN. -/

/-- The Roller of a record: the one it has, or for a record of a pair the one that the other names (R231). -/
def rollerOf (s : State) (m : MRec) : Option Nat :=
  match m.roller with
  | some cl => some cl
  | none =>
    let other := if m.isPartner then recOf s m.region m.pred1
      else if m.isLead then s.records.find? (fun p => p.region == m.region && p.isPartner && p.pred1 == m.id)
      else none
    other.map (fun q => clusOfIndex (q.partner % 64))

/-- The scheduler's die of a new record (R228). -/
def schedDie (s : State) (m : MRec) : Nat :=
  if m.npred = 0 ∨ m.isLead ∨ m.isPartner then m.die
  else match predOf s m.region m.pred0 with
    | none => m.die
    | some p => if !m.wld || p.chn then ((rollerOf s p).map (· / 16)).getD p.die else m.die

/-- MENQ (R227). -/
def execMenq (o : Ops) (s : State) : Host.Outcome State Fault Refusal :=
  runM (do
    let va ← readOpd o.b 0
    let d ← prepDst o.a
    release .none 0 2
    if va.toNat % 128 ≠ 0 then trap 0x05 va
    else
      let l ← ownWords va 16
      let s ← get
      let c := s.ctx
      let r := s.regionOf c
      let m : MRec := {
        region := r.id, id := recId r.nextRec, words := Vector.ofFn (fun i : Fin 16 => l.getD i.val 0), va
        cid := c.cid, name := s.cur, inc := c.inc, core := s.myCore, clus := s.myClus, die := s.myDie, order := s.ids
        issued := none
        state := .waiting, code := 0, pcode := 0, roller := none, bank := none, acc := [], lines := []
        sums := none, drain := false }
      if r.mrecs = 0 then trap 0x08 va
      else if m.npred = 3 ∨ m.preds.any (fun p => decide (r.lastRec < p)) then
        writeDst d (wd (2 ^ 63 + 0x0F))
        return .seq
      else if (m.tagv && bit c.tags m.tag) ||
          decide (r.mrecs ≤ (s.records.filter (fun k => k.region == r.id && k.state != .complete)).length) then park .none 0
      else
        modify (fun s =>
          let s := if m.tagv then s.takeTag m.tag else s
          let s := s.modRegion r.id (fun r => { r with nextRec := r.nextRec + 1 })
          let keep := s.records.filter (fun k => k.region != r.id || k.state != .complete || decide (r.recAge k.id < 4095))
          dueRecords { s with ids := s.ids + 1, records := keep ++ [{ m with die := schedDie s m }] })
        writeDst d (wd m.id)
        return .seq) s

/-- What MQRY reports (Table 11.8). -/
def recReport (s : State) (r : Region) (id : Nat) : Nat :=
  match (if r.keeps id then recOf s r.id id else none) with
  | none => 0
  | some m =>
    let clus := ((m.roller.map clusIndex).getD 0xFF) * 2 ^ 40
    match m.state with
    | .waiting => clus + (if recReady s m then 2 else 1)
    | .running => clus + 3
    | .complete => m.pcode * 2 ^ 56 + m.code * 2 ^ 48 + clus + 4

/-- MQRY (R234). R88 names a returned register among what shows a record's completion: a result with STATE 4 is not taken for
one, as R95 lists no such event (DESIGN CHOICE, log 110). -/
def execMqry (o : Ops) (s : State) : Host.Outcome State Fault Refusal :=
  runM (do
    let id ← readOpd o.b 0
    let d ← prepDst o.a
    let s ← get
    writeDst d (wd (recReport s (s.regionOf s.ctx) id.toNat))
    return .seq) s

/-! Completion of a record (R233). -/

/-- CODE and PCODE written to the record in memory, as one write of two bytes. R233 does not say what happens where that write
fails: it is left out, and the record completes (DESIGN CHOICE, log 109). -/
def writeCode (s : State) (m : MRec) (code pcode : Nat) : State :=
  let r := (s.region? m.region).getD Region.blank
  let s := touchOwn s r m.core (m.va + 0x78)
  match ownKey s r m.core (m.va + 0x78) with
  | none => s
  | some k => match badStore s (k + 6) 2 with
    | some g => noteBad s g
    | none => s.store (k + 6) [BitVec.ofNat 8 code, BitVec.ofNat 8 pcode] (.engine m.order) 0 none

/-- Whether the context that enqueued a record still has that identity, in its slot or in its image. -/
def sameIdentity (s : State) (m : MRec) : Bool :=
  match s.slotOf m.cid with
  | some t => t == m.name && (s.slot t).inc == m.inc
  | none => s.saved.any (fun v => v.ctx.cid == m.cid && v.name == m.name && v.ctx.inc == m.inc)

/-- Where a record stands in the instances of R83: at the Roller that ran it, else in its own cluster. -/
def MRec.seat (m : MRec) : Option Nat := Sys2Proof.Machine.seat (m.roller.getD m.clus)

/-- Whether the writes that end a record wait for a line that an engine owns or a fetch unit pins (R79, R81). -/
def endWaits (s : State) (m : MRec) (code : Nat) : Bool :=
  let asid := ((s.region? m.region).map (·.asid)).getD 0
  let stamp := m.issued.getD s.ids
  heldUp s stamp asid (m.va + 0x78) 8 || (code == 1 && m.cntv && heldUp s stamp asid (m.words.getD 13 0) 8)

/-- A record ends: its code, its counter, its tag, and the event of an error. -/
def endNow (s : State) (m : MRec) (code pcode : Nat) : State :=
  let s := writeCode s m code pcode
  let asid := ((s.region? m.region).map (·.asid)).getD 0
  let (code, s) :=
    if code = 1 ∧ m.cntv then
      let s := touchCounter s asid (m.words.getD 13 0)
      match onCounter s asid (.engine m.order) m.seat (m.words.getD 13 0) with
      | none => (7, writeCode s m 7 pcode)
      | some (under, s) =>
        (1, if under then engineRecord s m.region m.cid 11 (wd (m.id * 2 ^ 32)) (m.words.getD 13 0) else s)
    else (code, s)
  let s := if code = 1 ∧ m.cntv then s else loosen s m.region [.engine m.order]
  let s := if m.tagv && sameIdentity s m then completeTag s m.cid m.tag m.order (code != 1) else s
  let s := if code = 1 then s else engineRecord s m.region m.cid 9 (wd (m.id + code * 2 ^ 32)) 0
  let s := putRec s { m with state := .complete, code, pcode, acc := [], sums := none, lines := [] }
  let s := match m.roller with
    | some cl => if (s.roller cl).busy = some m.order then s.setRoller cl { s.roller cl with busy := none } else s
    | none => s
  checkDone (dueRecords s) m.region

/-- The end of a record: at once, or kept with its codes until its writes can be made. -/
def endRecord (s : State) (m : MRec) (code pcode : Nat) : State :=
  if endWaits s m code then (putRec s { m with code, pcode }).due (.matrixRecordComplete m.region m.id)
  else endNow s m code pcode

/-- A record ends before it issues, and takes the lead of its pair with it (R231). -/
def dropRecord (s : State) (m : MRec) (code : Nat) : State :=
  let s := endRecord s m code 0
  match (if m.isPartner then recOf s m.region m.pred1 else none) with
  | some l => if l.isLead && l.state == .waiting && l.code == 0 then endRecord s l 8 code else s
  | none => s

/-- A record cancelled: its completion is a step of the device, behind the turns of the clock, so that it is not lost to a
write of CB or TE there (R78). The lead of a pair goes with its partner. -/
def cancel (s : State) (m : MRec) : State :=
  let mark (s : State) (m : MRec) (code pcode : Nat) : State :=
    (putRec s { m with code, pcode }).dueBy s.clock (.matrixRecordComplete m.region m.id)
  let s := mark s m 0x0D 0
  match (if m.isPartner then recOf s m.region m.pred1 else none) with
  | some l => if l.isLead && l.state == .waiting && l.code == 0 then mark s l 8 0x0D else s
  | none => s

/-- MCAN (R234). -/
def execMcan (o : Ops) (s : State) : Host.Outcome State Fault Refusal :=
  runM (do
    let id ← readOpd o.b 0
    let d ← prepDst o.a
    let s ← get
    let r := s.regionOf s.ctx
    match (if r.keeps id.toNat then recOf s r.id id.toNat else none) with
    | none => writeDst d 2
    | some m =>
      if m.state != .waiting || m.code != 0 then writeDst d 1
      else
        set (cancel s m)
        writeDst d 0
    return .seq) s

/-! The checks at issue (R232). -/

/-- The bank that a record without weights of its own uses: the Roller, the bank's number and the bank (R229). -/
def usedBank (s : State) (m : MRec) : Option (Nat × Nat × Bank) :=
  match (if m.npred = 0 then none else predOf s m.region m.pred0) with
  | none => none
  | some p => match p.roller, p.bank with
    | some cl, some (b, loader) =>
      (if b = 0 then (s.roller cl).bank0 else (s.roller cl).bank1).bind (fun k =>
        if k.loader = loader then some (cl, b, k) else none)
    | _, _ => none

/-- The weight format of a record. -/
def wfOf (s : State) (m : MRec) : Option Nat := if m.wld then some m.wf else (usedBank s m).map (·.2.2.wf)

/-- The pairs of Table 6.5. -/
def okPair (af wf : Nat) : Bool :=
  (af ≤ 1 && wf ≤ 1) || (af == 2 && wf == 2) || ((af == 3 || af == 4) && (wf == 3 || wf == 4))

/-- BAD_FORMAT. -/
def badFormat (s : State) (m : MRec) : Bool :=
  (match wfOf s m with
    | some wf => !okPair m.af wf
    | none => decide (4 < m.af)) ||
  (!m.isPartner && (decide (6 ≤ m.of) || (m.res && (m.rf == 2 || decide (6 ≤ m.rf)))))

/-- BAD_SHAPE of a record by itself. -/
def badShape (s : State) (m : MRec) : Bool :=
  decide (512 < m.rows) ||
  ([1, 2, 4, 5, 9, 10] ++ (if m.isPartner then [] else [7, 8])).any (fun k => (m.words.getD k 0).toNat % 128 != 0) ||
  (!m.wld && m.npred == 0) || (m.chn && (m.res || m.drp)) || (m.isPartner && m.npred == 2) ||
  (match chainOf s m with
    | some p => p.rows != m.rows
    | none => false)

/-- The code of a record's own checks; 0 where they pass. -/
def recCheck (s : State) (m : MRec) : Nat := if badFormat s m then 2 else if badShape s m then 3 else 0

/-! Running a record. -/

/-- Ordinary memory alone (R226, R232). -/
def ordPlace (va : Word) (n : Nat) : Option Place :=
  if isOrd va && decide (va.toNat + n ≤ 0x00F0000000000000) then some (.ord (homeDie va)) else none

/-- The code of a failed access of a record. -/
def Miss.code : Miss → Nat
  | .place => 5
  | .xu => 5
  | .home .prot => 5
  | .home (.poison _) => 6
  | .home _ => 4

def recMover (s : State) (m : MRec) : Mover :=
  { agent := .engine m.order, own := none, asid := ((s.region? m.region).map (·.asid)).getD 0, place := ordPlace }

/-- Rows of bytes read for a record, or the code of the first failure. -/
def readRows (v : Mover) (n : Nat) : List Word → State → Except Nat (List (List Byte)) × State
  | [], s => (.ok [], s)
  | va :: l, s => match readBurst v (n + 1) va n [] s with
    | (_, some b, s) => (.error b.1.code, s)
    | (bs, none, s) => match readRows v n l s with
      | (.error c, s) => (.error c, s)
      | (.ok r, s) => (.ok (bs :: r), s)

/-- INT8 scales from a base; 0 for a base of 0 (R109). -/
def readScales (v : Mover) (base : Word) (n : Nat) (s : State) : Except Nat (List Int) × State :=
  if base = 0 then (.ok (List.replicate n 0), s)
  else match readRows v n [base] s with
    | (.error c, s) => (.error c, s)
    | (.ok l, s) => (.ok ((l.headD []).map (fun b => sext 8 b.toNat)), s)

/-- The weights of a record that loads them (R229). -/
def readBank (v : Mover) (m : MRec) (s : State) : Except Nat Bank × State :=
  let k := match m.af with | 0 => 128 | 1 => 128 | 2 => 256 | _ => 64
  match readRows v (32 * elemBits m.wf) ((List.range k).map (m.row 4)) s with
  | (.error c, s) => (.error c, s)
  | (.ok rows, s) => match readScales v (m.words.getD 6 0) 256 s with
    | (.error c, s) => (.error c, s)
    | (.ok scales, s) => (.ok ⟨m.order, m.wf, rows, scales⟩, s)

/-- The columns of rows. -/
def columns (rows : List (List Fp)) : List (List Fp) :=
  (List.range 256).map (fun j => rows.map (fun r => r.getD j .nan))

/-- The accumulators of a record (R112), from those given. -/
def sumsOf (m : MRec) (bank : Bank) (a : List (List Byte)) (ka : List Int) (start : List (List Nat)) : List (List Nat) :=
  let cols := columns (bank.rows.map (elements bank.wf m.wsg))
  (a.zip ka).zipIdx.map (fun (r : (List Byte × Int) × Nat) =>
    let x := elements m.af m.asg r.1.1
    cols.zipIdx.map (fun (c : List Fp × Nat) =>
      accumulate (((start[r.2]?).bind (·[c.2]?)).getD 0)
        (segmentSum (decide (m.af < 3)) (List.zipWith Fp.mul x c.1)) (r.1.2 + bank.scales.getD c.2 0)))

/-- The keys of the lines of A and W that a record reads (R81). -/
def inputLines (s : State) (m : MRec) : List Nat :=
  let asid := (recMover s m).asid
  let lines (va : Word) (n : Nat) : List Nat := (List.range (n / 128)).filterMap (fun i =>
    match walk s (homeDie (va + wd (128 * i))) asid (va + wd (128 * i)) with
    | .ok pa _ _ => some (ordKey (homeDie (va + wd (128 * i))) pa)
    | _ => none)
  let k := match m.af with | 0 => 128 | 1 => 128 | 2 => 256 | _ => 64
  (if m.wld then (List.range k).flatMap (fun i => lines (m.row 4 i) (32 * elemBits m.wf)) else []) ++
    (List.range m.rows).flatMap (fun i => lines (m.row 1 i) 128)

/-- Whether an input of a record waits, as it issues, for an engine that owns its line (R79). -/
def inputsRecalled (s : State) (m : MRec) : Bool :=
  let asid := (recMover s m).asid
  let k := match m.af with | 0 => 128 | 1 => 128 | 2 => 256 | _ => 64
  let scales (i n : Nat) : Bool := m.words.getD i 0 != 0 && engineRecalled s s.ids asid (m.words.getD i 0) n
  (m.wld && (List.range k).any (fun i => engineRecalled s s.ids asid (m.row 4 i) (32 * elemBits m.wf))) ||
    (List.range m.rows).any (fun i => engineRecalled s s.ids asid (m.row 1 i) 128) ||
    scales 3 m.rows || (m.wld && scales 6 256) ||
    (m.res && (List.range m.rows).any (fun i => engineRecalled s s.ids asid (m.row 9 i) (32 * elemBits m.rf)))

/-- The bank of a Roller set. -/
def Roller.putBank (r : Roller) (b : Nat) (k : Option Bank) : Roller :=
  if b = 0 then { r with bank0 := k } else { r with bank1 := k }

/-- A record that has read its inputs: its lines are pinned, or it goes to its end (R81). -/
def goOn (s : State) (m : MRec) : State :=
  let s := putRec s { m with lines := m.lines.drop 512 }
  let s := { s with pins := s.pins ++ (m.lines.take 512).map (fun k => (m.region, m.id, k)) }
  s.due (if m.lines.isEmpty then .matrixRecordComplete m.region m.id else .pinnedLineUnpin m.region m.id)

/-- A record starts with every write of its predecessors performed at package scope (R228). -/
def seePreds (s : State) (m : MRec) : State :=
  let l := (m.preds.filterMap (predOf s m.region)).map (fun p => Agent.engine p.order)
  { s with hist := s.hist.map (fun r =>
      if l.any r.auth.contains && !r.seen.contains (.engine m.order) then { r with seen := .engine m.order :: r.seen } else r) }

/-- A record issued to a Roller (R96, R226, R229, R230): it takes the acquire of Table 5.4, loads or finds its bank,
reads its rows and forms its accumulators. -/
def startRecord (s : State) (m : MRec) (cl : Nat) : State :=
  let ro := s.roller cl
  let held := match chainOf s m, ro.drain with
    | some p, some (o, acc) => if p.order = o then acc else []
    | _, _ => []
  let s := s.setRoller cl { ro with busy := some m.order, drain := if held.isEmpty then ro.drain else none }
  let s := seePreds (acquireMark s (.engine m.order) 2 (seat cl)) m
  let v := recMover s m
  let (n, s) := s.fresh
  let m := { m with state := .running, roller := some cl, issued := some n }
  let s := putRec s m
  let b := if m.wld then 1 - ro.last else ((usedBank s m).map (·.2.1)).getD 0
  let (bank, s) := if m.wld then
      let (r, s) := readBank v m s
      (r, s.setRoller cl { ((s.roller cl).putBank b (match r with
        | .ok k => some k
        | .error _ => none)) with last := b })
    else ((match usedBank s m with
      | some k => .ok k.2.2
      | none => .error 0x0B), s)
  match bank with
  | .error c => goOn s { m with code := c, bank := none }
  | .ok k =>
    let m := { m with bank := some (b, k.loader) }
    match readRows v 128 ((List.range m.rows).map (m.row 1)) s with
    | (.error c, s) => goOn s { m with code := c }
    | (.ok a, s) => match readScales v (m.words.getD 3 0) m.rows s with
      | (.error c, s) => goOn s { m with code := c }
      | (.ok ka, s) => goOn s { m with acc := sumsOf m k a ka held, lines := inputLines s m }

/-- Whether a Roller is free, and not held for a continuation (R230). -/
def rollerFree (s : State) (cl : Nat) : Bool := (s.roller cl).busy.isNone && (s.roller cl).drain.isNone

/-- The Roller that a record takes on a die (R228). -/
def pickRoller (s : State) (die clus : Nat) : Option Nat :=
  if rollerFree s clus && clus / 16 == die then some clus
  else ((List.range 64).map clusOfIndex).find? (fun cl => cl / 16 == die && rollerFree s cl)

/-- A single record tried: what becomes of it, if it can go on. -/
def tryOne (s : State) (m : MRec) : Option State :=
  let code := recCheck s m
  if code ≠ 0 then some (endRecord s m code 0)
  else if m.rows = 0 then some (endRecord s m 1 0)
  else
    let bank := usedBank s m
    if !m.wld && bank.isNone then some (endRecord s m 0x0B 0)
    else
      let start (cl : Nat) : Option State := if inputsRecalled s m then none else some (startRecord s m cl)
      match chainOf s m with
      | some p => match p.roller with
        | none => some (endRecord s m 0x0C 0)
        | some cl =>
          let ro := s.roller cl
          if ro.drain.map (·.1) ≠ some p.order then some (endRecord s m 0x0C 0)
          else if !m.wld && bank.map (·.1) != some cl then some (endRecord s m 0x0B 0)
          else if ro.busy.isSome then none else start cl
      | none =>
        if m.wld then (pickRoller s m.die m.clus).bind start
        else bank.bind (fun k => if rollerFree s k.1 then start k.1 else none)

/-- Whether two package indexes are adjacent (R231). -/
def adjacent (a b : Nat) : Bool :=
  decide (a < 64) && decide (b < 64) &&
    ((a % 8 : Int) - b % 8).natAbs + ((a / 8 : Int) - (b / 8 : Int)).natAbs == 1

/-- A pair tried from its partner's side (R231). A partner whose lead has ended before the pair could issue has no matching lead
any more, and ends with BAD_SHAPE (DESIGN CHOICE, log 108). -/
def tryPair (s : State) (p : MRec) : Option State :=
  let cp := recCheck s p
  match (recOf s p.region p.pred1).filter (fun l => l.isLead && l.state == .waiting && l.code == 0) with
  | none => some (endRecord s p (if cp = 0 then 3 else cp) 0)
  | some l =>
    if !recReady s l then none
    else if !predsDone s l then some (endRecord s l 0x0A 0)
    else
      let cl := recCheck s l
      let ra := clusOfIndex p.partner
      let rb := clusOfIndex l.partner
      let bad := l.chn || (chainOf s l).isSome || !adjacent p.partner l.partner || l.rows != p.rows || l.af != p.af ||
        (match wfOf s l, wfOf s p with
          | some a, some b => a != b
          | _, _ => false)
      let both (s : State) (a b : Nat) : State := endRecord (endRecord s p a 0) l b 0
      let lost (m : MRec) (r : Nat) : Bool := !m.wld && (usedBank s m).map (·.1) != some r
      if cp ≠ 0 ∧ cl = 0 ∧ !bad then some (dropRecord s p cp)
      else if cp ≠ 0 ∨ cl ≠ 0 ∨ bad then some (both s (if cp = 0 then 3 else cp) (if cl = 0 then 3 else cl))
      else if p.rows = 0 then some (both s 1 1)
      else if lost p rb then some (dropRecord s p 0x0B)
      else if lost l ra then some (both s 3 0x0B)
      else
        let free (m : MRec) (r : Nat) : Bool := match chainOf s m with
          | some q => (s.roller r).busy.isNone && (s.roller r).drain.map (·.1) == some q.order
          | none => rollerFree s r
        match chainOf s p with
        | some q => if (s.roller rb).drain.map (·.1) ≠ some q.order then some (dropRecord s p 0x0C)
          else if free p rb && free l ra && !inputsRecalled s p && !inputsRecalled s l then
            some (startRecord (startRecord s p rb) l ra) else none
        | none => if free p rb && free l ra && !inputsRecalled s p && !inputsRecalled s l then
            some (startRecord (startRecord s p rb) l ra) else none

/-- A record tried at its scheduler. -/
def tryIssue (s : State) (m : MRec) : Option State :=
  if m.code ≠ 0 ∨ !recReady s m then none
  else if !predsDone s m then some (dropRecord s m 0x0A)
  else if m.isLead then none
  else if m.isPartner then tryPair s m
  else tryOne s m

/-- MATRIX_RECORD_ISSUE (R228 to R232): the first record of a die's scheduler, by priority and then by age, that can go
on. -/
def execMatrixRecordIssue (die : Nat) (s : State) : Host.Outcome State Fault Refusal :=
  let prio (m : MRec) : Nat := ((s.region? m.region).map (·.prio)).getD 0
  let q := sortBy (fun a b => decide (prio b < prio a) || (prio a == prio b && decide (a.order ≤ b.order)))
    (s.records.filter (fun m => m.die == die && m.state == .waiting))
  .next (if s.halted die then s.due (.matrixRecordIssue die)
    else match q.findSome? (tryIssue s) with
    | some s => dueRecords s
    | none => s)

/-- PINNED_LINE_UNPIN (R81): a Roller consumes the line that it pinned first, and its fetch unit pins the next. -/
def execPinnedLineUnpin (region id : Nat) (s : State) : Host.Outcome State Fault Refusal :=
  .next (let s := consumePin s region id
    s.due (if s.pins.any (fun p => p.1 == region && p.2.1 == id) then .pinnedLineUnpin region id
      else .matrixRecordComplete region id))

/-! The drain. -/

/-- Rows written in order: none where a pinned line holds one up, else the number of the row that fails and why. -/
def writeRows (v : Mover) : List (Word × List Byte) → Nat → State → Option (Option (Nat × Miss) × State)
  | [], _, s => some (none, s)
  | (va, bs) :: l, i, s => match writeBurst v 0 (bs.length + 1) va bs 0 s with
    | none => none
    | some (_, some b, s) => some (some (i, b.1), s)
    | some (_, none, s) => writeRows v l (i + 1) s

/-- The rows of a record drained to memory: the code, or none where the drain waits. Where an output fails, each row before
it has been written or not as a free value says (log 23). -/
def drainOut (s : State) (m : MRec) (acc : List (List Nat)) : Option (Nat × State) :=
  let v := recMover s m
  let (res, s) := if m.res then readRows v (32 * elemBits m.rf) ((List.range m.rows).map (m.row 9)) s else (.ok [], s)
  match res with
  | .error c => some (c, s)
  | .ok rs =>
    let rows := acc.zipIdx.map (fun (r : List Nat × Nat) =>
      let rf := (rs[r.2]?).map (elements m.rf true)
      (m.row 7 r.2, packRow m.of (r.1.zipIdx.map (fun e => m.drained r.2 e.2 e.1 (rf.bind (·[e.2]?))))))
    if rows.any (fun r => engineRecalled s (m.issued.getD s.ids) v.asid r.1 r.2.length) then none
    else match writeRows v rows 0 s with
      | none => none
      | some (none, s) => some (1, s)
      | some (some (i, b), _) =>
        let kept := (rows.take i).zipIdx.filter (fun r => Config.rowKept (s.tick + r.2))
        let s := { s with tick := s.tick + i }
        match writeRows v (kept.map (·.1)) 0 s with
        | some (_, s) => some (b.code, s)
        | none => some (b.code, s)

/-- The lead of a partner, while it runs or waits. -/
def leadOf (s : State) (m : MRec) : Option MRec :=
  (recOf s m.region m.pred1).filter (fun l => l.isLead && l.state != .complete)

/-- A millisecond in clocks of 2.5 GHz (R13). -/
def milli : Nat := 2500000

/-- MATRIX_RECORD_COMPLETE (R114, R230, R231, R233, R235): a record that has consumed its inputs reaches its drain. -/
def execMatrixRecordComplete (region id : Nat) (s : State) : Host.Outcome State Fault Refusal :=
  .next (match recOf s region id with
    | none => s
    | some m =>
      if m.state == .complete || s.pins.any (fun p => p.1 == region && p.2.1 == id) then s
      else if m.code ≠ 0 then
        if endWaits s m m.code then s.due (.matrixRecordComplete region id)
        else
        let s := endNow s m m.code m.pcode
        match (if m.isPartner && m.code != 1 then leadOf s m else none) with
        | some l => if l.state == .running then
            (putRec s { l with code := 8, pcode := m.code }).due (.matrixRecordComplete region l.id) else s
        | none => s
      else if m.state == .waiting then s
      else if m.isPartner then
        if m.drain then s else (putRec s { m with drain := true }).due (.partnerSumsArrival region id)
      else if m.isLead && m.sums.isNone then
        if m.drain then s else (putRec s { m with drain := true }).timeout milli (.pairTimeout region id)
      else
        let acc := match m.sums with
          | some q => List.zipWith (List.zipWith (f32.add 0)) m.acc q
          | none => m.acc
        if m.chn then
          let cl := m.roller.getD 0
          let s := s.setRoller cl { s.roller cl with drain := some (m.order, acc) }
          (endRecord s m 1 0).timeout milli (.chainHoldTimeout cl m.order)
        else match drainOut s m acc with
          | none => s.due (.matrixRecordComplete region id)
          | some (code, s) => endRecord s m code 0)

/-- PARTNER_SUMS_ARRIVAL (R113, R231): the sums of a partner reach its lead, and the partner completes. -/
def execPartnerSumsArrival (region id : Nat) (s : State) : Host.Outcome State Fault Refusal :=
  .next (match recOf s region id with
    | none => s
    | some m =>
      if m.state != .running || !m.drain then s
      else
        let s := endRecord s m 1 0
        match leadOf s m with
        | none => s
        | some l =>
          let s := putRec s { l with sums := some m.acc }
          if l.drain then s.due (.matrixRecordComplete region l.id) else s)

/-- PAIR_TIMEOUT (R231): `id` names the lead. -/
def execPairTimeout (region id : Nat) (s : State) : Host.Outcome State Fault Refusal :=
  .next (match recOf s region id with
    | none => s
    | some l =>
      if l.state != .running || !l.drain || l.sums.isSome || l.code != 0 then s
      else
        let s := endRecord s l 9 0
        match s.records.find? (fun p => p.region == region && p.isPartner && p.pred1 == id && p.state == .running) with
        | none => s
        | some p => endRecord { s with pins := s.pins.filter (fun k => !(k.1 == region && k.2.1 == p.id)) } p 9 0)

/-- CHAIN_HOLD_TIMEOUT (R230): `hold` is the order of the record whose drain is held. -/
def execChainHoldTimeout (clus hold : Nat) (s : State) : Host.Outcome State Fault Refusal :=
  .next (let r := s.roller clus
    if r.drain.map (·.1) = some hold then dueRecords (s.setRoller clus { r with drain := none }) else s)

end Sys2Proof.Machine
end

