-- ==== Sys2Proof/Machine/Halt.lean ====
section
/-! DEFINITION. Debug halts of dies (R383). -/

namespace Sys2Proof.Machine

/-- The die whose own agents keep a timeout, where one does: contexts and Rollers. -/
def timerDie (s : State) (e : Ev) : Option Nat :=
  match e with
  | .wfeTimeout cid => (s.slotOf cid).map nameDie
  | .chainHoldTimeout clus _ => some (clus / 16)
  | .pairTimeout region id => (recOf s region id).map (·.die)
  | _ => none

/-- The clock from which a timeout of a die that ends at `c` counts, at the latest of its start and the halt. -/
def countFrom (haltAt c : Nat) (e : Ev) : Nat :=
  match e with
  | .chainHoldTimeout _ _ => max haltAt (c - milli)
  | .pairTimeout _ _ => max haltAt (c - milli)
  | _ => haltAt

/-- A context of a die whose halt ends after `n` clocks: its YIELD and WFE go on where they stood. -/
def Ctx.resumeAfter (c : Ctx) (n : Nat) : Ctx :=
  { c with yieldTo := c.yieldTo.map (· + n / 16 * 16), wfeStart := c.wfeStart.map (· + n) }

/-- A die goes under debug halt. -/
def startHalt (s : State) (die : Nat) : State := s.modDie die (fun d => { d with haltAt := s.clock })

/-- A debug halt of a die ends. -/
def endHalt (s : State) (die : Nat) : State :=
  let at' := (s.die die).haltAt
  let mine (e : Nat × Ev) : Bool := timerDie s e.2 == some die
  let l := s.timers.filter mine ++ (s.die die).stopped
  let s : State := { s with timers := s.timers.filter (fun e => !mine e) }
  let s := s.modDie die (fun d => { d with stopped := [] })
  let s := l.foldl (fun s e => s.timer (e.1 + (s.clock - countFrom at' e.1 e.2)) e.2) s
  { s with slots := s.slots.map (fun (e : Nat × Slot) =>
      if nameDie e.1 = die then (e.1, { e.2 with ctx := e.2.ctx.map (fun c => c.resumeAfter (s.clock - at')) }) else e) }

/-- The wait counts of the package go on when its last halt ends (R27). -/
def resumeWaits (s : State) : State :=
  let shift (w : Wait) : Wait := { w with start := w.start + (s.clock - max w.start s.host.haltAt) }
  { s with slots := s.slots.map (fun (e : Nat × Slot) =>
      (e.1, { e.2 with ctx := e.2.ctx.map (fun (c : Ctx) => { c with wait := c.wait.map shift }) })) }

/-- The halts of the dies set to those given; kills that waited for a halt are taken when it ends (R300). -/
def setHalts (s : State) (h : BitVec 4) : State :=
  let old := s.host.dhalt
  let s := (List.range 4).foldl (fun s d =>
    if bit h d && !bit old d then startHalt s d else if bit old d && !bit h d then endHalt s d else s) s
  let s := if old ≠ 0 ∧ h = 0 then resumeWaits s else s
  let s : State := { s with host := { s.host with dhalt := h, haltAt := if old = 0 then s.clock else s.host.haltAt } }
  (List.range 4).foldl (fun s d => if bit old d && !bit h d then releaseDoomed s d else s) s

end Sys2Proof.Machine
end

