-- ==== Sys2Proof/Machine/HostLink.lean ====
section
/-! DEFINITION. The host register block (R378, R379, R385), the launch queue (R319), the mailbox (R370, R378), accesses by
the host (R378) and events held for the event queue (R365). -/

namespace Sys2Proof.Machine

/-- The code of a master (Table 25.1). -/
def masterCode (m : Master) : BitVec 2 :=
  match m with
  | .host => 1
  | .bmc => 2

def HostRegs.setViol (h : HostRegs) : HostRegs := { h with viol := true }

/-- A write by the owner; a non-owner's is ignored and sets VIOL (R378). -/
def owned (m : Master) (s : State) (f : State → State) : State :=
  if s.host.own = masterCode m then f s else { s with host := s.host.setViol }

/-! Ownership. -/

/-- Whether the four dies have reported ready (R380). -/
def bootDone (s : State) : Bool := s.host.bootst.toList.all (· == 1)

/-- A change of OWN: DBGEN clears, which ends every debug halt (R379, R383). -/
def changeOwner (s : State) (o : BitVec 2) : State :=
  let s := setHalts s 0
  { s with host := { s.host with own := o, dbgen := false } }

/-- OWN written (R379). -/
def writeOwn (s : State) (m : Master) (w : Word) : State :=
  let v := BitVec.ofNat 2 (bits w 1 0)
  let h := s.host
  if h.own = masterCode m then (if v = 0 then changeOwner s 0 else s)
  else if v ≠ masterCode m then s
  else if h.next = masterCode m then
    let s := changeOwner s v
    { s with host := { s.host with next := 0 } }
  else if h.own = 0 ∧ bootDone s then changeOwner s v
  else s

/-- A write that reaches the register OWNER: of those of both masters in one clock the host's is taken (R379), which comes
first; the BMC's is not. -/
def atOwner (s : State) (m : Master) (f : State → State) : State :=
  match m with
  | .host => f { s with host := { s.host with hostAt := s.clock + 1 } }
  | .bmc => if s.host.hostAt = s.clock + 1 then s else f s

/-- OWNER_WRITE (R379). -/
def execOwnerWrite (m : Master) (w : Word) (s : State) : Host.Outcome State Fault Refusal :=
  .next (atOwner s m (fun s => writeOwn s m w))

/-- NEXT written by the owner; the code 3 is reserved (R6). -/
def writeNext (s : State) (m : Master) (w : Word) : State :=
  if s.host.own = masterCode m ∧ bits w 9 8 ≠ 3 then
    { s with host := { s.host with next := BitVec.ofNat 2 (bits w 9 8) } }
  else s

/-- NEXT_WRITE (R379). -/
def execNextWrite (m : Master) (w : Word) (s : State) : Host.Outcome State Fault Refusal :=
  .next (atOwner s m (fun s => writeNext s m w))

/-- DBGEN and VIOL written by the owner. -/
def writeDbgen (s : State) (m : Master) (w : Word) : State :=
  if s.host.own = masterCode m then
    { s with host := { s.host with dbgen := bit w 6, viol := s.host.viol && !bit w 7 } }
  else s

/-! The mailbox. -/

/-- The word of a seal engine command at a byte offset. -/
def cmdWord (s : State) (at' : Word) (off : Nat) : Word := wd (Mem.num s.hostMem (at'.toNat + off) 8)

/-- The step of an operation code (Table 24.2). -/
def cmdStep (op : Nat) : Option Ev :=
  match op with
  | 1 => some .measure
  | 2 => some .openLineage
  | 3 => some .sealAndContinue
  | 4 => some .sealAndStop
  | 5 => some .restore
  | 6 => some .closeLineage
  | 7 => some .ident
  | _ => none

/-- A command ended (R370): RESULT and DONE written in host memory, with a release at system scope. -/
def endCommand (s : State) (at' : Word) (result : Nat) : State :=
  let s := releaseMark s .device ⟨3, none⟩
  let w := setBits (setBits (cmdWord s at' 0) 47 40 result) 63 63 1
  { s with hostMem := Mem.writeN s.hostMem at'.toNat (toBytes 8 w.toNat) }

/-- The command at the head of the mailbox becomes due; one whose operation or alignment is wrong ends as malformed, and
the next is looked at. -/
def nextCommand (s : State) : List Word → State
  | [] => { s with host := { s.host with mbox := [] } }
  | a :: l =>
    match (if a.toNat % 64 ≠ 0 then none else cmdStep (bits (cmdWord s a 0) 7 0)) with
    | some e => State.due { s with host := { s.host with mbox := a :: l } } e
    | none => nextCommand (endCommand s a 1) l

/-- MBOX written: a 17th command is ignored and sets VIOL. -/
def writeMbox (s : State) (w : Word) : State :=
  let h := s.host
  if 16 ≤ h.mbox.length then { s with host := h.setViol }
  else if h.mbox.isEmpty then nextCommand s [w]
  else { s with host := { h with mbox := h.mbox ++ [w] } }

/-- MBOX_WRITE (R370, R378). -/
def execMboxWrite (m : Master) (w : Word) (s : State) : Host.Outcome State Fault Refusal :=
  .next (owned m s (fun s => writeMbox s w))

/-! The launch queue. -/

/-- LQTAIL written: the host's release, and new entries (R319, Table 5.4). -/
def writeTail (s : State) (tail : BitVec 32) : State :=
  let s := releaseMark s .host ⟨3, none⟩
  let s : State := { s with host := { s.host with lqtail := tail } }
  if s.host.lqhead = tail ∨ s.agenda.contains .launchQueueEntry ∨ s.launches.any (fun l => l.2.entry.isSome) then s
  else s.due .launchQueueEntry

/-- LAUNCH_DOORBELL (R319): a store of the host. -/
def execLaunchDoorbell (tail : BitVec 32) (s : State) : Host.Outcome State Fault Refusal :=
  .next (owned .host s (fun s => writeTail s tail))

/-- Whether an ASID has a translation table on some die. -/
def hasTables (s : State) (asid : BitVec 16) : Bool := (List.range 4).any (fun d => (asidRoot s d asid).isSome)

/-- LAUNCH_QUEUE_ENTRY (R319, R320): the device takes the next entry; code 10 is its own check, the rest is that of
admission. -/
def execLaunchQueueEntry (s : State) : Host.Outcome State Fault Refusal :=
  let h := s.host
  let i := h.lqhead.toNat
  .next (if h.lqhead = h.lqtail ∨ h.lqsize = 0 ∨ !bootDone s ∨ s.launches.any (fun l => l.2.entry.isSome) then s
    else
      let s := acquireMark s .device 3 none
      let at' := h.lqbase.toNat + 32 * (i % h.lqsize)
      let w (k : Nat) : Word := wd (Mem.num s.hostMem (at' + 8 * k) 8)
      let asid := BitVec.ofNat 16 (w 1).toNat
      if (w 0).toNat % 256 ≠ 0 ∨ bits (w 1) 31 16 ≠ 0 ∨ w 3 ≠ 0 ∨ !hasTables s asid then queueOutcome s i 10
      else
        let (id, s) := s.fresh
        let l : Launch := { id, asid, rcbva := w 0, rcb := none, parent := none, user := false
                            cookie := BitVec.ofNat 32 (bits (w 1) 63 32), cid := none, reg := 0, entry := some i, bad := false }
        State.due { s with launches := Tab.set s.launches id l } (.regionAdmission id))

/-! The register block. -/

/-- DHALT written: ignored unless DBGEN is 1 (R383). -/
def writeDhalt (s : State) (w : Word) : State := if s.host.dbgen then setHalts s (BitVec.ofNat 4 (bits w 3 0)) else s

/-- DHALT_WRITE (R383). -/
def execDhaltWrite (m : Master) (w : Word) (s : State) : Host.Outcome State Fault Refusal :=
  .next (owned m s (fun s => writeDhalt s w))

/-- A ring size, or none where it is not a power of two from 16 to 65,536. -/
def ringSize (w : Word) : Option Nat :=
  ((List.range 13).map (fun i => 2 ^ (i + 4))).find? (fun n => n == bits w 31 0)

/-- Whether an offset names a register of Table 25.1. -/
def hostReg (off : Nat) : Bool := decide (off % 8 = 0 ∧ off ≤ 0x068)

/-- A register but OWNER written by the owner; RO registers and other offsets keep still. Of a base that is not 4 KiB
aligned the low 12 bits are dropped, which the spec leaves open (DESIGN CHOICE, log 53). -/
def writeReg (s : State) (off : Nat) (w : Word) : State :=
  let h := s.host
  match off with
  | 0x008 => { s with host := { h with lqbase := wd (w.toNat / 4096 * 4096) } }
  | 0x028 => { s with host := { h with eqbase := wd (w.toNat / 4096 * 4096) } }
  | 0x010 => { s with host := { h with lqsize := (ringSize w).getD h.lqsize } }
  | 0x030 => { s with host := { h with eqsize := (ringSize w).getD h.eqsize } }
  | 0x020 => writeTail s (BitVec.ofNat 32 w.toNat)
  | 0x038 =>
    let s : State := { s with host := { h with eqhead := BitVec.ofNat 32 w.toNat } }
    if (List.range 4).any (fun d => !(s.die d).held.isEmpty) && !s.agenda.contains .eventQueueDrain then
      s.due .eventQueueDrain else s
  | 0x048 => writeMbox s w
  | 0x060 => { s with host := { h with irqv := w } }
  | 0x068 => writeDhalt s w
  | _ => s

/-- A write by a master to an offset of the block (R378). -/
def masterWrite (s : State) (m : Master) (off : Nat) (w : Word) : State :=
  if off = 0 then atOwner s m (fun s => writeOwn (writeNext (writeDbgen s m w) m w) m w) else owned m s (fun s => writeReg s off w)

/-- HOST_REGISTER_WRITE (R378). -/
def execHostRegisterWrite (m : Master) (off : Nat) (w : Word) (s : State) : Host.Outcome State Fault Refusal :=
  .next (masterWrite s m off w)

/-- The value of a register of Table 25.1; every master reads every register. -/
def readReg (s : State) (off : Nat) : Word :=
  let h := s.host
  match off with
  | 0x000 => wd (h.next.toNat * 2 ^ 8 + h.viol.toNat * 2 ^ 7 + h.dbgen.toNat * 2 ^ 6 + h.own.toNat)
  | 0x008 => h.lqbase
  | 0x010 => wd h.lqsize
  | 0x018 => wd h.lqhead.toNat
  | 0x020 => wd h.lqtail.toNat
  | 0x028 => h.eqbase
  | 0x030 => wd h.eqsize
  | 0x038 => wd h.eqhead.toNat
  | 0x040 => wd h.eqtail.toNat
  | 0x050 => wd h.mbox.length
  | 0x058 => wd ((h.bootst.toList.zipIdx.map (fun e => e.1.toNat * 2 ^ (8 * e.2))).sum)
  | 0x060 => h.irqv
  | 0x068 => wd h.dhalt.toNat
  | _ => 0

/-! SMBus. -/

/-- The packet error code of SMBus: the CRC of 8 bits with the polynomial x^8 + x^2 + x + 1 (PRESUMED: SMBus 3.1, log 111). -/
def smbusPec (l : List Byte) : Byte :=
  l.foldl (fun c b => (List.range 8).foldl (fun (c : Byte) _ => if c.getLsbD 7 then (c <<< 1) ^^^ 0x07 else c <<< 1) (c ^^^ b)) 0

/-- The address byte of a transaction, with its R/W bit. -/
def addrByte (a : BitVec 7) (read : Bool) : Byte := BitVec.ofNat 8 (2 * a.toNat + read.toNat)

/-- The address at which the package answers (R385). -/
def smbusAddr : BitVec 7 := 0x58 + Config.addrStrap.zeroExtend 7

/-- The bytes of a transaction up to its PEC or its second start, each of which the PEC covers. -/
def smbusSent (b : SmbusBytes) : List Byte := addrByte b.addr false :: b.cmd :: BitVec.ofNat 8 b.bytes.length :: b.bytes

/-- SMBUS_REGISTER_WRITE (R385): a Block Write; with a wrong PEC its last byte is not acknowledged. -/
def execSmbusRegisterWrite (b : SmbusBytes) (s : State) : Host.Outcome State Fault Refusal :=
  let off := ofBytes (b.bytes.take 2)
  let ok := b.addr == smbusAddr && b.pec == smbusPec (smbusSent b)
  let s := { s with smbusAck := ok }
  .next (if ok ∧ b.cmd = 0x40 ∧ b.bytes.length = 10 ∧ hostReg off then
    masterWrite s .bmc off (wd (ofBytes (b.bytes.drop 2))) else s)

/-- SMBUS_REGISTER_READ (R385): a Process Call, in which the package sends the register's bytes and then the PEC of the whole
(log 111). -/
def execSmbusRegisterRead (b : SmbusBytes) (s : State) : Host.Outcome State Fault Refusal :=
  let off := ofBytes b.bytes
  let ok := b.addr == smbusAddr
  let s := { s with smbusAck := ok }
  let l := toBytes 8 (if hostReg off then (readReg s off).toNat else 0)
  .next (if ok ∧ b.cmd = 0x41 ∧ b.bytes.length = 2 then
    { s with hostReply := some (l ++ [smbusPec (smbusSent b ++ addrByte b.addr true :: 8 :: l)]) } else s)

/-! Accesses by the host. -/

/-- The key of `n` bytes of an access by the host, or why it fails, which the host is told (R378). -/
def hostKey (s : State) (asid : BitVec 16) (va : Word) (n : Nat) (need : Need) : Except Bad Nat × State :=
  match remotePlace va n with
  | none => (.error .prot, s)
  | some p => resolve s asid p va n need

/-- The pieces of a transfer of `n` bytes: up to 8 bytes each, within aligned words, in ascending order. -/
def hostPieces : Nat → Word → Nat → List (Word × Nat)
  | 0, _, _ => []
  | fuel + 1, va, n =>
    if n = 0 then []
    else
      let g := min n (8 - va.toNat % 8)
      (va, g) :: hostPieces fuel (va + wd g) (n - g)

/-- The keys of all pieces of a request, or why the first that fails does. -/
def hostKeys (asid : BitVec 16) (need : Need) : List (Word × Nat) → State → Except Bad (List (Word × Nat × Nat)) × State
  | [], s => (.ok [], s)
  | p :: l, s => match hostKey s asid p.1 p.2 need with
    | (.error b, s) => (.error b, s)
    | (.ok k, s) => match hostKeys asid need l s with
      | (.error b, s) => (.error b, s)
      | (.ok ks, s) => (.ok ((p.1, k, p.2) :: ks), s)

/-- An access by the host that has failed: it is told, and uncorrectable data is reported (R359). -/
def hostFail (s : State) (b : Bad) : State := { b.note s with hostReply := none }

/-- The next piece of a load by the host as a strong access, and then the rest. -/
def hostGet (s : State) (asid : BitVec 16) (l : List (Word × Nat × Nat)) (got : List Byte) : State :=
  match l with
  | [] => { s with hostReply := some got }
  | (va, k, n) :: rest =>
    if anyOwns s asid va n then s.due (.hostAccess (.get asid l got))
    else match badGran s k n with
    | some g => hostFail s (.poison g)
    | none =>
      let (v, s) := strongRead s .host k n (viaOf s asid va)
      let got := got ++ toBytes n v
      if rest.isEmpty then { s with hostReply := some got } else s.due (.hostAccess (.get asid rest got))

/-- The next piece of a store by the host as a strong access, and then the rest. -/
def hostPut (s : State) (asid : BitVec 16) (l : List (Word × Nat × List Byte)) : State :=
  match l with
  | [] => { s with hostReply := some [] }
  | (va, k, bs) :: rest =>
    if anyOwns s asid va bs.length || pinned s k bs.length then s.due (.hostAccess (.put asid l))
    else match badStore s k bs.length with
    | some g => hostFail s (.poison g)
    | none =>
      let s := s.store k bs .host 0 (some ⟨3, none⟩) (viaOf s asid va)
      if rest.isEmpty then { s with hostReply := some [] } else s.due (.hostAccess (.put asid rest))

/-- HOST_ACCESS (R378): the checks of the whole request, which changes nothing where one fails, and then its pieces, each a strong
access of at most 8 bytes; or the value of a register, which every master may read. -/
def execHostAccess (a : HostAcc) (s : State) : Host.Outcome State Fault Refusal :=
  .next (match a with
    | .reg off => { s with hostReply := some (toBytes 8 (if hostReg off then (readReg s off).toNat else 0)) }
    | .load asid va n => match hostKeys asid .r (hostPieces (n + 1) va n) s with
      | (.error b, _) => hostFail s b
      | (.ok l, s) => hostGet s asid l []
    | .store asid va bs => match hostKeys asid .w (hostPieces (bs.length + 1) va bs.length) s with
      | (.error b, _) => hostFail s b
      | (.ok l, s) => hostPut s asid (l.map (fun e => (e.1, e.2.1, (bs.drop (e.1 - va).toNat).take e.2.2)))
    | .get asid l got => hostGet s asid l got
    | .put asid l => hostPut s asid l)

/-! Held events. -/

/-- The oldest of the held events, with the die that holds it. -/
def oldestHeld (s : State) : Option (Nat × Event) :=
  (List.range 4).foldl (fun best d => match (s.die d).held, best with
    | [], _ => best
    | e :: _, some (k, b) => if e.seq < b.seq then some (d, e) else some (k, b)
    | e :: _, none => some (d, e)) none

/-- Held entries put into the event ring while it has room, oldest first (R365), so many at most. -/
def drainHeld : Nat → State → State
  | 0, s => s
  | n + 1, s => match oldestHeld s with
    | none => s
    | some (d, e) => if eqFull s.host then s
      else drainHeld n (eqPut (s.modDie d (fun x => { x with held := x.held.drop 1 })) e)

/-- EVENT_QUEUE_DRAIN (R365). -/
def execEventQueueDrain (s : State) : Host.Outcome State Fault Refusal :=
  .next (drainHeld (((List.range 4).map (fun d => (s.die d).held.length)).sum) s)

end Sys2Proof.Machine
end

