-- ==== Sys2Proof/Machine/Migrate.lean ====
section
/-! DEFINITION. Migration (R34, R35, R341, R342). -/

namespace Sys2Proof.Machine

/-- The access of a migrating context goes remote: MWIN is 256, and the instruction issues again where it stands
(Table 21.8 step 3). -/
def Ctx.stayHere (c : Ctx) : Ctx :=
  { c with gstat := setBits c.gstat 40 32 256, mig := none, stage := 0, run := .running, wait := none }

/-- The free slot of lowest thread name on a die that may take a context of a region (R341). -/
def migSlot (s : State) (r : Region) (die : Nat) : Option Nat :=
  if r.mslot ≤ liveCount s r.id die then none
  else ((List.range 4096).map (fun i => die * 4096 + i)).find? (fun t =>
    slotFree s t && (s.slot t).owner.toNat == r.shq)

/-- Whether every access that a context has made is performed (R35 step 2). -/
def Ctx.settled (c : Ctx) : Bool := c.loads.isEmpty && c.stores.isEmpty && c.strong.isNone && c.outer.isEmpty

/-- The clock by which a migration is to be over: 2,000 clocks after the park (R35), or the next clock where it has been held
up. -/
def migBy (s : State) (c : Ctx) : Nat := max ((c.wait.map (·.start)).getD s.clock + 2000) (s.clock + 1)

/-- A context that a migration leaves at a boundary, in the new slot or refused: a save asked for meanwhile is taken there
(R342). -/
def saveLanded (s : State) (cid : Nat) : State :=
  match (s.findCtx cid).bind (·.save) with
  | none => s
  | some q => (s.modCtx cid (fun c => { c with save := some { q with written := true } })).dueBy
      (max (q.asked + 5000) (s.clock + 1)) (.imageSaveDone cid)

/-- MIGRATION_SLOT_REQUEST (R34, R341, R342): the home die chooses and reserves a slot, or refuses. -/
def execMigrationSlotRequest (cid : Nat) (s : State) : Host.Outcome State Fault Refusal :=
  .next (match s.slotOf cid with
    | none => s
    | some t => match (s.slot t).ctx with
      | none => s
      | some c => match c.mig with
        | none => s
        | some m =>
          let die := m - 16384
          if m < 16384 then s
          else if !c.settled || s.halted (nameDie t) || s.halted die then s.dueBy (migBy s c) (.migrationSlotRequest cid)
          else match migSlot s (s.regionOf c) die with
            | none => saveLanded (s.modCtx cid (·.stayHere)) cid
            | some t' =>
              let s := s.setSlot t' { s.slot t' with reserved := some c.region }
              (s.modCtx cid (fun c => { c with mig := some t' })).dueBy (migBy s c) (.migrationArrival cid t'))

/-- Whether the slot that a migration reserved can still take its context: its core is in the map (R368), and the region,
the reservation apart, is below MSLOT (R325). -/
def landingOk (s : State) (r : Region) (slot : Nat) : Bool :=
  coreOk s (nameCore slot) && decide (liveCount s r.id (nameDie slot) - 1 < r.mslot)

/-- MIGRATION_ARRIVAL (R35, R325, R341, R342): the old slot is free, and the context stands in the reserved one with a
fresh incarnation; one that the slot cannot take stays and goes remote. -/
def execMigrationArrival (cid slot : Nat) (s : State) : Host.Outcome State Fault Refusal :=
  .next (match s.slotOf cid with
    | none => s
    | some t => match (s.slot t).ctx with
      | none => s
      | some c =>
        if c.mig ≠ some slot then s
        else if s.halted (nameDie t) || s.halted (nameDie slot) then s.dueBy (migBy s c) (.migrationArrival cid slot)
        else if landingOk s (s.regionOf c) slot then
          let s := s.setSlot t { s.slot t with ctx := none, freed := s.clock + 1 }
          saveLanded (placeCtx s slot { c.stayHere with landed := true }) cid
        else saveLanded ((s.setSlot slot { s.slot slot with reserved := none }).modCtx cid (·.stayHere)) cid)

end Sys2Proof.Machine
end

