-- ==== Sys2Proof/Machine/Priv.lean ====
section
/-! DEFINITION. Page 63 (R290, R291, R299, R307 to R315) and the steps that end its parks. -/

namespace Sys2Proof.Machine

/-- A page 63 instruction at user level, or of a gang member (R290, R291). -/
def privileged : M Unit := do
  let c ← ctx
  if c.level = .user then trap 0x0C c.pc
  else if c.inGang then trap 0x08 0
  else pure ()

/-- ERET (R299). -/
def execEret (_o : Ops) (s : State) : Host.Outcome State Fault Refusal :=
  runM (do
    privileged
    eretM false) s

/-- ERET.R (R297, R299). -/
def execEretR (_o : Ops) (s : State) : Host.Outcome State Fault Refusal :=
  runM (do
    privileged
    eretM true) s

/-! KILL and PARK. -/

/-- The slot that an identity descriptor names (Table 9.12 with REGN 0); none where no slot holds the identity, as where a
kill of it has been taken and waits for a debug halt (R315). -/
def identSlot (s : State) (desc : Word) : Option Nat :=
  let t := bits desc 29 16
  let sl := s.slot t
  if sl.inc.toNat != bits desc 47 32 then none
  else match sl.ctx with
    | some c => if c.doom.isSome then none else some t
    | none => none

/-- The rules that an identity descriptor keeps: reserved fields, REGN, the issuer's own package, and the ASID of the
target's region. -/
def checkIdent (desc : Word) : M Unit := do
  let s ← get
  let other : Bool := match (identSlot s desc).bind (fun t => (s.slot t).ctx) with
    | some c => (s.regionOf c).asid != (s.regionOf s.ctx).asid
    | none => false
  if bits desc 63 48 ≠ s.node.toNat ∨ bits desc 31 30 ≠ 0 ∨ bits desc 15 0 ≠ 0 ∨ other then trap 0x08 desc
  else pure ()

/-- The identity word of the issuing thread. -/
def myIdent (s : State) : Word := identWord s s.cur s.ctx.inc

/-- A context killed by the issuing thread with reason 3; the issuer completes with 0 where the kill, or the fault
policy it invoked, has not ended it too. -/
def killBy (cid : Nat) (a : Fin 64) : M Ctl := do
  let s ← get
  let me := s.ctx.cid
  set (kill s cid { reason := 3, aux := myIdent s })
  match ((← get).slot s.cur).ctx with
  | some c =>
    if c.cid = me then do
      writeX a 0
      return .seq
    else return .gone
  | none => return .gone

/-- Whether the save of a context has begun: what acts on the context then waits for what the save leaves (R315). -/
def Ctx.saving (c : Ctx) : Bool := match c.save with
  | some q => q.written
  | none => false

/-- KILL (R308, R315). -/
def execKill (o : Ops) (s : State) : Host.Outcome State Fault Refusal :=
  runM (do
    privileged
    let desc ← readX o.b.x
    needDst o.a.x.val
    checkIdent desc
    let s ← get
    match (identSlot s desc).bind (fun t => (s.slot t).ctx) with
    | none =>
      writeX o.a.x 1
      return .seq
    | some c => if c.saving then park .none 0 else killBy c.cid o.a.x) s

/-- The code of a PARK that saves nothing, or the slot and context that it stops (R309). -/
def parkTarget (s : State) (desc img : Word) : Nat ⊕ (Nat × Ctx) :=
  match identSlot s desc with
  | none => .inl 1
  | some t => match (s.slot t).ctx with
    | none => .inl 1
    | some c =>
      let asid := (s.regionOf s.ctx).asid
      if t = s.cur then .inl 2
      else if (devKey s asid img true).isNone || (devKey s asid img false).isNone then .inl 5
      else if (imgFree s asid img).isNone then .inl 4
      else .inr (t, c)

/-- What reading and writing the header of an image slot does beside (R337, R359). -/
def touchHead (s : State) (asid : BitVec 16) (img : Word) : State := touch (touch s asid img true) asid img false

/-- Whether another agent has asked for a save of the context that an identity names: PARK then waits for what that save
leaves, no such identity once it has been taken (R315). -/
def savedByOther (s : State) (desc : Word) : Bool :=
  match (identSlot s desc).bind (fun t => (s.slot t).ctx) with
  | some c => c.cid != s.ctx.cid && c.save.isSome
  | none => false

/-- PARK (R309): the issuer parks until the image has been performed. -/
def execPark (o : Ops) (s : State) : Host.Outcome State Fault Refusal :=
  runM (do
    privileged
    match (← ctx).answer with
    | some w =>
      toX o.a.x w
      return .seq
    | none =>
      let desc ← readX o.b.x
      let img ← readX o.cx
      needDst o.a.x.val
      if img.toNat % 4096 ≠ 0 then trap 0x05 img
      else
        checkIdent desc
        let s ← get
        if savedByOther s desc then park .none 0
        modify (fun s => match identSlot s desc with
          | some t => if t = s.cur then s else touchHead s (s.regionOf s.ctx).asid img
          | none => s)
        let s ← get
        match parkTarget s desc img with
        | .inl code =>
          writeX o.a.x (wd code)
          return .seq
        | .inr (t, c) =>
          set ((askSave s t c ⟨img, 2, some s.ctx.cid, none, false, s.clock⟩).mod (fun c => { c with stage := 1 }))
          park .none 0) s

/-! SCRUB. -/

/-- The words of the lane slices of a core. -/
def laneKeys (core : Nat) : List Nat :=
  (List.range 16).flatMap (fun l => (List.range 512).map (fun i => laneKey core l (8 * i)))

/-- Words set to 0 and empty by strong stores at package scope, and uncorrectable data cleared (R311, R360). An operation
that waits on such a word goes on waiting. -/
def scrubKeys (s : State) (keys : List Nat) : State :=
  let c := s.ctx
  keys.foldl (fun s k =>
    let s := s.store k (toBytes 8 0) (.thread c.cid) c.seq (some ⟨2, some s.myCore⟩)
    if tagged k then setFull s k false else s) s

/-- The first address of a SCRUB's range that does not lie in the level of its base, or the words of the range. -/
def scrubRange (core : Nat) (va : Word) (len : Nat) : Word ⊕ List Nat :=
  let size := match bits va 55 48 with
    | 0xFD => 2 ^ 26
    | 0xFE => 2 ^ 22
    | _ => 2 ^ 18
  let off := va.toNat % size
  match placeWith (fun _ _ => true) core va 1 with
  | some (.arr k) =>
    if size < off + len then .inl (va + wd (size - off)) else .inr ((List.range (len / 8)).map (fun i => k + 8 * i))
  | _ => .inl va

/-- SCRUB (R311), after the issuer's strong operation on its way and its accesses to the words (R87, R92). Bit 63 of xC
changes the range only: the rules of len hold with it too (DEDUCED, log 47). -/
def execScrub (o : Ops) (s : State) : Host.Outcome State Fault Refusal :=
  runM (do
    privileged
    let va ← readX o.b.x
    let w ← readX o.cx
    let s ← get
    let lanes := bit w 63
    let len := bits w 39 0
    if !lanes && decide (va.toNat % 8 ≠ 0) then trap 0x05 va
    else if len % 8 ≠ 0 then trap 0x05 w
    else if bits w 62 40 ≠ 0 then trap 0x08 w
    else if len = 0 then return .seq
    else match (if lanes then .inr (laneKeys s.myCore) else scrubRange s.myCore va len) with
      | .inl bad => trap 0x08 bad
      | .inr keys =>
        needStrong
        let c := s.ctx
        if keys.any (fun k => pinned s k 8 || c.storesBefore (c.seq + 1) k 8 || c.loadsBefore (c.seq + 1) k 8) then
          park .none 0
        else
          set ((scrubKeys s keys).mod (fun c => { c with stage := 1 }))
          modify (fun s => s.dueBy (s.clock + 4096 + keys.length / 8) (.scrubComplete s.ctx.cid))
          park .none 0) s

/-- SCRUB_COMPLETE (R311): the parked issuer completes. -/
def execScrubComplete (cid : Nat) (s : State) : Host.Outcome State Fault Refusal :=
  .next (finishCtx s cid (fun c => c))

/-! INVVA and INVASID. -/

/-- Where a parked INVVA keeps its VA, and INVVA and INVASID their ASID. -/
def invVaPos : Nat := 11
def invAsidPos : Nat := 12

/-- The size of the page that holds a VA, in bits: the largest that a cached leaf of it or the tables give. -/
def pageSize (s : State) (asid : BitVec 16) (va : Word) : Nat :=
  let w := match walk s (homeDie va) asid va with
    | .ok _ _ level => pageBits level
    | _ => 16
  ((tlbFind s (homeDie va) asid va).map (·.1)).foldl max w

/-- The mapping of a record as the tables now give it, none where it does not stand any more (R336). -/
def standing (s : State) (r : Record) (v : Via) : Option Via :=
  match walk s (homeDie v.va) v.asid v.va with
  | .ok pa _ _ => if ordKey (homeDie v.va) pa = r.key then viaOf s v.asid v.va else none
  | _ => none

/-- What an invalidation of the page of 2^size bytes that holds a VA of an ASID ends in the order of stores: what the tables
held before their latest changes is met no more (R334), and of the mappings through which stores were made only those stand
that the tables now give (R336). -/
def forget (s : State) (asid : BitVec 16) (va : Word) (size : Nat) : State :=
  let hit (a : BitVec 16) (v : Word) : Bool := a == asid && v.toNat / 2 ^ size == va.toNat / 2 ^ size
  { s with hist := s.hist.map (fun r => { r with
      seen := .walks asid va size :: r.seen
      via := match r.via with
        | some v => if hit v.asid v.va then standing s r v else some v
        | none => none }) }

/-- The effect of an INVVA of the page that holds a VA, or of an INVASID (R313): the cached translations go. -/
def invalidate (s : State) (va : Option Word) (asid : BitVec 16) : State :=
  match va with
  | some v =>
    let size := pageSize s asid v
    forget (s.modDie (homeDie v) (fun d => { d with tlb := d.tlb.filter (fun e =>
      !(e.1 == asid && v.toNat / 2 ^ e.2.2.1 == e.2.1.toNat / 2 ^ e.2.2.1)) })) asid v size
  | none => forget ((List.range 4).foldl (fun s d => s.modDie d (fun e => { e with
      tlb := e.tlb.filter (·.1 != asid) })) s) asid 0 64

/-- An INVVA or INVASID on its way. -/
def startInv (va : Option Word) (asid : BitVec 16) : M Ctl := do
  modC (fun c => { c with
    stage := 1
    got := (invAsidPos, wd asid.toNat) :: (match va with
      | some v => [(invVaPos, v)]
      | none => []) })
  modify (fun s => s.dueBy (s.clock + (if va.isSome then 125000 else 1000000)) (.invalidationComplete s.ctx.cid))
  park .none 0

/-- INVVA (R313). -/
def execInvva (o : Ops) (s : State) : Host.Outcome State Fault Refusal :=
  runM (do
    privileged
    let va ← readX o.b.x
    let w ← readX o.cx
    startInv (some va) (BitVec.ofNat 16 w.toNat)) s

/-- INVASID (R313). -/
def execInvasid (o : Ops) (s : State) : Host.Outcome State Fault Refusal :=
  runM (do
    privileged
    let w ← readX o.b.x
    startInv none (BitVec.ofNat 16 w.toNat)) s

/-- INVALIDATION_COMPLETE (R313, R334). -/
def execInvalidationComplete (cid : Nat) (s : State) : Host.Outcome State Fault Refusal :=
  .next (match s.findCtx cid with
    | none => s
    | some c => match c.got.find? (·.1 == invAsidPos) with
      | none => s
      | some e =>
        let s := invalidate s ((c.got.find? (·.1 == invVaPos)).map (·.2)) (BitVec.ofNat 16 e.2.toNat)
        finishCtx s cid (fun c => c))

/-! WFE and messages. -/

/-- WFE (R314). -/
def execWfe (o : Ops) (s : State) : Host.Outcome State Fault Refusal :=
  runM (do
    privileged
    let n ← readX o.b.x
    needDst o.a.x.val
    let s ← get
    let c := s.ctx
    if c.evt ≠ 0 then
      modC (fun c => { c with evt := 0, wfeStart := none })
      writeX o.a.x c.evt
      return .seq
    else
      if n ≠ 0 ∧ c.wfeStart.isNone then
        let t := s.clock + n.toNat
        set ((s.mod (fun c => { c with wfeStart := some t })).timer t (.wfeTimeout c.cid))
      park .none 0) s

/-- STEWARD_MESSAGE (R314). -/
def execStewardMessage (cid : Nat) (s : State) : Host.Outcome State Fault Refusal :=
  .next (s.modCtx cid (fun c => { c with evt := c.evt ||| 4 }))

/-! SLOTSET. -/

/-- A slot under a SLOTSET setting (R312). -/
def Slot.applySet (sl : Slot) (w : Word) : Slot :=
  let sl := if bit w 8 then { sl with owner := BitVec.ofNat 4 (bits w 3 0), fixed := bit w 5 } else sl
  if bit w 9 then { sl with held := bit w 4 } else sl

/-- SLOTSET (R312). -/
def execSlotset (o : Ops) (s : State) : Host.Outcome State Fault Refusal :=
  runM (do
    privileged
    let mask ← readX o.b.x
    let w ← readX o.cx
    if w &&& ~~~(0x33F : Word) ≠ 0 then trap 0x08 w
    else
      modify (fun s => (List.range 16).foldl (fun s i =>
        let t := s.myCore * 16 + i
        if bit mask i then s.setSlot t ((s.slot t).applySet w) else s) s)
      return .seq) s

/-! RESUME. -/

/-- What RESUME finds at an image slot: a code of R310, or the saved context with the key of the image and the context as
the image has it. An image that cannot be read, for which R310 has no code, gives 5 (DESIGN CHOICE, log 117). -/
def findImage (s : State) (asid : BitVec 16) (va : Word) : Nat ⊕ (Saved × Nat × Ctx) :=
  match readImg s asid va with
  | none => .inl 5
  | some (key, img) =>
    let h := imgWord img 0
    let state := bits h 15 8
    if h = 0 then .inl 1
    else if state = 0 ∨ state = 3 then .inl 3
    else match s.saved.find? (fun v => v.asid == asid && wd v.ctx.cid == imgWord img 0xC78) with
      | none => .inl 5
      | some v => match imageCtx s v img with
        | none => .inl 5
        | some c => .inr (v, key, c)

/-- Whether a resume of a context waits: for the values that a query holds (Table 2.9), until its region's count is below MSLOT
(R325), or while its tree is stilled (R373). -/
def resumeHeld (s : State) (c : Ctx) : Bool :=
  let r := s.regionOf c
  c.query.isSome || r.still || decide (r.mslot ≤ liveCount s r.id s.myDie)

/-- The slots of the issuing die in which RESUME may place a context (R36, R310). -/
def resumeSlots (s : State) (v : Saved) (c : Ctx) : List Nat :=
  let r := s.regionOf c
  ((List.range 4096).map (fun i => s.myDie * 4096 + i)).filter (fun t =>
    slotFree s t && (s.slot t).owner.toNat == r.shq && tiesAllow c v.name t)

/-- RESUME and RESUME with KILL (R310). -/
def resumeM (o : Ops) (kill : Bool) : M Ctl := do
  let va ← readX o.b.x
  needDst o.a.x.val
  if va.toNat % 4096 ≠ 0 then trap 0x05 va
  else
    release .none 0 2
    if anyOwns (← get) ((← get).regionOf (← ctx)).asid va 4096 then park .none 0
    modify (fun s => touchImg s (s.regionOf s.ctx).asid va)
    let s ← get
    match findImage s (s.regionOf s.ctx).asid va with
    | .inl code =>
      writeX o.a.x (wd (2 ^ 63 + code))
      return .seq
    | .inr (v, key, c) =>
      if kill then
        set (s.store key (toBytes 8 0) .device 0 pkgMark)
        killBy v.ctx.cid o.a.x
      else if resumeHeld s c then park .none 0
      else
        let l := resumeSlots s v c
        match l[Config.slotPick s.tick % l.length]? with
        | none =>
          writeX o.a.x (wd (2 ^ 63 + 6))
          return .seq
        | some t =>
          set (resumeIn { s with tick := s.tick + 1 } v key t c)
          writeX o.a.x (wd t)
          return .seq

/-- RESUME (R310). -/
def execResume (o : Ops) (s : State) : Host.Outcome State Fault Refusal :=
  runM (do
    privileged
    resumeM o false) s

/-- RESUME with a mode word (R310). -/
def execResumeKill (o : Ops) (s : State) : Host.Outcome State Fault Refusal :=
  runM (do
    privileged
    let w ← readX o.cx
    if w.toNat / 2 ≠ 0 then trap 0x08 w
    else resumeM o (bit w 0)) s

end Sys2Proof.Machine
end

