-- ==== Sys2Proof/Machine/Reliab.lean ====
section
/-! DEFINITION. Package reset and the loss of power (R377, R380), FREEZE and the thermal trip (R381, R382), errors (R358
to R360), and in-field scan and the logical core map (R366 to R368). -/

namespace Sys2Proof.Machine

/-- What survives a reset and the loss of power: the logical core map, the lineage slots, record table, pending advances
and leaf index, and the join number (R346, R368, R369, R372, R374); the host's own memory is not the package's. The counters
behind the free values go on (log 3). -/
def keepStored (s : State) : State :=
  { State.reset with
    tick := s.tick, ids := s.ids, hostMem := s.hostMem
    cores := (s.cores.filter (fun c => !c.2.present)).map (fun c => (c.1, { present := false }))
    fabric := { State.reset.fabric with join := s.fabric.join }
    lineage := { s.lineage with meas := [], job := none } }

/-- How far the firmware of a die has come (R380), and what its BOOTST field reads. -/
def setBoot (s : State) (die : Fin 4) (step : Nat) (st : BitVec 8) : State :=
  { s with host := { s.host with booted := s.host.booted.set die step, bootst := s.host.bootst.set die st } }

/-- Whether a die's firmware stands at a step of R380. -/
def bootsAt (s : State) (die : Fin 4) (step : Nat) : Bool := s.host.booted[die] == step && s.host.bootst[die] == 0

/-- Whether a firmware image is one that the fuses allow (R380 step 2). -/
def imageOk (key : List Byte) (version : Nat) (image sig : List Byte) : Bool :=
  shake256 key == Config.firmwareHash && decide (Config.firmwareMin ≤ version) &&
    xmssVerify key image sig

/-- The explicit levels of a die at 0 with every tag empty (R69, R70). -/
def clearLevels (s : State) (die : Nat) : State :=
  let keep (k : Nat) : Bool := decide (k < 2 ^ 40) || dieOfKey k != die
  { s with mem := s.mem.filter (fun c => keep c.1), full := s.full.filter keep }

/-- Whether each port of a die that joins a neighbour has been trained since the reset (R344, R380 step 4), but for those at which
no neighbour answers: R380 does not say how long a steward waits for one (DESIGN CHOICE, log 116). -/
def linksTrained (s : State) (die : Fin 4) (silent : List (Fin 8)) : Bool :=
  (List.finRange 8).all (fun p => portDie p != die.val || (neighbour s p.val).isNone || (s.port p).met || silent.contains p)

/-- PACKAGE_RESET (R380): the reset, at which each die's firmware reads its fuses, and then the steps of each steward: its
image is verified, the explicit levels and memory stacks are set up, and the map and links; the package joins the fabric when
all four are ready. -/
def execPackageReset (boot : BootResult) (s : State) : Host.Outcome State Fault Refusal :=
  .next (match boot with
    | .start => keepStored s
    | .verify die key version image sig =>
      if !bootsAt s die 0 then s
      else if imageOk key version image sig then setBoot s die 1 0 else setBoot s die 0 2
    | .clear die ok =>
      if !bootsAt s die 1 then s
      else if ok then setBoot (clearLevels s die) die 2 0 else setBoot s die 1 3
    | .ready die silent =>
      if !bootsAt s die 2 || !linksTrained s die silent then s
      else
        let s := setBoot s die 3 1
        if bootDone s then joinFabric s else s)

/-- POWER_LOSS (R377). -/
def execPowerLoss (s : State) : Host.Outcome State Fault Refusal := .next { keepStored s with power := .off }

/-- FREEZE (R381): every context and every clock stops. -/
def execFreeze (s : State) : Host.Outcome State Fault Refusal :=
  .next (if s.power = .on then { s with power := .frozen } else s)

/-- THERMAL_TRIP (R382): as FREEZE, and THERMTRIP is asserted. -/
def execThermalTrip (s : State) : Host.Outcome State Fault Refusal :=
  .next (if s.power = .on then { s with power := .frozen, thermtrip := true } else s)

/-! Errors. -/

/-- The event of a corrected error (Table 23.4). -/
def noteCorrected (s : State) (array unit die : Nat) (addr : Word) : State :=
  s.event { type := 1, die, source := wd (array * 2 ^ 56 + unit % 256 * 2 ^ 48), val := addr }

/-- An entry with a parity error discarded from a core's instruction cache, a line of 128 bytes (Table 4.6), or from a die's
translation cache, the page that holds the address; the device fetches or walks again (R358; array codes 5 and 12, log 49). -/
def dropCached (s : State) (array unit die : Nat) (addr : Word) : State :=
  if array = 5 then
    let k := coreOfPhys die unit
    s.setCore k { s.core k with icache := (s.core k).icache.filter (fun e => e.va.toNat / 128 != addr.toNat / 128) }
  else if array = 12 then s.modDie die (fun d => { d with tlb := d.tlb.filter (fun e =>
    e.2.1.toNat / 2 ^ e.2.2.1 != addr.toNat / 2 ^ e.2.2.1) })
  else s

/-- CORRECTED_ERROR (R358): the data is right again where it stands, or its cached copy goes, and the event is sent. -/
def execCorrectedError (array unit die : Nat) (addr : Word) (s : State) : Host.Outcome State Fault Refusal :=
  .next (noteCorrected (dropCached s array unit die addr) array unit die addr)

/-- Whether a context of a region, in a slot or saved, holds an outer frame in a cluster of a die. -/
def holdsFrame (s : State) (r : Region) (die : Nat) : Bool :=
  let on (l : List (Nat × Nat × Bool)) : Bool := l.any (fun e => e.1 / 16 == die)
  s.slots.any (fun e => match e.2.ctx with
    | some c => c.region == r.id && on (heldEntries s c e.1)
    | none => false) ||
    s.saved.any (fun v => v.ctx.region == r.id && on (heldEntries s v.ctx v.name)) ||
    s.tasks.any (fun t => t.2.region == r.id && (on t.2.frames || t.2.out.any (fun e => on e.2)))

/-- Whether a region holds an entry of a die's XU: pending or to run again there, or claimed or queued for by a sweep of
its. -/
def holdsEntry (s : State) (r : Region) (die : Nat) : Bool :=
  let mine (q : ClaimReq) : Bool := q.node == s.node && (Tab.get? s.sweeps q.sweep).any (·.region == r.id)
  s.groups.any (fun g => g.entries.any (fun e => entryDie g.key e.1 == die &&
    ((e.2.pend && e.2.pendRegion == r.id) || (e.2.again && e.2.againRegion == r.id) || (e.2.held ++ e.2.fifo).any mine)) ||
    g.deferred.any (fun q => entryDie g.key q.2.elem == die && mine q.2))

/-- Whether a live region holds state in the XU, the frame tables or the matrix scheduler of a die (Table 23.1 code
11). -/
def holdsUnit (s : State) (r : Region) (die : Nat) : Bool :=
  r.live && (r.ofv || s.sweeps.any (fun w => w.2.region == r.id && w.2.die == die) ||
    s.records.any (fun m => m.region == r.id && m.die == die && m.state != .complete) ||
    holdsEntry s r die || holdsFrame s r die)

/-- Whether a strong read of a granule is on its way for a thread that goes on meanwhile. -/
def readUnderWay (s : State) (g : Nat) : Bool :=
  s.slots.any (fun e => match e.2.ctx.bind (·.strong) with
    | some p => p.op.reads && !p.hold && p.key / 8 == g
    | none => false)

/-- UNCORRECTABLE_ERROR (R359, R360, Table 23.1): the granule stays uncorrectable until it is written whole, the thread of
a register file is killed, and the regions of a failing unit are halted. A fault of a strong operation is precise, and no later
instruction has issued (R98): data that a strong operation reads is known to be good when its thread goes on, and turns
uncorrectable only after it (DESIGN CHOICE, log 113). -/
def execUncorrectableError (e : ArrayError) (s : State) : Host.Outcome State Fault Refusal :=
  .next (match e with
    | .data array die key =>
      if readUnderWay s (key / 8) then s.due (.uncorrectableError e)
      else
      let s : State := { s with poison := if s.poison.contains (key / 8) then s.poison else key / 8 :: s.poison }
      noteError s array (arrayOf key).2 die (eventAddr (key / 8 * 8))
    | .regs slot =>
      let s := noteError s 10 (physCore (nameCore slot)) (nameDie slot) 0
      match (s.slot slot).ctx with
      | none => s
      | some c => kill s c.cid { reason := 1, cause := 0x0D, epc := c.pc, lpc := c.pc }
    | .unit die =>
      let s := noteError s 11 0 die 0
      haltUnit s (((s.regions.map (·.2)).filter (fun r => holdsUnit s r die)).map (·.id)))

/-- PATROL_READ (R358, R360): a line of a memory stack of the die, or of its LLC where the address is 2^37 or more, is read at
its PA, and each granule of it that is uncorrectable is reported; `flipped` tells a single-bit error in the granule of the
address, which is corrected. -/
def execPatrolRead (die : Nat) (addr : Nat) (flipped : Bool) (s : State) : Host.Outcome State Fault Refusal :=
  let array := if addr < 2 ^ 37 then 1 else 2
  let pa := addr % 2 ^ 37
  .next (
    let bad := (granules (ordKey die (pa / 128 * 128)) 128).filter s.poison.contains
    let s := bad.foldl (fun s g => noteError s array 0 die (eventAddr (8 * g))) s
    if flipped then noteCorrected s array 0 die (wd (pa / 8 * 8)) else s)

/-! Scan. -/

/-- Whether a core may be scanned: its slots have all been free for a whole share interval. -/
def scanReady (s : State) (core : Nat) : Bool :=
  (s.core core).scan.isNone && (List.range 16).all (fun i =>
    let sl := s.slot (core * 16 + i)
    sl.ctx.isNone && !sl.scrub && sl.reserved.isNone && decide (sl.freed + 4096 ≤ s.clock))

/-- Whether a context still has accesses on their way. -/
def Ctx.inFlight (c : Ctx) : Bool :=
  !c.loads.isEmpty || !c.stores.isEmpty || c.strong.isSome || !c.outer.isEmpty || c.remote.isSome

/-- Whether work of threads that stood on a core is still under way (R366 step 2). -/
def coreBusy (s : State) (core : Nat) : Bool :=
  s.ended.any (fun e => nameCore e.1 == core && e.2.inFlight) ||
    s.saved.any (fun v => nameCore v.name == core && v.ctx.inFlight) || s.copies.any (fun k => k.core == core)

/-- The pattern of a scan begins once the core's work has drained; what its comparison finds is a free value (log 27). -/
def runScan (s : State) (core : Nat) : State :=
  if coreBusy s core then s.dueBy (max (((s.core core).scan.getD s.clock) + 20 * micro) (s.clock + 1)) (.scanStart core)
  else State.timer { s with tick := s.tick + 1 } (s.clock + 200 * micro) (.scanEnd core (Config.scanPass s.tick))

/-- SCAN_START (R366): the slots are held and the instruction cache is invalidated; once the core's work has drained the
pattern runs for 200 µs. -/
def execScanStart (core : Nat) (s : State) : Host.Outcome State Fault Refusal :=
  .next (if scanReady s core then
      let s := (List.range 16).foldl (fun s i =>
        s.setSlot (core * 16 + i) { s.slot (core * 16 + i) with held := true }) s
      runScan (s.setCore core { s.core core with icache := [], scan := some s.clock }) core
    else if (s.core core).scan.isSome && !s.timers.any (fun e => match e.2 with
      | .scanEnd k _ => k == core
      | _ => false) then runScan s core
    else s)

/-- SCAN_END (R366, R368): a core that fails leaves the map. -/
def execScanEnd (core : Nat) (pass : Bool) (s : State) : Host.Outcome State Fault Refusal :=
  .next (if (s.core core).scan.isNone then s
    else
      let s := stopScan s core (if pass then 4 else 5)
      if pass then s else retireCore s core)

/-- CORE_RETIREMENT (R368). -/
def execCoreRetirement (core : Nat) (s : State) : Host.Outcome State Fault Refusal :=
  .next (if (s.core core).present then retireCore s core else s)

end Sys2Proof.Machine
end

