-- ==== Sys2Proof/Machine/SealImage.lean ====
section
/-! DEFINITION. What a sealed image is made of (R373, R375, Tables 24.4 and 24.5): reading and writing the memory that a
command names, the payload records of a tree, and the image around them. -/

namespace Sys2Proof.Machine

/-! Memory named by a command (R370, R373). -/

/-- The key of a byte that a command names: in ordinary memory, and in a declared range also in an explicit level (R370,
R373). -/
def rangeKey (s : State) (lv : Bool) (asid : BitVec 16) (va : Word) (write : Bool) : Option Nat :=
  match remotePlace va 1 with
  | none => none
  | some (.arr k) => if !lv || (!write && poisoned s k 1) then none else some k
  | some (.ord _) => devKey s asid va write

/-- `n` bytes from a VA. -/
def readRange (s : State) (lv : Bool) (asid : BitVec 16) : Nat → Word → Nat → Option (List Byte)
  | 0, _, _ => some []
  | fuel + 1, va, n =>
    if n = 0 then some []
    else
      let g := min n (8 - va.toNat % 8)
      match rangeKey s lv asid va false, readRange s lv asid fuel (va + wd g) (n - g) with
      | some k, some l => some (Mem.readN s.mem k g ++ l)
      | _, _ => none

/-- `n` bytes from a VA, whole. -/
def bytesAt (s : State) (lv : Bool) (asid : BitVec 16) (va : Word) (n : Nat) : Option (List Byte) :=
  readRange s lv asid (n + 1) va n

/-- Bytes written from a VA; none where one cannot be. -/
def writeRange (lv : Bool) (asid : BitVec 16) : Nat → Word → List Byte → State → Option State
  | 0, _, _, s => some s
  | fuel + 1, va, l, s =>
    if l.isEmpty then some s
    else
      let g := min l.length (8 - va.toNat % 8)
      match rangeKey s lv asid va true with
      | none => none
      | some k => writeRange lv asid fuel (va + wd g) (l.drop g) (s.store k (l.take g) .device 0 pkgMark)

def putBytes (s : State) (lv : Bool) (asid : BitVec 16) (va : Word) (l : List Byte) : Option State :=
  writeRange lv asid (l.length + 1) va l s

/-- The words of bytes. -/
def wordsIn (l : List Byte) (n : Nat) : List Word := (List.range n).map (fun i => wd (ofBytes ((l.drop (8 * i)).take 8)))

/-- A counted list of words: the count, within bounds, and `k` words for each. -/
def countedList (s : State) (asid : BitVec 16) (va : Word) (lo hi k : Nat) : Option (List Word) :=
  match devWords s asid 1 va with
  | .ok [n] =>
    if n.toNat < lo ∨ hi < n.toNat then none
    else match devWords s asid (k * n.toNat) (va + 8) with
      | .ok l => some l
      | .error _ => none
  | _ => none

/-- Pairs of a list of ranges (R371). -/
def pairsOf : List Word → List (Word × Nat)
  | v :: n :: l => (v, n.toNat) :: pairsOf l
  | _ => []

/-! Payload records (Table 24.5). -/

def wordBytes (l : List Word) : List Byte := l.flatMap (fun w => toBytes 8 w.toNat)

/-- A record with its header. -/
def sealRecord (ty : Nat) (key : Word) (l : List Byte) : List Byte :=
  toBytes 8 (ty * 2 ^ 56 + l.length % 2 ^ 40) ++ toBytes 8 key.toNat ++ l

/-- The regions of a tree, the root first. -/
def treeRegions (s : State) (root : Nat) : List Region := (s.regions.filter (fun e => isUnder s root 9 e.1)).map (·.2)

/-- Whether a region is of a tree. -/
def inTree (s : State) (root rid : Nat) : Bool := isUnder s root 9 rid

/-- The RCB VA of a region; 0 where there is none. -/
def rcbOf (s : State) (rid : Option Nat) : Word := match rid.bind s.region? with
  | some r => r.rcbva
  | none => 0

/-- The spawned records of a region with their dies. -/
def spawnsOf (s : State) (r : Region) : List (Nat × Spawn) :=
  s.cores.flatMap (fun c => (c.2.deque.filter (·.region == r.id)).map (fun p => (c.1 / 256, p))) ++
    (List.range 4).flatMap (fun d => (r.spill.getD d []).map (fun p => (d, p)))

/-- What a region keeps of its completed records (R228): id, outcome and Roller. -/
def recWords (s : State) (r : Region) : List Word :=
  (s.records.filter (fun m => m.region == r.id && m.state == .complete)).flatMap (fun m =>
    [wd m.id, wd (m.code + m.pcode * 2 ^ 8 + ((m.roller.map (· + 1)).getD 0) * 2 ^ 16)])

/-- The saved contexts of a region, in order. -/
def savedOf (s : State) (rid : Nat) : List Saved := s.saved.filter (fun v => v.ctx.region == rid)

/-- The stack range kept for work of a region whose page did not grow (R258), from 1; 0 where none is. -/
def stuckWord (r : Region) (die key : Nat) : Word :=
  match r.stuck.find? (fun e => e.1 == die && e.2.1 == key) with
  | some e => wd (e.2.2.1 + 1)
  | none => 0

/-- A region of the tree (type 1): behind what Table 24.5 names, what the 112 words of CONT do not hold of its contexts. -/
def regionRecord (s : State) (r : Region) : List Byte :=
  let sp := spawnsOf s r
  let rs := recWords s r
  sealRecord 1 r.rcbva (wordBytes (r.rcb.toList ++
    [wd r.level, rcbOf s r.parent, wd r.cookie.toNat, wd r.live.toNat, wd r.halted, wd r.faulted.toNat, wd r.lost, wd r.nextRec] ++
    r.tiles.toList.map wd ++ (List.range 4).map (fun d => stuckWord r d 0) ++ [wd sp.length] ++
    sp.flatMap (fun e => [wd e.1, e.2.entry, e.2.x5, e.2.x6, e.2.x7, e.2.x8, stuckWord r e.1 e.2.id]) ++ [wd (rs.length / 2)] ++ rs ++
    (savedOf s r.id).flatMap (fun v => let l := (contWords s (applied s v)).drop 112; wd l.length :: l)))

/-- A context of the tree (type 2): its image with what system software may have changed in it (R302). -/
def contextRecord (s : State) (v : Saved) : List Byte := sealRecord 2 0 (imageBytes s (applied s v) v.name 1 v.stamp)

/-- The frame table entries of a tree: cluster and number. -/
def treeFrames (s : State) (root : Nat) : List (Nat × Nat) :=
  let held := (s.saved.filter (fun v => inTree s root v.ctx.region)).flatMap (fun v =>
    (heldEntries s v.ctx v.name).map (fun e => (e.1, e.2.1)))
  let left := (s.tasks.filter (fun t => inTree s root t.2.region)).flatMap (fun t => t.2.frames.map (fun e => (e.1, e.2.1)))
  let own := (treeRegions s root).flatMap (fun r => if r.live && r.ofv then
      (List.range 64).filterMap (fun cl => ((s.ftab cl).toList.findIdx? (fun e => e.live && e.kind == 2 && e.base == r.ofb)).map
        (fun i => (cl, i)))
    else [])
  (held ++ left ++ own).eraseDups

/-- The key of a word of an outer frame. -/
def outerKey (cl : Nat) (e : FrameEnt) (i : Nat) : Nat :=
  if e.kind = 2 then clusKey cl (e.base + 8 * i) else coreKey e.core (e.base + 8 * i)

/-- An outer frame of the tree (type 3): its entry and its words with their tags. -/
def frameRecord (s : State) (cl i : Nat) : List Byte :=
  let e := (s.ftab cl).getD i {}
  let ks := (List.range (e.size / 8)).map (outerKey cl e)
  sealRecord 3 (wd (clusIndex cl)) (wordBytes ([wd e.kind, wd (e.core % 16), wd e.base, wd e.size, wd e.count.toNat, wd e.orel.toNat,
      wd e.gen.toNat] ++ ks.flatMap (fun k => [wd (Mem.num s.mem k 8), wd (isFull s k).toNat])))

/-- Where an element of a group stands in the pending order. -/
def Group.placeOf (g : Group) (i : Nat) : Nat := ((g.pending.find? (·.2 == i)).map (·.1)).getD 0

/-- The sweeps of a tree's tasks in a group that have their claims. -/
def treeSweeps (s : State) (root : Nat) (g : Group) : List Sweep :=
  (s.sweeps.map (·.2)).filter (fun w => w.grp == g.key && w.granted && inTree s root w.region)

/-- The claim entries of a tree in a group (type 4): what is pending or to run again, in the pending order, and the claims that
its granted tasks hold, on every package; those that this package homes are marked. -/
def claimRecord (s : State) (root : Nat) (g : Group) : List Byte :=
  let l := g.entries.filter (fun e => (e.2.pend && inTree s root e.2.pendRegion) || (e.2.again && inTree s root e.2.againRegion))
  let l := sortBy (fun a b => decide (g.placeOf a.1 ≤ g.placeOf b.1)) l
  let ws := treeSweeps s root g
  sealRecord 4 g.key.ctab (wordBytes ([wd l.length] ++ l.flatMap (fun e => [wd e.1, wd e.2.word, rcbOf s (some e.2.pendRegion),
    rcbOf s (some e.2.againRegion), wd e.2.wasAgain.toNat]) ++
    ws.flatMap (fun w => [wd w.elem, rcbOf s (some w.region), wd (w.again.toNat + w.dispatched.toNat * 2),
        stuckWord ((s.region? w.region).getD Region.blank) w.die w.id, wd w.set.length] ++
      w.set.flatMap (fun m => [m.1, wd (m.2.toNat + (idNode m.1 == s.node).toNat * 2)]))))

/-- Tag bits of the words of an explicit-level range, packed. -/
def tagBytes (s : State) (asid : BitVec 16) (va : Word) (n : Nat) : List Byte :=
  let m := n / 8
  let tag (i : Nat) : Nat := match rangeKey s true asid (va + wd (8 * i)) false with
    | some k => (isFull s k).toNat
    | none => 0
  (List.range ((m + 7) / 8)).map (fun b =>
    BitVec.ofNat 8 ((List.range 8).map (fun j => if 8 * b + j < m then tag (8 * b + j) * 2 ^ j else 0)).sum)

/-- A declared range (types 5 and 6). -/
def rangeRecord (s : State) (asid : BitVec 16) (p : Word × Nat) : Option (List Byte) :=
  (bytesAt s true asid p.1 p.2).map (fun l =>
    if isOrd p.1 then sealRecord 5 p.1 l else sealRecord 6 p.1 (l ++ tagBytes s asid p.1 p.2))

/-- The groups of a tree. -/
def treeGroups (s : State) (root : Nat) : List Group :=
  s.groups.filter (fun g => (treeRegions s root).any (fun r => r.live && r.tsp != 5 && r.grpKey == g.key))

/-- The payload of a stilled tree; none where a range cannot be read. -/
def payloadOf (s : State) (root : Nat) (asid : BitVec 16) (ranges : List (Word × Nat)) : Option (List Byte) :=
  let rs := ranges.map (rangeRecord s asid)
  if rs.all (·.isSome) then
    some ((treeRegions s root).flatMap (regionRecord s) ++
      (s.saved.filter (fun v => inTree s root v.ctx.region)).flatMap (contextRecord s) ++
      (treeFrames s root).flatMap (fun e => frameRecord s e.1 e.2) ++
      (treeGroups s root).flatMap (claimRecord s root) ++ rs.flatMap (·.getD []))
  else none

/-! The image (Table 24.4). -/

/-- The bytes of a KEM certificate, and P. -/
def certLen : Nat := 0x30 + 1568 + sigLen
def wrapEnd (n : Nat) : Nat := 0x100 + 0x680 * n

/-- The fields of the first 256 bytes. -/
structure SealHead where
  nwrap : Nat
  total : Nat
  lineage : BitVec 128
  counter : BitVec 40
  asid : BitVec 16
  source : BitVec 128
  meas : BitVec 512
  paylen : Nat
  iv : BitVec 96
  ptag : BitVec 128
  deriving DecidableEq, Repr

def SealHead.bytes (h : SealHead) : List Byte :=
  toBytes 8 (0x5345414C * 2 ^ 32 + 2 ^ 16 + h.nwrap * 2 ^ 8) ++ toBytes 8 h.total ++ toBytes 16 h.lineage.toNat ++
    toBytes 8 h.counter.toNat ++ toBytes 8 h.asid.toNat ++ toBytes 16 h.source.toNat ++ toBytes 64 h.meas.toNat ++
    toBytes 8 h.paylen ++ toBytes 16 h.iv.toNat ++ toBytes 8 0 ++ beBytes 16 h.ptag.toNat ++ List.replicate 80 0

/-- The key-encryption key of a wrap: the hash is over the bytes before the payload tag is known, which count as 0
(log 30). -/
def wrapKey (secret head : List Byte) : BitVec 256 := BitVec.ofNat 256 (beNat (shakeBytes 32 (secret ++ head)))

/-- A wrap of the image key for the peer of a certificate, with a fresh shared secret. -/
def wrapFor (cert head : List Byte) (key : BitVec 256) (draw : Nat) : List Byte :=
  let (secret, ct) := kemEncaps ((cert.drop 0x30).take 1568) (toBytes 32 (Config.freshKey draw).toNat)
  let (wk, tag) := gcmSeal (wrapKey secret head) 0 [] (beBytes 32 key.toNat)
  toBytes 16 (numAt cert 8 16) ++ ct ++ wk ++ beBytes 16 tag.toNat ++ List.replicate 32 0

/-- A payload length rounded up to a multiple of 16. -/
def roundUp (n : Nat) : Nat := (n + 15) / 16 * 16

/-- The image of a payload for the peers of the certificates, but for its signature; the free draws start at `tick`. -/
def sealBody (h : SealHead) (certs : List (List Byte)) (payload : List Byte) (tick : Nat) : List Byte :=
  let key := Config.freshKey tick
  let head0 := h.bytes
  let wraps := (certs.zipIdx).flatMap (fun e => wrapFor e.1 head0 key (tick + 2 + e.2))
  let (ct, tag) := gcmSeal key h.iv (head0 ++ wraps) payload
  ({ h with ptag := tag } : SealHead).bytes ++ wraps ++ (ct ++ List.replicate (roundUp h.paylen - ct.length) 0)

end Sys2Proof.Machine
end

