-- ==== Sys2Proof/Machine/SealEngine.lean ====
section
/-! DEFINITION. The seal engine's commands (R370 to R373): MEASURE, IDENT, OPEN, CLOSE and SEAL. -/

namespace Sys2Proof.Machine

/-! Commands. -/

/-- Whether a step is that of a seal engine command. -/
def isCmd (e : Ev) : Bool := (List.range 8).any (fun i => cmdStep i == some e)

/-- The head of the mailbox is done with a result and outputs by byte offset (R370). -/
def finishCmd (s : State) (a : Word) (result : Nat) (outs : List (Nat × Word)) : State :=
  let s := outs.foldl (fun (s : State) o =>
    { s with hostMem := Mem.writeN s.hostMem (a.toNat + o.1) (toBytes 8 o.2.toNat) }) s
  nextCommand (endCommand s a result) (s.host.mbox.drop 1)

/-- Measurements are kept until their ASID has no translation table left (R371). -/
def dropMeas (s : State) : State :=
  { s with lineage := { s.lineage with meas := s.lineage.meas.filter (fun e => hasTables s e.1) } }

/-- Whether a reserved field of a command is not 0, or its slot is none. -/
def badCmd (s : State) (a : Word) : Bool :=
  let w := cmdWord s a 0
  bits w 62 48 != 0 || bits w 39 32 != 0 || cmdWord s a 0x38 != 0 || decide (31 < bits w 15 8)

def cmdAsid (s : State) (a : Word) : BitVec 16 := BitVec.ofNat 16 (bits (cmdWord s a 0) 31 16)
def cmdSlot (s : State) (a : Word) : Nat := bits (cmdWord s a 0) 15 8
def cmdArg (s : State) (a : Word) (k : Nat) : Word := cmdWord s a (8 + 8 * k)

/-- The command of an operation at the head of the mailbox carried out; another operation there becomes due itself. While an
engine owns a line of the ASID, whose memory the steward reads and writes, the command waits (R79, R96). -/
def withCmd (op : Nat) (f : Word → State → State) (s : State) : Host.Outcome State Fault Refusal :=
  .next (match s.host.mbox with
    | [] => s
    | a :: l =>
      if bits (cmdWord s a 0) 7 0 = op then
        let s := dropMeas s
        if badCmd s a then finishCmd s a 1 []
        else if asidOwned s (cmdAsid s a) then (match cmdStep op with
          | some e => s.due e
          | none => s)
        else f a s
      else if s.agenda.any isCmd then s else nextCommand s (a :: l))

/-- The measurement of an ASID. -/
def measOf (s : State) (asid : BitVec 16) : Option (BitVec 512) := (s.lineage.meas.find? (·.1 == asid)).map (·.2)

def lslot (s : State) (k : Nat) : Option Lineage := s.lineage.lslots.getD k none
def setLslot (s : State) (k : Nat) (v : Option Lineage) : State :=
  { s with lineage := { s.lineage with lslots := s.lineage.lslots.set! k v } }

/-! MEASURE and IDENT (R371). -/

/-- "ZW-P4 measure v1". -/
def measTitle : List Byte :=
  [0x5A, 0x57, 0x2D, 0x50, 0x34, 0x20, 0x6D, 0x65, 0x61, 0x73, 0x75, 0x72, 0x65, 0x20, 0x76, 0x31]

/-- The ranges, of ordinary memory (R370), with their bytes, and the RCB with ARG, GP and CNTVA at 0. -/
def measInput (s : State) (asid : BitVec 16) (list rcb : Word) : Option (List Byte) :=
  match countedList s asid list 1 64 2, devWords s asid 32 rcb with
  | some l, .ok ws =>
    let parts := (pairsOf l).map (fun p => (bytesAt s false asid p.1 p.2).map (fun bs => wordBytes [p.1, wd p.2] ++ bs))
    if parts.all (·.isSome) then
      some (measTitle ++ parts.flatMap (·.getD []) ++
        wordBytes (ws.zipIdx.map (fun e => if e.2 = 7 ∨ e.2 = 8 ∨ e.2 = 25 then 0 else e.1)))
    else none
  | _, _ => none

/-- MEASURE (R371). -/
def execMeasure (s : State) : Host.Outcome State Fault Refusal :=
  withCmd 1 (fun a s =>
    let asid := cmdAsid s a
    match measInput s asid (cmdArg s a 0) (cmdArg s a 1) with
    | none => finishCmd s a 1 []
    | some l =>
      let m := shake256 l
      match putBytes s false asid (cmdArg s a 2) (toBytes 64 m.toNat) with
      | none => finishCmd s a 1 []
      | some s => finishCmd { s with lineage := { s.lineage with
          meas := (asid, m) :: s.lineage.meas.filter (·.1 != asid) } } a 0 []) s

/-- IDENT (R371). -/
def execIdent (s : State) : Host.Outcome State Fault Refusal :=
  withCmd 7 (fun a s =>
    let l := identCert Config.serial ++ kemCert
    match putBytes s false (cmdAsid s a) (cmdArg s a 0) l with
    | none => finishCmd s a 1 []
    | some s => finishCmd s a 0 [(0x28, wd l.length), (0x30, wd (2 ^ 20 - s.lineage.leaf))]) s

/-! OPEN and CLOSE (R372). -/

/-- OPEN (R372). -/
def execOpenLineage (s : State) : Host.Outcome State Fault Refusal :=
  withCmd 2 (fun a s =>
    let asid := cmdAsid s a
    match devWords s asid 2 (cmdArg s a 0) with
    | .error _ => finishCmd s a 1 []
    | .ok ws => match lslot s (cmdSlot s a), measOf s asid with
      | none, some m =>
        let id : BitVec 128 := BitVec.ofNat 128 ((ws.getD 0 0).toNat + (ws.getD 1 0).toNat * 2 ^ 64)
        finishCmd (setLslot s (cmdSlot s a) (some ⟨id, asid, m, 0⟩)) a 0 []
      | _, _ => finishCmd s a 2 []) s

/-- CLOSE (R372). -/
def execCloseLineage (s : State) : Host.Outcome State Fault Refusal :=
  withCmd 6 (fun a s =>
    match lslot s (cmdSlot s a) with
    | some l =>
      if l.asid = cmdAsid s a then finishCmd (setLslot s (cmdSlot s a) none) a 0 [] else finishCmd s a 2 []
    | none => finishCmd s a 2 []) s

/-! SEAL (R373). -/

/-- The certificates of the peers of a SEAL; none where one cannot be read. -/
def peerCerts (s : State) (asid : BitVec 16) (list : Word) : Option (List (List Byte)) :=
  match countedList s asid list 1 8 1 with
  | none => none
  | some l =>
    let cs := l.map (fun va => bytesAt s false asid va certLen)
    if cs.all (·.isSome) then some (cs.map (·.getD [])) else none

/-- The live level-0 region of an ASID that an RCB VA names. -/
def rootAt (s : State) (asid : BitVec 16) (va : Word) : Option Region :=
  (s.regions.find? (fun e => e.2.live && e.2.level == 0 && e.2.asid == asid && e.2.rcbva == va)).map (·.2)

/-- Whether every byte of an output buffer can be written. -/
def canWrite (s : State) (asid : BitVec 16) (va : Word) (n : Nat) : Bool :=
  (List.range ((n + 7) / 8 + 1)).all (fun i =>
    decide (n ≤ 8 * i) || (rangeKey s false asid (va + wd (min (8 * i) (n - 1))) true).isSome) &&
    (n == 0 || (rangeKey s false asid (va + wd (n - 1)) true).isSome)

/-- The checks of step 1, in order: the result, or the root region with the peers' certificates. -/
def sealCheck (s : State) (a : Word) : Nat ⊕ (Region × List (List Byte)) :=
  let asid := cmdAsid s a
  match countedList s asid (cmdArg s a 1) 0 64 2, peerCerts s asid (cmdArg s a 2) with
  | some l, some cs =>
    if !(pairsOf l).all (fun p => (bytesAt s true asid p.1 p.2).isSome) ||
        !canWrite s asid (cmdArg s a 3) (cmdWord s a 0x28).toNat then .inl 1
    else match lslot s (cmdSlot s a) with
    | none => .inl 2
    | some l =>
      if l.asid ≠ asid ∨ some l.meas ≠ measOf s asid then .inl 2
      else if l.counter = BitVec.allOnes 40 then .inl 3
      else if 2 ^ 20 < s.lineage.leaf + 2 then .inl 4
      else if !cs.all kemCertOk then .inl 5
      else if 64 < s.lineage.pending.length + cs.length then .inl 7
      else match rootAt s asid (cmdArg s a 0) with
        | none => .inl 8
        | some r => .inr (r, cs)
  | _, _ => .inl 1

/-- The tree marked as stilled or not. -/
def setStill (s : State) (root : Nat) (b : Bool) : State :=
  { s with regions := s.regions.map (fun (e : Nat × Region) =>
      if inTree s root e.1 then (e.1, { e.2 with still := b }) else e) }

/-- A sweep withdrawn: its element is pending again at the place it had. -/
def undoSweep (s : State) (w : Sweep) : State :=
  let s := dropSweep s w
  match s.grp? w.grp with
  | none => s
  | some g =>
    let s := setEntry s w.grp w.elem { g.entry w.elem with pend := true, run := false, pendRegion := w.region, wasAgain := w.again }
    s.modGrp w.grp (fun g => { g with pending := g.pending ++ [(w.stamp, w.elem)] })

/-- The contexts of a tree that stand in slots. -/
def treeSlots (s : State) (root : Nat) : List (Nat × Ctx) :=
  s.slots.filterMap (fun e => match e.2.ctx with
    | some c => if inTree s root c.region then some (e.1, c) else none
    | none => none)

/-- Every context of a tree in a slot asked to save; none where a save area has too few free image slots. -/
def saveTree (s : State) : List (Nat × Ctx) → Option State
  | [] => some s
  | (t, c) :: l =>
    if c.save.isSome then saveTree s l
    else match freeImg s (s.regionOf c) (s.regionOf c).nsave 0 with
      | none => none
      | some va => saveTree (askSave s t c ⟨va, 1, none, none, false, s.clock⟩) l

/-- Whether a saved context has nothing of its own left in flight. -/
def Ctx.atRest (c : Ctx) : Bool :=
  c.loads.isEmpty && c.stores.isEmpty && c.strong.isNone && c.outer.isEmpty && c.remote.isNone && c.query.isNone &&
    c.stage == 0 && bits c.rstat 47 40 == 0

/-- Whether a due step still brings something to a context of a tree: the result of a LAUNCH, or the data of an exchange. -/
def bringsTo (s : State) (root : Nat) (e : Ev) : Bool :=
  let mine (cid : Nat) : Bool := (s.findCtx cid).any (fun c => inTree s root c.region)
  match e with
  | .launchResult cid _ _ => mine cid
  | .pxchDataArrival cid _ _ => mine cid
  | _ => false

/-- Whether a tree is stilled: nothing of it runs or is in flight. -/
def treeStill (s : State) (root : Nat) : Bool :=
  (treeSlots s root).isEmpty &&
    s.saved.all (fun v => !inTree s root v.ctx.region || v.ctx.atRest) &&
    s.copies.all (fun k => !inTree s root k.region) &&
    s.records.all (fun m => !inTree s root m.region || m.state == .complete) &&
    s.launches.all (fun l => match l.2.parent with
      | some p => !inTree s root p
      | none => true) &&
    s.ended.all (fun e => !inTree s root e.2.region || e.2.atRest) &&
    s.tasks.all (fun t => !inTree s root t.2.region || t.2.out.isEmpty) &&
    !s.agenda.any (bringsTo s root)

/-- A SEAL that fails after its tree was stilled: the tree resumes. -/
def sealFails (s : State) (a : Word) (root result : Nat) (outs : List (Nat × Word)) : State :=
  let s := setStill s root false
  finishCmd { s with lineage := { s.lineage with job := none } } a result outs

/-- Steps 1 and 2: the checks, and the tree begins to be stilled. A sweep that has its claims is in progress no more (R325): its
task keeps them, and waits (R258). -/
def sealStart (s : State) (a : Word) (again : Ev) : State :=
  match sealCheck s a with
  | .inl n => finishCmd s a n []
  | .inr (r, cs) =>
    let s := setStill s r.id true
    let s := s.sweeps.foldl (fun s (e : Nat × Sweep) =>
      if inTree s r.id e.2.region && !e.2.granted then undoSweep s e.2 else s) s
    State.due { s with lineage := { s.lineage with job := some ⟨r.id, cs, .stilling, [], 0, []⟩ } } again

/-- The SEAL in progress, further on. -/
def setJob (s : State) (j : SealJob) : State := { s with lineage := { s.lineage with job := some j } }

/-- Step 3: the image of a stilled tree but for its signature. -/
def sealWrite (s : State) (a : Word) (j : SealJob) (again : Ev) : State :=
  let asid := cmdAsid s a
  match countedList s asid (cmdArg s a 1) 0 64 2, lslot s (cmdSlot s a) with
  | some l, some ln =>
    match payloadOf s j.root asid (pairsOf l) with
    | none => sealFails s a j.root 1 []
    | some pay =>
      let n := j.certs.length
      let total := wrapEnd n + roundUp pay.length + sigLen
      if (cmdWord s a 0x28).toNat < total then sealFails s a j.root 6 [(0x28, wd total)]
      else
        let h : SealHead := { nwrap := n, total, lineage := ln.id, counter := ln.counter + 1, asid, source := Config.serial,
                              meas := ln.meas, paylen := pay.length
                              iv := BitVec.ofNat 96 (Config.freshKey (s.tick + 1)).toNat, ptag := 0 }
        let body := sealBody h j.certs pay s.tick
        match putBytes s false asid (cmdArg s a 3) body with
        | none => sealFails s a j.root 1 []
        | some s => (setJob { s with tick := s.tick + 2 + n } { j with phase := .written, body, total }).due again
  | _, _ => sealFails s a j.root 1 []

/-- A signature of the package, under its next leaf index (R369). -/
def signNext (s : State) (l : List Byte) : List Byte × State :=
  ((identPair Config.serial).sign s.lineage.leaf l, { s with lineage := { s.lineage with leaf := s.lineage.leaf + 1 } })

/-- Step 4: the signature, behind the rest of the image. -/
def sealSign (s : State) (a : Word) (j : SealJob) (again : Ev) : State :=
  let (sig, s1) := signNext s j.body
  match putBytes s1 false (cmdAsid s a) (cmdArg s a 3 + wd j.body.length) sig with
  | none => sealFails s a j.root 1 []
  | some s => (setJob s { j with phase := .signed, body := [] }).due again

/-- The serials of the peers of a SEAL. -/
def SealJob.peers (j : SealJob) : List (BitVec 128) := j.certs.map (fun k => BitVec.ofNat 128 (numAt k 8 16))

/-- Step 5: the commit, in one step with the package's own record where it is a peer itself (Table 24.7). -/
def sealCommit (s : State) (a : Word) (j : SealJob) (again : Ev) : State :=
  match lslot s (cmdSlot s a) with
  | none => (setJob s { j with phase := .committed }).due again
  | some ln =>
    let s := setLslot s (cmdSlot s a) (some { ln with counter := ln.counter + 1 })
    if !j.peers.contains Config.serial then (setJob s { j with phase := .committed }).due again
    else
      let (_, full, l) := s.lineage.advance ln.id (ln.counter + 1)
      (setJob { s with lineage := l } { j with phase := .committed, full := if full then [Config.serial] else [] }).due again

/-- Step 6: the advances, signed once, kept for every peer but an own record that has been set, and sent. -/
def sealSend (s : State) (a : Word) (j : SealJob) (again : Ev) : State :=
  match lslot s (cmdSlot s a) with
  | none => (setJob s { j with phase := .sent }).due again
  | some ln =>
    let adv0 : Advance := { lineage := ln.id, counter := ln.counter, meas := ln.meas, serial := Config.serial
                            cert := identCert Config.serial, sig := [] }
    let (sig, s) := signNext s (advanceBytes adv0)
    let adv : Advance := { adv0 with sig }
    let ps := j.peers.filter (fun p => p != Config.serial || j.full.contains p)
    let s : State := { s with lineage := { s.lineage with pending := s.lineage.pending ++ ps.map (fun p => (p, adv)) } }
    (ps.foldl (fun s p => s.due (.counterAdvanceResend p ln.id)) (setJob s { j with phase := .sent })).due again

/-- Step 7: the tree resumes or is halted, and the command ends with the peers that have acknowledged. -/
def sealEnd (s : State) (a : Word) (root : Nat) (stop : Bool) (total : Nat) (acked : List Bool) : State :=
  let s := setStill s root false
  let s : State := { s with lineage := { s.lineage with job := none } }
  let actor := rcbOf s (some root)
  let s := if stop then haltRegions s ((treeRegions s root).map (fun r => (r.id, 3))) actor else s
  finishCmd s a 0 [(0x28, wd total), (0x30, wd ((acked.zipIdx.map (fun e => e.1.toNat * 2 ^ e.2)).sum))]

/-- Steps 6 and 7 once the advances are sent: the command ends when all have been acknowledged, with *full* too, or before (log
28). -/
def sealAwait (stop : Bool) (again : Ev) (a : Word) (j : SealJob) (s : State) : State :=
  let (id, c) := ((lslot s (cmdSlot s a)).map (fun ln => (ln.id, ln.counter))).getD (0, 0)
  let acked := j.peers.map (fun p => j.full.contains p || !s.lineage.pending.any (fun e => e.1 == p && e.2.lineage == id && e.2.counter == c))
  if acked.all (·) || Config.sealEnds s.tick then sealEnd { s with tick := s.tick + 1 } a j.root stop j.total acked
  else State.due { s with tick := s.tick + 1 } again

/-- A tree further stilled (R373 step 2): its contexts are asked to save, and when nothing of it is in flight its image is
written. -/
def sealStill (again : Ev) (a : Word) (j : SealJob) (s : State) : State :=
  if (match s.region? j.root with
    | some r => !r.live
    | none => true) then sealFails s a j.root 8 []
  else if treeStill s j.root then sealWrite s a j again
  else match saveTree s (treeSlots s j.root) with
    | none => sealFails s a j.root 9 []
    | some s => s.due again

/-- One step of a SEAL. -/
def sealStep (stop : Bool) (again : Ev) (a : Word) (s : State) : State :=
  match s.lineage.job with
  | none => sealStart s a again
  | some j => match j.phase with
    | .stilling => sealStill again a j s
    | .written => sealSign s a j again
    | .signed => sealCommit s a j again
    | .committed => sealSend s a j again
    | .sent => sealAwait stop again a j s

/-- SEAL_AND_CONTINUE (R373). -/
def execSealAndContinue (s : State) : Host.Outcome State Fault Refusal :=
  withCmd 3 (sealStep false .sealAndContinue) s

/-- SEAL_AND_STOP (R373). -/
def execSealAndStop (s : State) : Host.Outcome State Fault Refusal := withCmd 4 (sealStep true .sealAndStop) s

end Sys2Proof.Machine
end

