-- ==== Sys2Proof/Machine/Restore.lean ====
section
/-! DEFINITION. RESTORE (R376): the checks of Table 24.6, and a tree set up from the payload records of a sealed image. -/

namespace Sys2Proof.Machine

/-! Reading an image. -/

/-- A payload record: its type, key and contents. -/
structure PRec where
  ty : Nat
  key : Word
  data : List Byte
  deriving DecidableEq, Repr

/-- The records of a payload. -/
def parseRecs : Nat → List Byte → List PRec
  | 0, _ => []
  | fuel + 1, l =>
    if l.length < 16 then []
    else
      let h := wd (numAt l 0 8)
      let n := bits h 39 0
      ⟨bits h 63 56, wd (numAt l 8 8), (l.drop 16).take n⟩ :: parseRecs fuel (l.drop (16 + n))

/-- The associated data of an image: the bytes before P with the payload tag at 0 (log 30). -/
def assocData (img : List Byte) (p : Nat) : List Byte :=
  img.take 0xA0 ++ List.replicate 16 0 ++ (img.take p).drop 0xB0

/-- The payload of an image opened with the wrap of a peer; none where a key or a tag fails. -/
def openImage (img : List Byte) (k : Nat) : Option (List Byte) :=
  let p := wrapEnd (numAt img 1 1)
  let w := img.drop (0x100 + 0x680 * k)
  let secret := kemDecaps kemSeeds.1 kemSeeds.2 ((w.drop 0x10).take 1568)
  let head := img.take 0xA0 ++ List.replicate 16 0 ++ (img.take 0x100).drop 0xB0
  let tag (l : List Byte) : BitVec 128 := BitVec.ofNat 128 (beNat (l.take 16))
  match gcmOpen (wrapKey secret head) 0 [] ((w.drop 0x630).take 32) (tag (w.drop 0x650)) with
  | none => none
  | some key => gcmOpen (BitVec.ofNat 256 (beNat key)) (BitVec.ofNat 96 (numAt img 0x88 12)) (assocData img p)
      ((img.drop p).take (numAt img 0x80 8)) (tag (img.drop 0xA0))

/-! Regions (type 1). -/

/-- The words of a record. -/
def PRec.w (p : PRec) (i : Nat) : Word := wd (numAt p.data (8 * i) 8)

/-- How many spawned records, and kept outcomes of matrix records, a region record holds; where the latter begin, and where what
is left of the contexts does. -/
def PRec.spawns (p : PRec) : Nat := (p.w 48).toNat
def PRec.kept (p : PRec) : Nat := (p.w (49 + 7 * p.spawns)).toNat
def PRec.keptAt (p : PRec) : Nat := 50 + 7 * p.spawns
def PRec.restAt (p : PRec) : Nat := p.keptAt + 2 * p.kept

/-- What a region record holds of its n-th context beside CONT, from a word on. -/
def PRec.rest (p : PRec) : Nat → Nat → List Word
  | 0, at' => (List.range (p.w at').toNat).map (fun i => p.w (at' + 1 + i))
  | n + 1, at' => p.rest n (at' + 1 + (p.w at').toNat)

/-- A region from its record, with its own number; its spawned records are numbered from `base`. -/
def regionFrom (id base : Nat) (asid : BitVec 16) (p : PRec) (parent : Option Nat) : Region :=
  let g (i : Nat) : Word := p.w i
  let spawns (die : Nat) : List Spawn := (List.range p.spawns).filterMap (fun k =>
    let b := 49 + 7 * k
    if (g b).toNat = die then some ⟨base + k, id, g (b + 1), g (b + 2), g (b + 3), g (b + 4), g (b + 5)⟩ else none)
  let kept : List (Nat × Nat × Nat × Bool) :=
    ((List.range 4).filterMap (fun d => if g (44 + d) = 0 then none else some (d, 0, (g (44 + d)).toNat - 1, false))) ++
    (List.range p.spawns).filterMap (fun k =>
      let b := 49 + 7 * k
      if g (b + 6) = 0 then none else some ((g b).toNat, base + k, (g (b + 6)).toNat - 1, false))
  { Region.blank with
    stuck := kept, stk := kept.map (·.2.2.1)
    id, asid, rcbva := p.key, parent
    rcb := Vector.ofFn (fun i : Fin 32 => g i.val)
    level := (g 32).toNat, cookie := BitVec.ofNat 32 (g 34).toNat, live := g 35 != 0, halted := (g 36).toNat
    faulted := g 37 != 0, lost := (g 38).toNat, nextRec := (g 39).toNat
    tiles := Vector.ofFn (fun d : Fin 4 => (g (40 + d.val)).toNat)
    spill := Vector.ofFn (fun d : Fin 4 => spawns d.val) }

/-- The outcomes of a region's matrix records that are kept (R228), numbered from `base` in the order of enqueues. -/
def recordsFrom (id base : Nat) (p : PRec) : List MRec :=
  (List.range p.kept).map (fun k =>
    let b := p.keptAt + 2 * k
    let v := p.w (b + 1)
    { region := id, id := (p.w b).toNat, words := Vector.replicate 16 0, va := 0, cid := 0, name := 0, inc := 0, core := 0, clus := 0,
      die := 0, order := base + k, issued := none, state := .complete, code := bits v 7 0, pcode := bits v 15 8
      roller := if bits v 47 16 = 0 then none else some (bits v 47 16 - 1)
      bank := none, acc := [], lines := [], sums := none, drain := false })

/-- The parent's RCB VA that a region record names. -/
def parentVa (p : PRec) : Word := wd (numAt p.data 264 8)

/-- Regions made from their records in order, a parent before its children; gives the numbers by RCB VA. -/
def makeRegions (asid : BitVec 16) : List PRec → List (Word × Nat) → State → List (Word × Nat) × State
  | [], m, s => (m, s)
  | p :: l, m, s =>
    let (id, s) := s.fresh
    let parent := if numAt p.data 256 8 = 0 then none else (m.find? (·.1 == parentVa p)).map (·.2)
    makeRegions asid l ((p.key, id) :: m) { s with
      regions := Tab.set s.regions id (regionFrom id s.ids asid p parent)
      records := s.records ++ recordsFrom id (s.ids + p.spawns) p
      ids := s.ids + p.spawns + p.kept }

/-- The region of an RCB VA among those restored. -/
def regionAt (m : List (Word × Nat)) (va : Word) : Nat := ((m.find? (·.1 == va)).map (·.2)).getD 0

/-! Contexts (type 2). -/

/-- The words of CONT behind the context's number, as the device wrote them. -/
def contOfImage (img : List Byte) : List Word :=
  wordsIn (toBytes 896 (Config.contCode.symm (BitVec.ofNat 7168 (ofBytes (img.drop 0xC80)))).toNat) 112

def Blk.unpack (w : Word) : Blk := ⟨BitVec.ofNat 11 w.toNat, BitVec.ofNat 11 (bits w 21 11), bit w 22⟩
def RegSet.unpack (x w : Word) : RegSet :=
  ⟨x, BitVec.ofNat 16 w.toNat, BitVec.ofNat 8 (bits w 23 16), BitVec.ofNat 8 (bits w 31 24), bit w 32⟩
def LoadDst.unpack (w : Word) : LoadDst :=
  match bits w 1 0 with
  | 1 => .x (Fin.ofNat 64 (bits w 7 2)) (bit w 10)
  | 2 => .v (Fin.ofNat 16 (bits w 5 2)) (bits w 31 16) (bit w 10)
  | _ => .operand

/-- A context with what CONT holds of it (see `contWords`). -/
def Ctx.withCont (c : Ctx) (w : List Word) : Ctx :=
  let g (i : Nat) : Word := w.getD i 0
  let n (k : Nat) : Nat := bits (g 0) (8 * k + 7) (8 * k)
  let l0 := 6
  let g0 := l0 + n 6
  let f0 := g0 + 2 * n 1
  let s0 := f0 + 6 * n 2
  let r0 := s0 + 2 * n 3
  let x0 := r0 + 2 * n 4
  { c with
    blk := Blk.unpack (g 1), kept := Blk.unpack (g 2), replay := if bit (g 0) 0 then some (g 3) else none
    pend := RegSet.unpack c.pend.x (g 4), seq := (g 5).toNat
    loops := c.loops.zipIdx.map (fun (e : Loop × Nat) => { e.1 with blk := Blk.unpack (g (l0 + e.2)) })
    got := (List.range (n 1)).map (fun i => ((g (g0 + 2 * i)).toNat, g (g0 + 2 * i + 1)))
    lfaults := (List.range (n 2)).map (fun i =>
      let b := f0 + 6 * i
      ⟨(g b).toNat / 2, g (b + 1), g (b + 2), bit (g b) 0, LoadDst.unpack (g (b + 3)), RegSet.unpack (g (b + 4)) (g (b + 5))⟩)
    sfaults := (List.range (n 3)).map (fun i => ⟨(g (s0 + 2 * i)).toNat / 2, g (s0 + 2 * i + 1), bit (g (s0 + 2 * i)) 0⟩)
    rfq := (List.range (n 4)).map (fun i => (Fin.ofNat 64 (g (r0 + 2 * i)).toNat, g (r0 + 2 * i + 1)))
    pxch := (List.range (n 5)).map (fun i =>
      let v := g (x0 + i)
      (bits v 3 0, bits v 63 8, Fin.ofNat 16 (bits v 7 4))) }

/-- The barrier arrival that an image keeps (R183). -/
def imgBarrier (img : List Byte) : Option (Nat × BitVec 8) :=
  let w := imgWord img 0xC50
  if bits w 3 0 = 8 then some (bits w 15 8, BitVec.ofNat 8 (bits w 23 16)) else none

/-- A context as its image has it; what only CONT holds is read back by the device's own encoding (log 13), with what its region's
record holds beside. A context that has used IFNC is given nothing that the caches here held before (R99). -/
def contextFrom (img : List Byte) (rest : List Word) (floor cid task region ids : Nat) : Ctx :=
  let h := imgWord img 0
  let c : Ctx := { Ctx.blank with
    cid, task, region, pc := imgWord img 8, npc := imgWord img 8
    level := if bit h 3 then .sup else .user
    tags := imgWord img 0xC40, pend := { x := imgWord img 0xC48 }, barrier := imgBarrier img
    loops := (List.range (bits h 2 0)).map (fun _ => ⟨0, 0, 0, {}⟩) }
  let c := applyImage c floor img
  let cont := contOfImage img ++ rest
  { c.withCont cont with
    ifnc := if bit (cont.getD 0 0) 3 then ids else 0
    vtype := imgWord img 0xB80, gstat := imgWord img 0xBA0, rstat := imgWord img 0xBA8, icount := imgWord img 0xBB0
    plumb := imgWord img 0xBB8, tstat := setBit (imgWord img 0xBC0) 1 (bit h 4), tepc := imgWord img 0xBC8
    tcause := imgWord img 0xBD0, tval := imgWord img 0xBD8, tlpc := imgWord img 0xBE0 }

/-- The task of a restored context: one already made for its stack range, or a new one with the sweep that holds its
claims. -/
def taskFor (s : State) (r : Region) (img : List Byte) : Nat × State :=
  let low := imgWord img 0xC68
  let k := (low - r.stkb).toNat / max r.stksz 1
  match s.tasks.find? (fun t => t.2.region == r.id && t.2.stk == some k) with
  | some t => (t.1, { s with tasks := Tab.set s.tasks t.1 { t.2 with members := t.2.members + 1 } })
  | none =>
    let flags := (contOfImage img).getD 0 0
    let coord := imgWord img 0xC60
    let spawned := bit flags 1
    let (id, s) := s.fresh
    let sweep := if r.tsp = 5 ∨ spawned then none
      else (s.sweeps.find? (fun w => w.2.region == r.id && w.2.elem == idIndex coord && w.2.dispatched)).map (·.1)
    let t : Task := { id, region := r.id, coord, spawned, again := bit flags 2, sweep, stk := some k, start := s.clock
                      members := 1, past := [], killed := false, frames := [], out := [] }
    (id, State.modRegion { s with tasks := Tab.set s.tasks id t } r.id (fun r => { r with stk := k :: r.stk }))

/-- What the region records hold of the contexts of an image beside CONT, for each in order. -/
def restsOf (regs : List PRec) : List PRec → List PRec → List (PRec × List Word)
  | _, [] => []
  | seen, c :: l =>
    let at' := imgWord c.data 0xC58
    let n := (seen.filter (fun q => imgWord q.data 0xC58 == at')).length
    (c, match regs.find? (·.key == at') with
      | some r => r.rest n r.restAt
      | none => []) :: restsOf regs (c :: seen) l

/-- A context of the tree set up as an image of STATE 1 in its region's save area. -/
def restoreContext (m : List (Word × Nat)) (s : State) (e : PRec × List Word) : State :=
  let p := e.1
  match s.region? (regionAt m (imgWord p.data 0xC58)) with
  | none => s
  | some r => match freeImg s r r.nsave 0 with
    | none => s
    | some va =>
      let (task, s) := taskFor s r p.data
      let (cid, s) := s.fresh
      let c := contextFrom p.data e.2 s.plfloor.toNat cid task r.id s.ids
      let name := bits (imgWord p.data 0) 29 16
      let img := imageBytes s c name 1 s.clock
      match writeImg s r.asid va img with
      | none => s
      | some s =>
        let (order, s) := s.fresh
        { s with saved := s.saved ++ [{ asid := r.asid, img := va, state := 1, name, stamp := s.clock, order, image := img, ctx := c }] }

/-! Frames (type 3), claims (type 4) and ranges. -/

/-- An outer frame set up: at the entry its region has opened, or at a free one. -/
def restoreFrame (s : State) (p : PRec) : State :=
  let w := wordsIn p.data (p.data.length / 8)
  let g (i : Nat) : Word := w.getD i 0
  let cl := clusOfIndex p.key.toNat
  let e : FrameEnt := { live := true, kind := (g 0).toNat, core := cl * 16 + (g 1).toNat % 16, base := (g 2).toNat, size := (g 3).toNat
                        count := BitVec.ofNat 18 (g 4).toNat, orel := g 5 != 0, gen := BitVec.ofNat 12 (g 6).toNat }
  let t := (s.ftab cl).toList
  match t.findIdx? (fun f => f.live && f.kind == e.kind && f.base == e.base && (e.kind != 1 || f.core == e.core)) <|>
      t.findIdx? (fun f => !f.live) with
  | none => s
  | some i =>
    let s := s.modEntry cl i (fun _ => e)
    (List.range (e.size / 8)).foldl (fun s k =>
      let key := outerKey cl e k
      setFull (s.store key (toBytes 8 (g (7 + 2 * k)).toNat) .device 0 pkgMark) key (g (8 + 2 * k) != 0)) s

/-- An element id with the NODE of this package in the place of the one that sealed it. -/
def ownId (s : State) (id : Word) : Word := setBits id 63 48 s.node.toNat

/-- A task with its claims set up, as a claim record has it from a word on: its element runs, and it holds here the claims that
the sealing package homed, under this package's NODE (R376 step 3). Where it was not dispatched yet it keeps its stack range
(R258). -/
def holdClaims (s : State) (g : Group) (r : Region) (p : PRec) (at' : Nat) : State :=
  let i := (p.w at').toNat
  let set := (List.range (p.w (at' + 4)).toNat).map (fun k =>
    let id := p.w (at' + 5 + 2 * k)
    let v := p.w (at' + 6 + 2 * k)
    (if bit v 1 then ownId s id else id, bit v 0))
  let (id, s) := s.fresh
  let w : Sweep := { id, die := entryDie g.key i, region := r.id, elem := i, grp := g.key, set, next := set.length, granted := true,
                     dispatched := bit (p.w (at' + 2)) 1, again := bit (p.w (at' + 2)) 0, killed := false, stamp := 0 }
  let s : State := { s with sweeps := Tab.set s.sweeps id w }
  let range := (p.w (at' + 3)).toNat
  let s := if range = 0 then s
    else s.modRegion r.id (fun r => { r with stuck := (w.die, id, range - 1, false) :: r.stuck, stk := (range - 1) :: r.stk })
  let s := set.foldl (fun s m => if idNode m.1 ≠ s.node then s
    else match s.grp? g.key with
      | none => s
      | some g =>
        let e := g.entry (idIndex m.1)
        let e := { e with held := w.req s m :: e.held }
        setEntry s g.key (idIndex m.1) (if m.2 then { e with xh := true } else { e with scnt := e.scnt + 1 })) s
  match s.grp? g.key with
  | none => s
  | some g => setEntry s g.key i { g.entry i with run := true }

/-- The sweeps of a claim record from a word on. -/
def restoreSweeps (m : List (Word × Nat)) (k : GroupKey) (p : PRec) : Nat → Nat → State → State
  | 0, _, s => s
  | fuel + 1, at', s =>
    if p.data.length < 8 * (at' + 5) then s
    else
      let s := match s.grp? k, s.region? (regionAt m (p.w (at' + 1))) with
        | some g, some r => holdClaims s g r p at'
        | _, _ => s
      restoreSweeps m k p fuel (at' + 5 + 2 * (p.w (at' + 4)).toNat) s

/-- The claim entries of a group set up: pending elements in their order, AGAIN, and the claims of running tasks. -/
def restoreClaims (asid : BitVec 16) (m : List (Word × Nat)) (s : State) (p : PRec) : State :=
  let k : GroupKey := ⟨asid, p.key⟩
  let n := (p.w 0).toNat
  let s := (List.range n).foldl (fun s j =>
    match s.grp? k with
    | none => s
    | some g =>
      let b := 1 + 5 * j
      let i := (p.w b).toNat
      let h := p.w (b + 1)
      let e := { g.entry i with again := bit h 61, againRegion := regionAt m (p.w (b + 3)), wasAgain := p.w (b + 4) != 0 }
      if bit h 63 then makePending s k i e (regionAt m (p.w (b + 2))) e.wasAgain else setEntry s k i e) s
  restoreSweeps m k p (p.data.length / 32 + 1) (1 + 5 * n) s

/-- The bytes of memory in a range record, without the tags that an explicit level has behind them. -/
def PRec.size (p : PRec) : Nat :=
  if p.ty = 5 then p.data.length
  else ((List.range (p.data.length + 1)).find? (fun n => n + (n / 8 + 7) / 8 == p.data.length)).getD 0

/-- A declared range written, with its tags in an explicit level. -/
def restoreRange (asid : BitVec 16) (s : State) (p : PRec) : State :=
  let n := p.size
  let s := (putBytes s true asid p.key (p.data.take n)).getD s
  if p.ty = 5 then s
  else (List.range (n / 8)).foldl (fun s i => match rangeKey s true asid (p.key + wd (8 * i)) false with
    | some k => setFull s k (bit ((p.data.drop n).getD (i / 8) 0) (i % 8))
    | none => s) s

/-- Whether a range record's memory is mapped and writable. -/
def rangeMapped (s : State) (asid : BitVec 16) (p : PRec) : Bool :=
  (p.ty != 5 && p.ty != 6) || (List.range p.size).all (fun i => (rangeKey s true asid (p.key + wd i) true).isSome)

/-- Whether every cluster has frame table entries for the outer frames of an image (log 54). -/
def framesFit (s : State) (recs : List PRec) : Bool :=
  (List.range 64).all (fun cl =>
    decide ((recs.filter (fun p => p.ty == 3 && clusOfIndex p.key.toNat == cl)).length ≤ ((s.ftab cl).toList.filter (fun e => !e.live)).length))

/-- The free image slots of a save area. -/
def freeImgs (s : State) (r : Region) : Nat := ((List.range r.nsave).filter (fun k => (imgFree s r.asid (r.saveVa + wd (4096 * k))).isSome)).length

/-- Whether every save area has room for its contexts. -/
def roomFor (s : State) (asid : BitVec 16) (recs : List PRec) : Bool :=
  (recs.filter (·.ty == 1)).all (fun p =>
    decide ((recs.filter (fun c => c.ty == 2 && imgWord c.data 0xC58 == p.key)).length ≤ freeImgs s (regionFrom 0 0 asid p none)))

/-! The command. -/

/-- The check of Table 24.6 that refuses an image, or its payload. -/
def restoreCheck (s : State) (asid : BitVec 16) (img : List Byte) : Nat ⊕ List PRec :=
  let n := numAt img 1 1
  let p := wrapEnd n
  let pl := numAt img 0x80 8
  let lin : BitVec 128 := BitVec.ofNat 128 (numAt img 0x10 16)
  let c := numAt img 0x20 5
  if numAt img 4 4 ≠ 0x5345414C ∨ numAt img 2 2 ≠ 1 ∨ n < 1 ∨ 8 < n ∨ numAt img 8 8 ≠ p + roundUp pl + sigLen ∨
      img.length < p + roundUp pl + sigLen then .inl 20
  else if !(serialOk (BitVec.ofNat 128 (numAt img 0x30 16)) && xmssVerify (identKey (BitVec.ofNat 128 (numAt img 0x30 16)))
      (img.take (p + roundUp pl)) ((img.drop (p + roundUp pl)).take sigLen)) then .inl 21
  else match (List.range n).find? (fun k => BitVec.ofNat 128 (numAt img (0x100 + 0x680 * k) 16) == Config.serial) with
  | none => .inl 22
  | some k =>
    if measOf s asid ≠ some (BitVec.ofNat 512 (numAt img 0x40 64)) then .inl 23
    else match s.lineage.record lin with
    | none => .inl 24
    | some r =>
      if c < r.counter.toNat then .inl 25
      else if r.counter.toNat < c then .inl 26
      else if r.taken = some (BitVec.ofNat 40 c) then .inl 27
      else match openImage img k with
      | none => .inl 28
      | some pay =>
        let recs := parseRecs (pay.length + 1) pay
        if !s.lineage.lslots.toList.any (·.isNone) || !roomFor s asid recs || !framesFit s recs || !recs.all (rangeMapped s asid) then .inl 29
        else .inr recs

/-- The tree of the records set up (R376 steps 3 and 4). -/
def restoreTree (s : State) (asid : BitVec 16) (recs : List PRec) : State :=
  let of (t : Nat) : List PRec := recs.filter (·.ty == t)
  let s := (of 5 ++ of 6).foldl (restoreRange asid) s
  let (m, s) := makeRegions asid (of 1) [] s
  let rs := (m.map (fun e => s.region? e.2)).filterMap id
  let s := (rs.filter (·.live)).reverse.foldl (fun s r =>
    stopScans (openFrames (if r.tsp = 5 then s else openTable s r) r) r.prio) s
  let s := (of 3).foldl restoreFrame s
  let s := (of 4).foldl (restoreClaims asid m) s
  let s := (restsOf (of 1) [] (of 2)).foldl (restoreContext m) s
  rs.foldl (fun s r => checkDone s r.id) s

/-- RESTORE (R376). -/
def execRestore (s : State) : Host.Outcome State Fault Refusal :=
  withCmd 5 (fun a s =>
    let asid := cmdAsid s a
    match bytesAt s false asid (cmdArg s a 0) (cmdArg s a 1).toNat with
    | none => finishCmd s a 1 []
    | some img => match restoreCheck s asid img with
      | .inl n => finishCmd s a n []
      | .inr recs =>
        let lin : BitVec 128 := BitVec.ofNat 128 (numAt img 0x10 16)
        let c : BitVec 40 := BitVec.ofNat 40 (numAt img 0x20 5)
        let meas : BitVec 512 := BitVec.ofNat 512 (numAt img 0x40 64)
        let k := (s.lineage.lslots.toList.findIdx? (·.isNone)).getD 0
        let s : State := { s with lineage := { s.lineage with
          records := s.lineage.records.map (fun (r : LineRec) => if r.id = lin then { r with taken := some c } else r) } }
        let s := setLslot s k (some ⟨lin, asid, meas, c⟩)
        finishCmd (restoreTree s asid recs) a 0 [(0x28, wd c.toNat)]) s

end Sys2Proof.Machine
end

