-- ==== Sys2Proof/Machine/Stipple.lean ====
section
/-! DEFINITION. The Stipple: DCFG and the building of an index (R236, R237), DQRY and the answer to its queries (R238,
R239). -/

namespace Sys2Proof.Machine

/-! DCFG. -/

/-- DCFG (R237). -/
def execDcfg (o : Ops) (s : State) : Host.Outcome State Fault Refusal :=
  runM (do
    let va ← readOpd o.b 0
    if va.toNat % 64 ≠ 0 then trap 0x05 va
    else
      let l ← ownWords va 8
      let w (k : Nat) : Word := l.getD k 0
      let pstr := bits (w 1) 31 0
      if pstr < 12 ∨ pstr % 4 ≠ 0 ∨ (w 2).toNat % 128 ≠ 0 ∨ w 6 ≠ 0 ∨ w 7 ≠ 0 then trap 0x08 va
      else
        let d : IndexDesc := { pts := w 0, count := bits (w 1) 63 32, pstr, idx := w 2, idxsz := w 3 }
        release .none 0 2
        needTag (o.a.num % 64)
        enqueueCopy (o.a.num % 64) (some va) (.index d) .indexBuildComplete
        return .seq) s

/-- The points that an index may hold. -/
def IndexDesc.cap (d : IndexDesc) : Nat := min d.count (2 ^ 20)

/-- The bytes that its area needs (R236). -/
def IndexDesc.need (d : IndexDesc) : Nat := 1048640 + 16 * d.cap

/-- The STATUS of a failed access (Table 11.10). -/
def Miss.indexStatus : Miss → Nat
  | .place => 3
  | .xu => 3
  | .home (.poison _) => 4
  | .home _ => 2

/-- The pieces of `n` bytes from a VA, cut at 64 KiB pages. -/
def pageParts : Nat → Word → Nat → List (Word × Nat)
  | 0, _, _ => []
  | fuel + 1, va, n =>
    if n = 0 then []
    else
      let m := min n (65536 - va.toNat % 65536)
      (va, m) :: pageParts fuel (va + wd m) (n - m)

/-- The keys of an area of ordinary memory, with what the access needs. -/
def areaKeys (asid : BitVec 16) (need : Need) : List (Word × Nat) → State → Except Miss (List (Nat × Nat)) × State
  | [], s => (.ok [], s)
  | (va, n) :: l, s =>
    if !isOrd va then (.error .place, s)
    else if need == .w && heldByXu s asid va n then (.error .xu, s)
    else match resolve s asid (.ord (homeDie va)) va n need with
      | (.error b, s) => (.error (.home b), b.note s)
      | (.ok key, s) => match areaKeys asid need l s with
        | (.error b, s) => (.error b, s)
        | (.ok ks, s) => (.ok ((key, n) :: ks), s)

/-- Bytes of a memory replaced from a key up; the canonical form is kept. -/
def Mem.fill (m : List Host.Cell) (key n : Nat) (f : Nat → Byte) : List Host.Cell :=
  m.filter (fun c => decide (c.1 < key)) ++
    (((List.range n).map (fun i => (key + i, f i))).filter (fun c => c.2 != unlisted)) ++
    m.filter (fun c => decide (key + n ≤ c.1))

/-- An index area filled with what the device alone defines (R236, log 9). -/
def fillArea (s : State) (ks : List (Nat × Nat)) : State :=
  let free (key i : Nat) : Byte := BitVec.ofNat 8 ((Config.freeWord s.tick (key + i)).toNat)
  { s with
    mem := ks.foldl (fun m k => Mem.fill m k.1 k.2 (free k.1)) s.mem, tick := s.tick + 1
    poison := s.poison.filter (fun g => !ks.any (fun k => decide (k.1 ≤ 8 * g) && decide (8 * g + 8 ≤ k.1 + k.2))) }

/-- The points of an input in order: those kept with their numbers, and how many are dropped for a NaN. -/
def readPoints (v : Mover) (d : IndexDesc) : List Nat → State →
    Except Miss (List (BitVec 32 × BitVec 32 × BitVec 32 × Nat) × Nat) × State
  | [], s => (.ok ([], 0), s)
  | i :: l, s => match readBurst v 13 (d.pts + wd (i * d.pstr)) 12 [] s with
    | (_, some b, s) => (.error b.1, s)
    | (bs, none, s) => match readPoints v d l s with
      | (.error b, s) => (.error b, s)
      | (.ok (ps, nan), s) =>
        let c (k : Nat) : Nat := ofBytes ((bs.drop (4 * k)).take 4)
        if (List.range 3).any (fun k => (f32.decode (c k)).isNan) then (.ok (ps, nan + 1), s)
        else (.ok ((BitVec.ofNat 32 (c 0), BitVec.ofNat 32 (c 1), BitVec.ofNat 32 (c 2), i) :: ps, nan), s)

/-- A DCFG leaves its queue with its STATUS and, where a word could not be written, that word's VA. -/
def finishIndex (s : State) (k : Copy) (status : Nat) (bad : Option Word) : State :=
  let s := { s with copies := s.copies.filter (·.id != k.id) }
  let s := match bad with
    | some va => engineRecord s k.region k.cid 8 (wd (k.tag + status * 2 ^ 16 + 2 ^ 32)) va
    | none => s
  completeTag s k.cid k.tag k.id (bad.isSome || status != 1)

/-- Bytes of an index descriptor written by the device, and whether they could be. -/
def putDesc (s : State) (k : Copy) (va : Word) (bs : List Byte) : Bool × State :=
  let r := (s.region? k.region).getD Region.blank
  let word := wd (va.toNat / 8 * 8)
  let s := touchOwn s r k.core word
  match ownKey s r k.core word with
  | none => (false, s)
  | some key => match badStore s (key + va.toNat % 8) bs.length with
    | some g => (false, noteBad s g)
    | none => (true, s.store (key + va.toNat % 8) bs (.engine k.id) k.seq none)

/-- STATUS of an index descriptor written by the device: two bytes (Table 11.10). -/
def putStatus (s : State) (k : Copy) (desc : Word) (status : Nat) : Bool × State :=
  putDesc s k (desc + 0x2E) (toBytes 2 status)

/-- The key of a descriptor: an index is found by the place of its descriptor, under whichever name. -/
def descKey (s : State) (r : Region) (core : Nat) (desc : Word) : Option Nat :=
  match place r core desc 8 with
  | none => none
  | some (.arr k) => some k
  | some (.ord die) => match (translate s die r.asid desc).1 with
    | .ok pa _ _ => some (ordKey die pa)
    | _ => none

/-- The indexes but the one at a descriptor. -/
def otherIndexes (s : State) (k : Copy) (desc : Word) : List Index :=
  match descKey s ((s.region? k.region).getD Region.blank) k.core desc with
  | some p => s.indexes.filter (·.place != p)
  | none => s.indexes

/-- An index put at a descriptor, in the place of the one there. -/
def putIndex (s : State) (k : Copy) (desc : Word) (area : List (Nat × Nat)) (ok : Bool)
    (points : List (BitVec 32 × BitVec 32 × BitVec 32 × Nat)) : State :=
  match descKey s ((s.region? k.region).getD Region.blank) k.core desc with
  | some place => { s with indexes := { id := k.id, place, area, ok, points } :: otherIndexes s k desc }
  | none => s

/-- An index without a definite content at a descriptor. -/
def spoilIndex (s : State) (k : Copy) (desc : Word) : State := putIndex s k desc [] false []

/-- The build of an index once STATUS is 0 (R237 steps 2 and 3). -/
def buildIndex (s : State) (k : Copy) (desc : Word) (d : IndexDesc) : State :=
  let r := (s.region? k.region).getD Region.blank
  let v : Mover := { agent := .engine k.id, own := none, asid := k.asid, place := place r k.core }
  let s := acquireMark s v.agent 2 (seat k.clus)
  let fail (s : State) (status : Nat) : State :=
    match putStatus s k desc status with
    | (true, s) => finishIndex s k status none
    | (false, s) => finishIndex (spoilIndex s k desc) k status (some (desc + 0x28))
  if d.idxsz.toNat < d.need then fail s 5
  else match readPoints v d (List.range d.cap) s with
    | (.error b, s) => fail s b.indexStatus
    | (.ok (ps, nan), s) => match areaKeys k.asid .w (pageParts (d.need / 65536 + 2) d.idx d.need) s with
      | (.error b, s) => fail s b.indexStatus
      | (.ok ks, s) =>
        let s := fillArea s ks
        match putDesc s k (desc + 0x20) (toBytes 8 ((d.count - d.cap) * 2 ^ 32 + ps.length)) with
        | (false, s) => finishIndex (spoilIndex s k desc) k 1 (some (desc + 0x20))
        | (true, s) => match putDesc s k (desc + 0x28) (toBytes 8 (2 ^ 48 + nan)) with
          | (false, s) => finishIndex (spoilIndex s k desc) k 1 (some (desc + 0x28))
          | (true, s) => finishIndex (putIndex s k desc ks true ps) k 1 none

/-- Whether the build of an index waits: for engines that own lines of its points, and for its descriptor and area, which it
writes (R79, R81). -/
def buildWaits (s : State) (k : Copy) (desc : Word) (d : IndexDesc) : Bool :=
  heldUp s k.id k.asid (desc + 0x20) 16 ||
    (decide (0 < k.pos) && ((List.range d.cap).any (fun i => engineRecalled s s.ids k.asid (d.pts + wd (i * d.pstr)) 12) ||
      engineRecalled s k.id k.asid d.idx d.need || (pageParts (d.need / 65536 + 2) d.idx d.need).any (fun p =>
        match devKey s k.asid p.1 true with
        | some key => pinned s key p.2
        | none => false)))

/-- INDEX_BUILD_COMPLETE (R237): STATUS becomes 0, then the index is built. -/
def execIndexBuildComplete (id : Nat) (s : State) : Host.Outcome State Fault Refusal :=
  .next (match s.copies.find? (·.id == id) with
    | none => s
    | some k => match k.kind, k.desc with
      | .index d, some desc =>
        if (k.pos = 0 ∧ s.halted (k.clus / 16)) ∨ buildWaits s k desc d then s.due (.indexBuildComplete id)
        else if k.pos = 0 then
          match putStatus s k desc 0 with
          | (false, s) => finishIndex (spoilIndex s k desc) k 0 (some (desc + 0x28))
          | (true, s) => State.due { s with
              copies := s.copies.map (fun e => if e.id = id then { e with pos := 1 } else e)
              indexes := otherIndexes s k desc } (.indexBuildComplete id)
        else buildIndex s k desc d
      | _, _ => s)

/-! DQRY. -/

/-- Whether the parameter word of a query is bad (R238). -/
def badParam (p : Word) : Bool :=
  bits p 63 41 != 0 || bit p 39 || bits p 38 32 == 0 || decide (64 < bits p 38 32) ||
    (!bit p 40 && match f32.decode (bits p 31 0) with
      | .nan => true
      | v => v.isNeg && f32.abs (bits p 31 0) != 0)

/-- The registers that come back from a query (R239). -/
def Ctx.queryDone (c : Ctx) (v3 v4 : VWord) : Ctx :=
  let c := (c.putV 3 v3).putV 4 v4
  { c with query := none }

/-- DQRY (R238): v0 to v4 are handed over and the thread leaves the rotation. -/
def execDqry (o : Ops) (s : State) : Host.Outcome State Fault Refusal :=
  runM (do
    let buf ← readOpd o.a 1
    let desc ← readOpd o.b 0
    let param ← readX o.cx
    let k ← vcfg
    if k.et ≠ 10 then undefinedHere
    else if buf.toNat % 256 ≠ 0 then trap 0x05 buf
    else if desc.toNat % 64 ≠ 0 then trap 0x05 desc
    else if badParam param then trap 0x08 param
    else
      for i in [64, 65, 66, 67, 68] do
        needFull i
        needDst i
      release .none 0 2
      if k.vl = 0 then
        modC (fun c => (c.putV 3 0).putV 4 0)
        return .seq
      else
        modify (fun s =>
          let (id, s) := s.fresh
          let at' := descKey s (s.regionOf s.ctx) s.myCore desc
          let q : Query := { id, buf, desc, param, vl := k.vl, core := s.myCore, place := at'
                             index := (at'.bind (fun p => s.indexes.find? (·.place == p))).map (·.id) }
          (s.mod (fun c => { c with query := some q, stage := 1 })).due (.stippleQueryReturn s.ctx.cid))
        throw .away) s

/-- The candidates of a query (R239) as (d2, index) in order. -/
def candidates (pts : List (BitVec 32 × BitVec 32 × BitVec 32 × Nat)) (all : Bool) (r2 qx qy qz : Nat) : List (Nat × Nat) :=
  let l := pts.filterMap (fun p =>
    let dx := f32.sub 0 p.1.toNat qx
    let dy := f32.sub 0 p.2.1.toNat qy
    let dz := f32.sub 0 p.2.2.1.toNat qz
    let d2 := f32.add 0 (f32.add 0 (f32.mul 0 dx dx) (f32.mul 0 dy dy)) (f32.mul 0 dz dz)
    if (f32.decode d2).isNan then none else if all || f32.le d2 r2 then some (d2, p.2.2.2) else none)
  sortBy (fun a b => decide (a.1 < b.1) || (a.1 == b.1 && decide (a.2 ≤ b.2))) l

/-- The indices written and the number dropped (R239). -/
def answer (pts : List (BitVec 32 × BitVec 32 × BitVec 32 × Nat)) (param : Word) (qx qy qz : Nat) : List Nat × Nat :=
  if (f32.decode qx).isNan || (f32.decode qy).isNan || (f32.decode qz).isNan then ([], 0)
  else
    let all := bit param 40
    let r := bits param 31 0
    let c := candidates pts all (f32.mul 0 r r) qx qy qz
    let n := min (bits param 38 32) c.length
    let rest := c.drop n
    ((c.take n).map (·.2),
      if !all then rest.length
      else match (c.take n).getLast? with
        | some e => (rest.filter (·.1 == e.1)).length
        | none => 0)

/-- The answer of an undefined index: any count up to the cap, any indices (R237, log 9). -/
def anyAnswer (tick q : Nat) (param : Word) : List Nat × Nat :=
  let n := (Config.freeWord tick (256 * q)).toNat % (bits param 38 32 + 1)
  ((List.range n).map (fun j => (Config.freeWord tick (256 * q + j + 2)).toNat % 2 ^ 32),
    (Config.freeWord tick (256 * q + 1)).toNat % 2 ^ 32)

/-- The results of queries written to their slots: none where a pinned line holds one up, or why one fails. -/
def writeAnswers (v : Mover) (buf : Word) : List (Nat × List Nat) → State → Option (Option Miss × State)
  | [], s => some (none, s)
  | (q, l) :: rest, s =>
    let bs := l.flatMap (fun i => toBytes 4 i)
    match writeBurst v 0 (bs.length + 1) (buf + wd (256 * q)) bs 0 s with
    | none => none
    | some (_, some b, s) => some (some b.1, s)
    | some (_, none, s) => writeAnswers v buf rest s

/-- The code of v4 for a failed access (R239). -/
def Miss.queryCode (m : Miss) : Nat := m.indexStatus

/-- The code of v4 for the STATUS of a descriptor; 0 where the index is built. -/
def statusCode (st : Nat) : Nat := if st = 1 then 0 else if 2 ≤ st ∧ st ≤ 5 then st else 1

/-- The bytes of an index area. -/
def areaLen (x : Option Index) : Nat := ((x.map (fun x => (x.area.map (·.2)).sum)).getD 65536)

/-- Whether a query waits for an engine that owns a line of its descriptor, its index area or its buffer (R79, R96). -/
def queryWaits (s : State) (v : Mover) (q : Query) (x : Option Index) : Bool :=
  let idx := wd (ofBytes ((readBurst v 9 (q.desc + 0x10) 8 [] s).1))
  engineRecalled s s.ids v.asid q.buf (256 * q.vl) || engineRecalled s s.ids v.asid q.desc 64 ||
    engineRecalled s s.ids v.asid idx (areaLen x)

/-- Why a query cannot be answered, from its descriptor and index area; 0 where it can. -/
def queryCheck (v : Mover) (q : Query) (x : Option Index) (s : State) : Nat × State :=
  match readBurst v 9 (q.desc + 0x28) 8 [] s with
  | (_, some b, s) => (b.1.queryCode, s)
  | (bs, none, s) =>
    let code := statusCode (bits (wd (ofBytes bs)) 63 48)
    if code ≠ 0 then (code, s)
    else match x.bind (fun x => x.area.findSome? (fun p => badGran s p.1 p.2)) with
    | some g => (4, noteBad s g)
    | none => match readBurst v 17 (q.desc + 0x10) 16 [] s with
      | (_, some b, s) => (b.1.queryCode, s)
      | (bs, none, s) =>
        let idx := wd (ofBytes (bs.take 8))
        let n := areaLen x
        match areaKeys v.asid .r (pageParts (n / 65536 + 2) idx n) s with
        | (.error b, s) => (b.queryCode, s)
        | (.ok _, s) => (0, s)

/-- A query that met an error: the slots of its buffer may hold any values (R239, log 9). -/
def spoilBuffer (v : Mover) (q : Query) (s : State) : State :=
  let s1 := { s with tick := s.tick + 1 }
  (List.range q.vl).foldl (fun s j =>
    match writeBurst v 0 257 (q.buf + wd (256 * j))
        ((List.range 256).map (fun i => BitVec.ofNat 8 (Config.freeWord (s1.tick - 1) (256 * j + i)).toNat)) 0 s with
    | some (_, _, s) => s
    | none => s) s1

/-- STIPPLE_QUERY_RETURN (R96, R239, Table 2.9): the queries are answered and the registers return, into the slot or the
saved image. -/
def execStippleQueryReturn (cid : Nat) (s : State) : Host.Outcome State Fault Refusal :=
  .next (match s.findCtx cid with
    | none => s
    | some c => match c.query with
      | none => s
      | some q =>
        let r := s.regionOf c
        let v : Mover := { agent := .engine q.id, own := none, asid := r.asid, place := place r q.core }
        let x := q.place.bind (fun p => s.indexes.find? (·.place == p))
        if s.halted (q.core / 256) || queryWaits s v q x then
          s.due (.stippleQueryReturn cid)
        else
          let s1 := acquireMark s v.agent 2 (seat (q.core / 16))
          let (code, s1) := queryCheck v q x s1
          let sure := match x with
            | some x => x.ok && (q.index.isNone || q.index == some x.id)
            | none => false
          let e (k : Fin 16) (i : Nat) : Nat := elemOf 32 (c.getV k) i
          let ans := (List.range q.vl).map (fun i => match x with
            | some x => if sure then answer x.points q.param (e 0 i) (e 1 i) (e 2 i) else anyAnswer s.tick i q.param
            | none => anyAnswer s.tick i q.param)
          let bad (s : State) (code : Nat) : State :=
            let s := observe (spoilBuffer v q s) (.thread cid) v.agent
            let s := engineRecord s c.region cid 10 (wd code) 0
            finishCtx s cid (·.queryDone (BitVec.allOnes 1024) (ofElems 32 (List.replicate 32 code)))
          if code ≠ 0 then bad s1 code
          else match writeAnswers v q.buf ((List.range q.vl).zip (ans.map (·.1))) { s1 with tick := s1.tick + 1 } with
            | none => s.due (.stippleQueryReturn cid)
            | some (some b, s2) => bad s2 b.queryCode
            | some (none, s2) =>
              let pad (l : List Nat) : VWord := ofElems 32 l
              finishCtx (observe s2 (.thread cid) v.agent) cid
                (·.queryDone (pad (ans.map (·.1.length))) (pad (ans.map (·.2)))))

end Sys2Proof.Machine
end

