-- ==== Sys2Proof/Machine/VectorMem.lean ====
section
/-! DEFINITION. Vector loads and stores: whole-register (R203), strided and indexed (R211), and lane slices (R212). -/

namespace Sys2Proof.Machine

/-- An element of a vector access: its number, address and place. -/
structure VElem where
  i : Nat
  va : Word
  p : Place
  deriving DecidableEq, Repr

/-- The fate of an access to several homes (R34): that of its first element homed on another die. R34 sorts accesses by their
home and R203 and R211 do not say which element's home decides (DESIGN CHOICE, log 112). -/
def fateAll (l : List VElem) : M Unit := do
  let s ← get
  match l.find? (fun e => match e.p with
    | .ord d => d != s.myDie
    | .arr _ => false) with
  | some e => fate e.va e.p
  | none => pure ()

/-- What a vector load reads (R295): its base, the registers and masks of a list, and VTYPE. -/
def vInputs (o : Ops) (l : List Nat) : RegSet := { (addrRegs o false).add l with vtype := true }

/-- The number of the mask that Q names. -/
def maskReg (q : BitVec 4) : Nat := 80 + bits q 2 0

/-- A vector load: at once from the issuing core's scratchpad (R65), else pending. Elements that are not loaded
keep their value or become 0. -/
def loadV (k : VCfg) (m : VMask) (l : List VElem) (a : Fin 16) (inputs : RegSet) : M Unit := do
  let n := k.w / 8
  needDst (64 + a.val)
  if !m.zero && l.length != k.n && (← ctx).replay.isNone then needFull (64 + a.val)
  let s ← get
  let c := s.ctx
  let free := l.all (fun e => let loc := locOf e.va e.p.key
    !c.storesBefore (c.seq + 1) loc n && !c.loadsBefore (c.seq + 1) loc n && !c.strongBefore (c.seq + 1) loc n)
  let fill (vals : List (Nat × Nat)) : M Unit := modC (fun c => c.putV a (ofElems k.w ((List.range k.n).map (fun i =>
    match vals.find? (·.1 == i) with
    | some e => e.2
    | none => if m.zero then 0 else elemOf k.w (c.getV a) i))))
  if l.isEmpty then fill []
  else if atCore s.myCore (l.map (·.p.key)) && free then
    match l.find? (fun e => poisoned s (e.p.key.getD 0) n) with
    | some e =>
      modify (fun s => noteBad s ((badGran s (e.p.key.getD 0) n).getD 0))
      trap 0x0D e.va
    | none =>
      let (vals, s) := l.foldl (fun (acc : List (Nat × Nat) × State) e =>
        let (v, s) := weakRead acc.2 (.thread c.cid) (e.p.key.getD 0) n
        (acc.1 ++ [(e.i, v)], s)) ([], s)
      set s
      fill vals
  else sendLoad n (l.map (fun e => (e.i, e.va, e.p.key))) (.v a k.w m.zero) inputs

/-- A vector store of the elements given, in ascending order. -/
def storeV (k : VCfg) (l : List VElem) (v : VWord) : M Unit := do
  for e in l do checkXu e.va (k.w / 8)
  fateAll l
  sendStore (l.map (fun e => (e.va, e.p.key, toBytes (k.w / 8) (elemOf k.w v e.i))))

/-! VLD and VST. -/

/-- The elements 0 to VL - 1 at consecutive addresses, after the checks of R203. The value of a check that fails is the VA of
element 0, whichever byte fails: R62 does not say which address a check of several bytes reports (DESIGN CHOICE, log 44). -/
def rowElems (k : VCfg) (va : Word) : M (List VElem) := do
  let n := k.w / 8
  if k.vl = 0 then return []
  else if va.toNat % n ≠ 0 then trap 0x05 va
  else
    let s ← get
    match place (s.regionOf s.ctx) s.myCore va (k.vl * n) with
    | none => trap 0x08 va
    | some p => return (List.range k.vl).map (fun i =>
        let va := va + wd (i * n)
        ⟨i, va, match p with
          | .arr key => .arr (key + i * n)
          | .ord _ => .ord (homeDie va)⟩)

/-- VLD (R203). -/
def execVld (o : Ops) (s : State) : Host.Outcome State Fault Refusal :=
  runM (do
    let k ← vcfg
    let va ← effAddr o false
    let l ← rowElems k va
    fateAll l
    loadV k pageMask l o.a.v (vInputs o [])
    return .seq) s

/-- VST (R203). -/
def execVst (o : Ops) (s : State) : Host.Outcome State Fault Refusal :=
  runM (do
    let k ← vcfg
    let va ← effAddr o false
    let v ← readV o.a.v
    storeV k (← rowElems k va) v
    return .seq) s

/-! Strided and indexed accesses. -/

/-- The active elements with their addresses, after the two tests of R211. -/
def spreadElems (k : VCfg) (m : VMask) (addr : Nat → Word) : M (List VElem) := do
  let n := k.w / 8
  let act := (List.range k.n).filter (activeAt k.vl m.m)
  match act.find? (fun i => (addr i).toNat % n != 0) with
  | some i => trap 0x05 (addr i)
  | none =>
    let s ← get
    let at' (i : Nat) : Option Place := place (s.regionOf s.ctx) s.myCore (addr i) n
    match act.find? (fun i => (at' i).isNone) with
    | some i => trap 0x08 (addr i)
    | none => return act.filterMap (fun i => (at' i).map (fun p => ⟨i, addr i, p⟩))

/-- addr(i) of VLDS and VSTS. -/
def strided (o : Ops) : M (Nat → Word) := do
  let b ← readOpd o.b 0
  let c ← readX o.cx
  return fun i => b + BitVec.ofInt 64 o.imm + BitVec.ofInt 64 (i * c.toInt)

/-- addr(i) of VGATH and VSCAT. A VGATH that ERET.R issues again reads its index register as it stands where that is its own
destination, which the fault left empty (R297): `own` says so. -/
def indexed (k : VCfg) (o : Ops) (own : Bool := false) : M (Nat → Word) := do
  let b ← readOpd o.b 0
  let x ← ctx
  let c ← if own && x.replay.isSome then pure (x.getV o.cv) else readV o.cv
  return fun i => b + BitVec.ofInt 64 o.imm + BitVec.ofInt 64 (sext k.w (elemOf k.w c i) * (k.w / 8))

/-- VLDS (R211). -/
def execVlds (o : Ops) (s : State) : Host.Outcome State Fault Refusal :=
  runM (do
    let k ← vcfg
    let m ← qMask o.q
    let l ← spreadElems k m (← strided o)
    fateAll l
    loadV k m l o.a.v (vInputs o [maskReg o.q, o.cx.val])
    return .seq) s

/-- VSTS (R211). -/
def execVsts (o : Ops) (s : State) : Host.Outcome State Fault Refusal :=
  runM (do
    let k ← vcfg
    let m ← qMask o.q
    let f ← strided o
    let v ← readV o.a.v
    storeV k (← spreadElems k m f) v
    return .seq) s

/-- VGATH (R211). -/
def execVgath (o : Ops) (s : State) : Host.Outcome State Fault Refusal :=
  runM (do
    let k ← vcfg
    let m ← qMask o.q
    let l ← spreadElems k m (← indexed k o (o.cv == o.a.v))
    fateAll l
    loadV k m l o.a.v (vInputs o [maskReg o.q, 64 + o.cv.val])
    return .seq) s

/-- VSCAT (R211). -/
def execVscat (o : Ops) (s : State) : Host.Outcome State Fault Refusal :=
  runM (do
    let k ← vcfg
    let m ← qMask o.q
    let f ← indexed k o
    let v ← readV o.a.v
    storeV k (← spreadElems k m f) v
    return .seq) s

/-! Lane slices. -/

/-- The active lanes with their keys and the value TVAL would hold, after the checks of R212 on the lowest lane that
fails one. -/
def laneElems (k : VCfg) (m : VMask) (o : Ops) : M (List (Nat × Nat × Word)) := do
  let b ← readOpd o.b 0
  let c ← readV o.cv
  let s ← get
  let al := (s.regionOf s.ctx).alloc 1
  let off (i : Nat) : Word := b + BitVec.ofInt 64 o.imm + wd (elemOf 64 c i)
  let act := (List.range 16).filter (fun i => m.m.getLsbD i && decide (i * (64 / k.w) < k.vl))
  let tval (i : Nat) : Word := wd (4096 * i + (off i).toNat % 4096)
  let outside (i : Nat) : Bool := decide (4088 < (off i).toNat) || !inAlloc al (off i).toNat 8
  match act.find? (fun i => (off i).toNat % 8 != 0 || outside i) with
  | some i => trap (if (off i).toNat % 8 = 0 then 0x08 else 0x05) (tval i)
  | none => return act.map (fun i => (i, laneKey s.myCore i (off i).toNat, tval i))

/-- A lane that holds uncorrectable data, by the value TVAL would hold and the granule that `bad` gives for its key. -/
def badLane (l : List (Nat × Nat × Word)) (bad : Nat → Option Nat) : M Unit :=
  match l.findSome? (fun e => (bad e.2.1).map (fun g => (e.2.2, g))) with
  | some (tval, g) => do
    modify (fun s => noteBad s g)
    trap 0x0D tval
  | none => pure ()

/-- VLDL (R65, R212). -/
def execVldl (o : Ops) (s : State) : Host.Outcome State Fault Refusal :=
  runM (do
    let k ← vcfg
    let m ← qMask o.q
    let l ← laneElems k m o
    needDst (64 + o.a.v.val)
    if !m.zero && l.length != 16 && (← ctx).replay.isNone then needFull (64 + o.a.v.val)
    let s ← get
    badLane l (fun key => badGran s key 8)
    let (vals, s) := l.foldl (fun (acc : List (Nat × Nat) × State) e =>
      let (v, s) := weakRead acc.2 (.thread s.ctx.cid) e.2.1 8
      (acc.1 ++ [(e.1, v)], s)) ([], s)
    set s
    modC (fun c => c.putV o.a.v (ofElems 64 ((List.range 16).map (fun i => match vals.find? (·.1 == i) with
      | some e => e.2
      | none => if m.zero then 0 else elemOf 64 (c.getV o.a.v) i))))
    return .seq) s

/-- VSTL (R65, R212). -/
def execVstl (o : Ops) (s : State) : Host.Outcome State Fault Refusal :=
  runM (do
    let k ← vcfg
    let m ← qMask o.q
    let v ← readV o.a.v
    let l ← laneElems k m o
    let s ← get
    badLane l (fun key => badStore s key 8)
    set (l.foldl (fun s e => s.store e.2.1 (toBytes 8 (elemOf 64 v e.1)) (.thread s.ctx.cid) s.ctx.seq none) s)
    return .seq) s

end Sys2Proof.Machine
end

