-- ==== Sys2Proof/Machine/Dispatch.lean ====
section
/-! DEFINITION. The one match that gives every instruction its meaning. -/

namespace Sys2Proof.Machine

open Sys2Proof

def exec (i : Instr) (s : State) : Host.Outcome State Fault Refusal :=
  match i with
  | .mov o => Sys2Proof.Machine.execMov o s
  | .add o => Sys2Proof.Machine.execAdd o s
  | .sub o => Sys2Proof.Machine.execSub o s
  | .and o => Sys2Proof.Machine.execAnd o s
  | .or o => Sys2Proof.Machine.execOr o s
  | .xor o => Sys2Proof.Machine.execXor o s
  | .andn o => Sys2Proof.Machine.execAndn o s
  | .shl o => Sys2Proof.Machine.execShl o s
  | .shr o => Sys2Proof.Machine.execShr o s
  | .sha o => Sys2Proof.Machine.execSha o s
  | .rol o => Sys2Proof.Machine.execRol o s
  | .slt o => Sys2Proof.Machine.execSlt o s
  | .sltu o => Sys2Proof.Machine.execSltu o s
  | .seq o => Sys2Proof.Machine.execSeq o s
  | .min o => Sys2Proof.Machine.execMin o s
  | .max o => Sys2Proof.Machine.execMax o s
  | .addi o => Sys2Proof.Machine.execAddi o s
  | .movi o => Sys2Proof.Machine.execMovi o s
  | .ld o => Sys2Proof.Machine.execLd o s
  | .st o => Sys2Proof.Machine.execSt o s
  | .beqz o => Sys2Proof.Machine.execBeqz o s
  | .bnez o => Sys2Proof.Machine.execBnez o s
  | .br o => Sys2Proof.Machine.execBr o s
  | .call o => Sys2Proof.Machine.execCall o s
  | .mul o => Sys2Proof.Machine.execMul o s
  | .mulh o => Sys2Proof.Machine.execMulh o s
  | .mulhu o => Sys2Proof.Machine.execMulhu o s
  | .div o => Sys2Proof.Machine.execDiv o s
  | .divu o => Sys2Proof.Machine.execDivu o s
  | .rem o => Sys2Proof.Machine.execRem o s
  | .remu o => Sys2Proof.Machine.execRemu o s
  | .minu o => Sys2Proof.Machine.execMinu o s
  | .maxu o => Sys2Proof.Machine.execMaxu o s
  | .clz o => Sys2Proof.Machine.execClz o s
  | .ctz o => Sys2Proof.Machine.execCtz o s
  | .popc o => Sys2Proof.Machine.execPopc o s
  | .abs o => Sys2Proof.Machine.execAbs o s
  | .neg o => Sys2Proof.Machine.execNeg o s
  | .bfx o => Sys2Proof.Machine.execBfx o s
  | .bfi o => Sys2Proof.Machine.execBfi o s
  | .vmov o => Sys2Proof.Machine.execVmov o s
  | .vadd o => Sys2Proof.Machine.execVadd o s
  | .vsub o => Sys2Proof.Machine.execVsub o s
  | .vmul o => Sys2Proof.Machine.execVmul o s
  | .vfma o => Sys2Proof.Machine.execVfma o s
  | .vmin o => Sys2Proof.Machine.execVmin o s
  | .vmax o => Sys2Proof.Machine.execVmax o s
  | .vand o => Sys2Proof.Machine.execVand o s
  | .vor o => Sys2Proof.Machine.execVor o s
  | .vxor o => Sys2Proof.Machine.execVxor o s
  | .vshl o => Sys2Proof.Machine.execVshl o s
  | .vshr o => Sys2Proof.Machine.execVshr o s
  | .vsha o => Sys2Proof.Machine.execVsha o s
  | .vbcst o => Sys2Proof.Machine.execVbcst o s
  | .vneg o => Sys2Proof.Machine.execVneg o s
  | .vabs o => Sys2Proof.Machine.execVabs o s
  | .vld o => Sys2Proof.Machine.execVld o s
  | .vst o => Sys2Proof.Machine.execVst o s
  | .nop o => Sys2Proof.Machine.execNop o s
  | .tend o => Sys2Proof.Machine.execTend o s
  | .yield o => Sys2Proof.Machine.execYield o s
  | .ret o => Sys2Proof.Machine.execRet o s
  | .jmpr o => Sys2Proof.Machine.execJmpr o s
  | .callr o => Sys2Proof.Machine.execCallr o s
  | .loopx o => Sys2Proof.Machine.execLoopx o s
  | .phase o => Sys2Proof.Machine.execPhase o s
  | .fence o => Sys2Proof.Machine.execFence o s
  | .bar o => Sys2Proof.Machine.execBar o s
  | .waitany o => Sys2Proof.Machine.execWaitany o s
  | .waitall o => Sys2Proof.Machine.execWaitall o s
  | .ffr o => Sys2Proof.Machine.execFfr o s
  | .trap o => Sys2Proof.Machine.execTrap o s
  | .tclr o => Sys2Proof.Machine.execTclr o s
  | .ifnc o => Sys2Proof.Machine.execIfnc o s
  | .bsig sig => Sys2Proof.Machine.execBsig sig s
  | .pool len => Sys2Proof.Machine.execPool len s
  | .ldb o => Sys2Proof.Machine.execLdb o s
  | .ldbu o => Sys2Proof.Machine.execLdbu o s
  | .ldh o => Sys2Proof.Machine.execLdh o s
  | .ldhu o => Sys2Proof.Machine.execLdhu o s
  | .ldw o => Sys2Proof.Machine.execLdw o s
  | .ldwu o => Sys2Proof.Machine.execLdwu o s
  | .ldd o => Sys2Proof.Machine.execLdd o s
  | .stb o => Sys2Proof.Machine.execStb o s
  | .sth o => Sys2Proof.Machine.execSth o s
  | .stw o => Sys2Proof.Machine.execStw o s
  | .std o => Sys2Proof.Machine.execStd o s
  | .lds o => Sys2Proof.Machine.execLds o s
  | .sts o => Sys2Proof.Machine.execSts o s
  | .lea o => Sys2Proof.Machine.execLea o s
  | .pf o => Sys2Proof.Machine.execPf o s
  | .ldp o => Sys2Proof.Machine.execLdp o s
  | .ldf o => Sys2Proof.Machine.execLdf o s
  | .ldfc o => Sys2Proof.Machine.execLdfc o s
  | .stf o => Sys2Proof.Machine.execStf o s
  | .sto o => Sys2Proof.Machine.execSto o s
  | .sete o => Sys2Proof.Machine.execSete o s
  | .tstf o => Sys2Proof.Machine.execTstf o s
  | .amoadd o => Sys2Proof.Machine.execAmoadd o s
  | .amoand o => Sys2Proof.Machine.execAmoand o s
  | .amoor o => Sys2Proof.Machine.execAmoor o s
  | .amoxor o => Sys2Proof.Machine.execAmoxor o s
  | .amomin o => Sys2Proof.Machine.execAmomin o s
  | .amomax o => Sys2Proof.Machine.execAmomax o s
  | .amominu o => Sys2Proof.Machine.execAmominu o s
  | .amomaxu o => Sys2Proof.Machine.execAmomaxu o s
  | .amoswp o => Sys2Proof.Machine.execAmoswp o s
  | .amocas o => Sys2Proof.Machine.execAmocas o s
  | .amofadd o => Sys2Proof.Machine.execAmofadd o s
  | .amoinc o => Sys2Proof.Machine.execAmoinc o s
  | .amodec o => Sys2Proof.Machine.execAmodec o s
  | .vdiv o => Sys2Proof.Machine.execVdiv o s
  | .vsqrt o => Sys2Proof.Machine.execVsqrt o s
  | .vminu o => Sys2Proof.Machine.execVminu o s
  | .vmaxu o => Sys2Proof.Machine.execVmaxu o s
  | .vfms o => Sys2Proof.Machine.execVfms o s
  | .vfnma o => Sys2Proof.Machine.execVfnma o s
  | .vcvt o => Sys2Proof.Machine.execVcvt o s
  | .vsel o => Sys2Proof.Machine.execVsel o s
  | .vcmp fn o => Sys2Proof.Machine.execVcmp fn o s
  | .vred fn o => Sys2Proof.Machine.execVred fn o s
  | .vscan fn o => Sys2Proof.Machine.execVscan fn o s
  | .vperm o => Sys2Proof.Machine.execVperm o s
  | .vslup o => Sys2Proof.Machine.execVslup o s
  | .vsldn o => Sys2Proof.Machine.execVsldn o s
  | .vcomp o => Sys2Proof.Machine.execVcomp o s
  | .viota o => Sys2Proof.Machine.execViota o s
  | .vgetl o => Sys2Proof.Machine.execVgetl o s
  | .vsetl o => Sys2Proof.Machine.execVsetl o s
  | .vlds o => Sys2Proof.Machine.execVlds o s
  | .vsts o => Sys2Proof.Machine.execVsts o s
  | .vgath o => Sys2Proof.Machine.execVgath o s
  | .vscat o => Sys2Proof.Machine.execVscat o s
  | .vldl o => Sys2Proof.Machine.execVldl o s
  | .vstl o => Sys2Proof.Machine.execVstl o s
  | .mand o => Sys2Proof.Machine.execMand o s
  | .mor o => Sys2Proof.Machine.execMor o s
  | .mxor o => Sys2Proof.Machine.execMxor o s
  | .mnot o => Sys2Proof.Machine.execMnot o s
  | .mpop o => Sys2Proof.Machine.execMpop o s
  | .mff o => Sys2Proof.Machine.execMff o s
  | .mtox o => Sys2Proof.Machine.execMtox o s
  | .mfromx o => Sys2Proof.Machine.execMfromx o s
  | .vsett o => Sys2Proof.Machine.execVsett o s
  | .vexp2 o => Sys2Proof.Machine.execVexp2 o s
  | .vlog2 o => Sys2Proof.Machine.execVlog2 o s
  | .vrcp o => Sys2Proof.Machine.execVrcp o s
  | .vrsq o => Sys2Proof.Machine.execVrsq o s
  | .vsin o => Sys2Proof.Machine.execVsin o s
  | .vcos o => Sys2Proof.Machine.execVcos o s
  | .vtanh o => Sys2Proof.Machine.execVtanh o s
  | .gang o => Sys2Proof.Machine.execGang o s
  | .disb o => Sys2Proof.Machine.execDisb o s
  | .gid o => Sys2Proof.Machine.execGid o s
  | .pmrg o => Sys2Proof.Machine.execPmrg o s
  | .pxch o => Sys2Proof.Machine.execPxch o s
  | .cpy o => Sys2Proof.Machine.execCpy o s
  | .cpys o => Sys2Proof.Machine.execCpys o s
  | .menq o => Sys2Proof.Machine.execMenq o s
  | .mqry o => Sys2Proof.Machine.execMqry o s
  | .mcan o => Sys2Proof.Machine.execMcan o s
  | .dcfg o => Sys2Proof.Machine.execDcfg o s
  | .dqry o => Sys2Proof.Machine.execDqry o s
  | .fenter o => Sys2Proof.Machine.execFenter o s
  | .fleave o => Sys2Proof.Machine.execFleave o s
  | .fopen o => Sys2Proof.Machine.execFopen o s
  | .fjoin o => Sys2Proof.Machine.execFjoin o s
  | .fpub o => Sys2Proof.Machine.execFpub o s
  | .fret o => Sys2Proof.Machine.execFret o s
  | .fretOwn o => Sys2Proof.Machine.execFretOwn o s
  | .dget o => Sys2Proof.Machine.execDget o s
  | .dgetSt o => Sys2Proof.Machine.execDgetSt o s
  | .dset o => Sys2Proof.Machine.execDset o s
  | .faddr o => Sys2Proof.Machine.execFaddr o s
  | .fadd o => Sys2Proof.Machine.execFadd o s
  | .fsub o => Sys2Proof.Machine.execFsub o s
  | .fmul o => Sys2Proof.Machine.execFmul o s
  | .fdiv o => Sys2Proof.Machine.execFdiv o s
  | .fsqrt o => Sys2Proof.Machine.execFsqrt o s
  | .fmin o => Sys2Proof.Machine.execFmin o s
  | .fmax o => Sys2Proof.Machine.execFmax o s
  | .fabs o => Sys2Proof.Machine.execFabs o s
  | .fneg o => Sys2Proof.Machine.execFneg o s
  | .fsgnj o => Sys2Proof.Machine.execFsgnj o s
  | .fma o => Sys2Proof.Machine.execFma o s
  | .fms o => Sys2Proof.Machine.execFms o s
  | .fnma o => Sys2Proof.Machine.execFnma o s
  | .feq o => Sys2Proof.Machine.execFeq o s
  | .flt o => Sys2Proof.Machine.execFlt o s
  | .fle o => Sys2Proof.Machine.execFle o s
  | .fclass o => Sys2Proof.Machine.execFclass o s
  | .fcvti o => Sys2Proof.Machine.execFcvti o s
  | .fcvtu o => Sys2Proof.Machine.execFcvtu o s
  | .icvtf o => Sys2Proof.Machine.execIcvtf o s
  | .ucvtf o => Sys2Proof.Machine.execUcvtf o s
  | .fcvtf o => Sys2Proof.Machine.execFcvtf o s
  | .beq o => Sys2Proof.Machine.execBeq o s
  | .bne o => Sys2Proof.Machine.execBne o s
  | .blt o => Sys2Proof.Machine.execBlt o s
  | .bge o => Sys2Proof.Machine.execBge o s
  | .bltu o => Sys2Proof.Machine.execBltu o s
  | .bgeu o => Sys2Proof.Machine.execBgeu o s
  | .loop o => Sys2Proof.Machine.execLoop o s
  | .loopi o => Sys2Proof.Machine.execLoopi o s
  | .csrr o => Sys2Proof.Machine.execCsrr o s
  | .csrw o => Sys2Proof.Machine.execCsrw o s
  | .csrs o => Sys2Proof.Machine.execCsrs o s
  | .csrc o => Sys2Proof.Machine.execCsrc o s
  | .post o => Sys2Proof.Machine.execPost o s
  | .spawn o => Sys2Proof.Machine.execSpawn o s
  | .launch o => Sys2Proof.Machine.execLaunch o s
  | .tcrd o => Sys2Proof.Machine.execTcrd o s
  | .rwait o => Sys2Proof.Machine.execRwait o s
  | .homeq o => Sys2Proof.Machine.execHomeq o s
  | .rld o => Sys2Proof.Machine.execRld o s
  | .rst o => Sys2Proof.Machine.execRst o s
  | .ramo o => Sys2Proof.Machine.execRamo o s
  | .rfill o => Sys2Proof.Machine.execRfill o s
  | .rstat o => Sys2Proof.Machine.execRstat o s
  | .eret o => Sys2Proof.Machine.execEret o s
  | .eretR o => Sys2Proof.Machine.execEretR o s
  | .park o => Sys2Proof.Machine.execPark o s
  | .kill o => Sys2Proof.Machine.execKill o s
  | .scrub o => Sys2Proof.Machine.execScrub o s
  | .invva o => Sys2Proof.Machine.execInvva o s
  | .invasid o => Sys2Proof.Machine.execInvasid o s
  | .wfe o => Sys2Proof.Machine.execWfe o s
  | .slotset o => Sys2Proof.Machine.execSlotset o s
  | .resume o => Sys2Proof.Machine.execResume o s
  | .resumeKill o => Sys2Proof.Machine.execResumeKill o s
  | .taskDispatch slot => Sys2Proof.Machine.execTaskDispatch slot s
  | .shareInterval => Sys2Proof.Machine.execShareInterval s
  | .preemptionSave cid => Sys2Proof.Machine.execPreemptionSave cid s
  | .imageSaveDone cid => Sys2Proof.Machine.execImageSaveDone cid s
  | .slotScrubDone slot ok => Sys2Proof.Machine.execSlotScrubDone slot ok s
  | .registerFill cid id => Sys2Proof.Machine.execRegisterFill cid id s
  | .weakLoadFault cid id => Sys2Proof.Machine.execWeakLoadFault cid id s
  | .heldLoadFaultTrap cid => Sys2Proof.Machine.execHeldLoadFaultTrap cid s
  | .weakStoreFault cid id => Sys2Proof.Machine.execWeakStoreFault cid id s
  | .weakStorePerformed cid id => Sys2Proof.Machine.execWeakStorePerformed cid id s
  | .waitLimitExpiry cid => Sys2Proof.Machine.execWaitLimitExpiry cid s
  | .yieldComplete cid => Sys2Proof.Machine.execYieldComplete cid s
  | .wfeTimeout cid => Sys2Proof.Machine.execWfeTimeout cid s
  | .feWordStateChange key => Sys2Proof.Machine.execFeWordStateChange key s
  | .pinnedLineUnpin region id => Sys2Proof.Machine.execPinnedLineUnpin region id s
  | .claimSweepStart die => Sys2Proof.Machine.execClaimSweepStart die s
  | .claimRequestArrival r => Sys2Proof.Machine.execClaimRequestArrival r s
  | .claimGrantArrival sweep out => Sys2Proof.Machine.execClaimGrantArrival sweep out s
  | .claimRelease r => Sys2Proof.Machine.execClaimRelease r s
  | .deferredRequestAdmit die => Sys2Proof.Machine.execDeferredRequestAdmit die s
  | .postArrival p => Sys2Proof.Machine.execPostArrival p s
  | .regionAdmission id => Sys2Proof.Machine.execRegionAdmission id s
  | .launchResult cid reg code => Sys2Proof.Machine.execLaunchResult cid reg code s
  | .regionComplete region => Sys2Proof.Machine.execRegionComplete region s
  | .copyComplete id => Sys2Proof.Machine.execCopyComplete id s
  | .matrixRecordIssue die => Sys2Proof.Machine.execMatrixRecordIssue die s
  | .matrixRecordComplete region id => Sys2Proof.Machine.execMatrixRecordComplete region id s
  | .partnerSumsArrival region id => Sys2Proof.Machine.execPartnerSumsArrival region id s
  | .pairTimeout region id => Sys2Proof.Machine.execPairTimeout region id s
  | .chainHoldTimeout clus hold => Sys2Proof.Machine.execChainHoldTimeout clus hold s
  | .indexBuildComplete id => Sys2Proof.Machine.execIndexBuildComplete id s
  | .stippleQueryReturn cid => Sys2Proof.Machine.execStippleQueryReturn cid s
  | .remoteReply dest seq r => Sys2Proof.Machine.execRemoteReply dest seq r s
  | .rfillArrival m => Sys2Proof.Machine.execRfillArrival m s
  | .rfillOutcome cid code => Sys2Proof.Machine.execRfillOutcome cid code s
  | .pxchDataArrival cid a data => Sys2Proof.Machine.execPxchDataArrival cid a data s
  | .migrationSlotRequest cid => Sys2Proof.Machine.execMigrationSlotRequest cid s
  | .migrationArrival cid slot => Sys2Proof.Machine.execMigrationArrival cid slot s
  | .pageGrowthFill die asid va => Sys2Proof.Machine.execPageGrowthFill die asid va s
  | .fabricRequestArrival r => Sys2Proof.Machine.execFabricRequestArrival r s
  | .requestRetry dest seq => Sys2Proof.Machine.execRequestRetry dest seq s
  | .packageLost node => Sys2Proof.Machine.execPackageLost node s
  | .lostNoticeArrival node => Sys2Proof.Machine.execLostNoticeArrival node s
  | .packageFence => Sys2Proof.Machine.execPackageFence s
  | .flitSlotReceive port f => Sys2Proof.Machine.execFlitSlotReceive port f s
  | .nakReplay port => Sys2Proof.Machine.execNakReplay port s
  | .linkRetrain port => Sys2Proof.Machine.execLinkRetrain port s
  | .linkDown port => Sys2Proof.Machine.execLinkDown port s
  | .keySwitchSend port => Sys2Proof.Machine.execKeySwitchSend port s
  | .keyLow port => Sys2Proof.Machine.execKeyLow port s
  | .linkHold port => Sys2Proof.Machine.execLinkHold port s
  | .holdTimeout port start => Sys2Proof.Machine.execHoldTimeout port start s
  | .lctlDown port b => Sys2Proof.Machine.execLctlDown port b s
  | .lctlArm port b => Sys2Proof.Machine.execLctlArm port b s
  | .lkeyWrite port w => Sys2Proof.Machine.execLkeyWrite port w s
  | .fstatWrite w => Sys2Proof.Machine.execFstatWrite w s
  | .vtypeWrite w => Sys2Proof.Machine.execVtypeWrite w s
  | .plumbWrite w => Sys2Proof.Machine.execPlumbWrite w s
  | .fabricWrite w => Sys2Proof.Machine.execFabricWrite w s
  | .csrWrite who n w => Sys2Proof.Machine.execCsrWrite who n w s
  | .launchDoorbell tail => Sys2Proof.Machine.execLaunchDoorbell tail s
  | .launchQueueEntry => Sys2Proof.Machine.execLaunchQueueEntry s
  | .ownerWrite m w => Sys2Proof.Machine.execOwnerWrite m w s
  | .nextWrite m w => Sys2Proof.Machine.execNextWrite m w s
  | .mboxWrite m w => Sys2Proof.Machine.execMboxWrite m w s
  | .dhaltWrite m w => Sys2Proof.Machine.execDhaltWrite m w s
  | .hostRegisterWrite m off w => Sys2Proof.Machine.execHostRegisterWrite m off w s
  | .hostAccess a => Sys2Proof.Machine.execHostAccess a s
  | .smbusRegisterWrite b => Sys2Proof.Machine.execSmbusRegisterWrite b s
  | .smbusRegisterRead b => Sys2Proof.Machine.execSmbusRegisterRead b s
  | .eventQueueDrain => Sys2Proof.Machine.execEventQueueDrain s
  | .measure => Sys2Proof.Machine.execMeasure s
  | .openLineage => Sys2Proof.Machine.execOpenLineage s
  | .sealAndContinue => Sys2Proof.Machine.execSealAndContinue s
  | .sealAndStop => Sys2Proof.Machine.execSealAndStop s
  | .restore => Sys2Proof.Machine.execRestore s
  | .closeLineage => Sys2Proof.Machine.execCloseLineage s
  | .ident => Sys2Proof.Machine.execIdent s
  | .counterAdvanceArrival a => Sys2Proof.Machine.execCounterAdvanceArrival a s
  | .counterAdvanceAck peer lineage counter full => Sys2Proof.Machine.execCounterAdvanceAck peer lineage counter full s
  | .counterAdvanceResend peer lineage => Sys2Proof.Machine.execCounterAdvanceResend peer lineage s
  | .packageReset boot => Sys2Proof.Machine.execPackageReset boot s
  | .freeze => Sys2Proof.Machine.execFreeze s
  | .thermalTrip => Sys2Proof.Machine.execThermalTrip s
  | .scanStart core => Sys2Proof.Machine.execScanStart core s
  | .scanEnd core pass => Sys2Proof.Machine.execScanEnd core pass s
  | .coreRetirement core => Sys2Proof.Machine.execCoreRetirement core s
  | .correctedError array unit die addr => Sys2Proof.Machine.execCorrectedError array unit die addr s
  | .uncorrectableError e => Sys2Proof.Machine.execUncorrectableError e s
  | .patrolRead die addr flipped => Sys2Proof.Machine.execPatrolRead die addr flipped s
  | .strongAccessPerformed cid id => Sys2Proof.Machine.execStrongAccessPerformed cid id s
  | .invalidationComplete cid => Sys2Proof.Machine.execInvalidationComplete cid s
  | .scrubComplete cid => Sys2Proof.Machine.execScrubComplete cid s
  | .linkUp port stated peerGen => Sys2Proof.Machine.execLinkUp port stated peerGen s
  | .powerLoss => Sys2Proof.Machine.execPowerLoss s
  | .stewardMessage cid => Sys2Proof.Machine.execStewardMessage cid s

end Sys2Proof.Machine
end

