-- ==== Sys2Proof/Machine/Events.lean ====
section
/-! DEFINITION. The device steps as data given the meanings that the match over instructions gives them. -/

namespace Sys2Proof.Machine

open Sys2Proof

/-- A due step of the device carried out: the meaning of the instruction of the same name and arguments. -/
def runEv (e : Ev) (s : State) : Host.Outcome State Fault Refusal :=
  match e with
  | .taskDispatch slot => execTaskDispatch slot s
  | .shareInterval => execShareInterval s
  | .preemptionSave cid => execPreemptionSave cid s
  | .imageSaveDone cid => execImageSaveDone cid s
  | .slotScrubDone slot ok => execSlotScrubDone slot ok s
  | .registerFill cid id => execRegisterFill cid id s
  | .weakLoadFault cid id => execWeakLoadFault cid id s
  | .heldLoadFaultTrap cid => execHeldLoadFaultTrap cid s
  | .weakStoreFault cid id => execWeakStoreFault cid id s
  | .weakStorePerformed cid id => execWeakStorePerformed cid id s
  | .waitLimitExpiry cid => execWaitLimitExpiry cid s
  | .yieldComplete cid => execYieldComplete cid s
  | .wfeTimeout cid => execWfeTimeout cid s
  | .feWordStateChange key => execFeWordStateChange key s
  | .pinnedLineUnpin region id => execPinnedLineUnpin region id s
  | .claimSweepStart die => execClaimSweepStart die s
  | .claimRequestArrival r => execClaimRequestArrival r s
  | .claimGrantArrival sweep out => execClaimGrantArrival sweep out s
  | .claimRelease r => execClaimRelease r s
  | .deferredRequestAdmit die => execDeferredRequestAdmit die s
  | .postArrival p => execPostArrival p s
  | .regionAdmission id => execRegionAdmission id s
  | .launchResult cid reg code => execLaunchResult cid reg code s
  | .regionComplete region => execRegionComplete region s
  | .copyComplete id => execCopyComplete id s
  | .matrixRecordIssue die => execMatrixRecordIssue die s
  | .matrixRecordComplete region id => execMatrixRecordComplete region id s
  | .partnerSumsArrival region id => execPartnerSumsArrival region id s
  | .pairTimeout region id => execPairTimeout region id s
  | .chainHoldTimeout clus hold => execChainHoldTimeout clus hold s
  | .indexBuildComplete id => execIndexBuildComplete id s
  | .stippleQueryReturn cid => execStippleQueryReturn cid s
  | .remoteReply dest seq r => execRemoteReply dest seq r s
  | .rfillArrival m => execRfillArrival m s
  | .rfillOutcome cid code => execRfillOutcome cid code s
  | .pxchDataArrival cid a data => execPxchDataArrival cid a data s
  | .migrationSlotRequest cid => execMigrationSlotRequest cid s
  | .migrationArrival cid slot => execMigrationArrival cid slot s
  | .pageGrowthFill die asid va => execPageGrowthFill die asid va s
  | .fabricRequestArrival r => execFabricRequestArrival r s
  | .requestRetry dest seq => execRequestRetry dest seq s
  | .packageLost node => execPackageLost node s
  | .lostNoticeArrival node => execLostNoticeArrival node s
  | .packageFence => execPackageFence s
  | .flitSlotReceive port f => execFlitSlotReceive port f s
  | .nakReplay port => execNakReplay port s
  | .linkRetrain port => execLinkRetrain port s
  | .linkDown port => execLinkDown port s
  | .keySwitchSend port => execKeySwitchSend port s
  | .keyLow port => execKeyLow port s
  | .linkHold port => execLinkHold port s
  | .holdTimeout port start => execHoldTimeout port start s
  | .lctlDown port b => execLctlDown port b s
  | .lctlArm port b => execLctlArm port b s
  | .lkeyWrite port w => execLkeyWrite port w s
  | .fstatWrite w => execFstatWrite w s
  | .vtypeWrite w => execVtypeWrite w s
  | .plumbWrite w => execPlumbWrite w s
  | .fabricWrite w => execFabricWrite w s
  | .csrWrite who n w => execCsrWrite who n w s
  | .launchDoorbell tail => execLaunchDoorbell tail s
  | .launchQueueEntry => execLaunchQueueEntry s
  | .ownerWrite m w => execOwnerWrite m w s
  | .nextWrite m w => execNextWrite m w s
  | .mboxWrite m w => execMboxWrite m w s
  | .dhaltWrite m w => execDhaltWrite m w s
  | .hostRegisterWrite m off w => execHostRegisterWrite m off w s
  | .hostAccess a => execHostAccess a s
  | .smbusRegisterWrite b => execSmbusRegisterWrite b s
  | .smbusRegisterRead b => execSmbusRegisterRead b s
  | .eventQueueDrain => execEventQueueDrain s
  | .measure => execMeasure s
  | .openLineage => execOpenLineage s
  | .sealAndContinue => execSealAndContinue s
  | .sealAndStop => execSealAndStop s
  | .restore => execRestore s
  | .closeLineage => execCloseLineage s
  | .ident => execIdent s
  | .counterAdvanceArrival a => execCounterAdvanceArrival a s
  | .counterAdvanceAck peer lineage counter full => execCounterAdvanceAck peer lineage counter full s
  | .counterAdvanceResend peer lineage => execCounterAdvanceResend peer lineage s
  | .packageReset boot => execPackageReset boot s
  | .freeze => execFreeze s
  | .thermalTrip => execThermalTrip s
  | .scanStart core => execScanStart core s
  | .scanEnd core pass => execScanEnd core pass s
  | .coreRetirement core => execCoreRetirement core s
  | .correctedError array unit die addr => execCorrectedError array unit die addr s
  | .uncorrectableError e => execUncorrectableError e s
  | .patrolRead die addr flipped => execPatrolRead die addr flipped s
  | .strongAccessPerformed cid id => execStrongAccessPerformed cid id s
  | .invalidationComplete cid => execInvalidationComplete cid s
  | .scrubComplete cid => execScrubComplete cid s
  | .linkUp port stated peerGen => execLinkUp port stated peerGen s
  | .powerLoss => execPowerLoss s
  | .stewardMessage cid => execStewardMessage cid s

end Sys2Proof.Machine
end

