-- ==== Sys2Proof/Machine/Issue.lean ====
section
/-! DEFINITION. The issue of one instruction (R118, R119, R131, R134), what happens at a slot's offered clock (R22, R27,
R30, R300), and which event of the package comes next (R22, R324). -/

namespace Sys2Proof.Machine

/-! Fetching an instruction. -/

/-- What stands at a program counter: an instruction with the BSIG word before it and the address after it, or the
fault of Table 7.7 with its cause and TVAL; for uncorrectable data, its granule. -/
inductive Fetched where
  | run (i : Instr) (sig : Option (BitVec 11)) (npc : Word)
  | bad (cause : Nat) (va : Word) (g : Nat)
  deriving DecidableEq, Repr

/-- The granule of uncorrectable data. -/
def Bad.granule : Bad → Nat
  | .poison g => g
  | _ => 0

/-- The instruction that halfwords fetched from an address hold. -/
def readHalves (va : Word) (hs : List Half) (err : Option Bad) : Fetched :=
  match decode hs with
  | .ok i n => .run i none (va + wd (2 * n))
  | .undefined k => .bad 0x01 (va + wd (2 * k)) 0
  | .missing k => match err with
    | some e => .bad e.fetchCause (va + wd (2 * k)) e.granule
    | none => .bad 0x01 (va + wd (2 * k)) 0

/-- The instruction of a context, fetched through a core (R118, R119, R134). A BSIG word is consumed with the instruction
that follows it, be that a BSIG word of its own; one that follows such a word, or stands before a POOL marker, is an
instruction of its own. -/
def fetchInstr (s : State) (c : Ctx) (core : Nat) : Fetched × State :=
  let (hs, err, s) := fetchFrom c core c.pc 6 [] s
  match readHalves c.pc hs err with
  | .run (.bsig sig) _ npc =>
    if c.lone then (.run (.bsig sig) none npc, s)
    else
      let (hs, err, s) := fetchFrom c core npc 6 [] s
      (match readHalves npc hs err with
        | .run (.pool _) _ _ => .run (.bsig sig) none npc
        | .run i _ npc' => .run i (some sig) npc'
        | f => f, s)
  | f => (f, s)

/-! The issue of one thread. -/

/-- Whether the issuing thread, whose instruction began at a place in program order, has ended in a trap or been killed: an
instruction that completes moves that place by one, a trap by two, and a TRAP by both. -/
def didTrap (seq : Nat) (s : State) : Bool :=
  match (s.slot s.cur).ctx with
  | none => (s.slot s.cur).scrub
  | some c => decide (seq + 2 ≤ c.seq)

/-- Whether the issuing thread has ended (R18, R31). -/
def didEnd (s : State) : Bool := (s.slot s.cur).ctx.isNone

/-- An instruction run by the thread of a slot, with the BSIG word consumed with it (R134, R362 to R364): its comparison
kills in mode 2 before the instruction, and counts in mode 1 as the instruction completes. Table 7.7 does not place the kill
among the faults of the instruction that was fetched with the BSIG word: it comes after orders 2 to 4 and before order 5
(DESIGN CHOICE, log 61). -/
def runInstr (t : Nat) (i : Instr) (sig : Option (BitVec 11)) (npc : Word) (s : State) :
    Host.Outcome State Fault Refusal :=
  let s := { s with cur := t }.mod (fun c => { c with npc, feed := instrRecord i, sig })
  if sig.isSome && s.ctx.blk.bad && plumbMode s.ctx.plumb == 2 then
    .next (takeTrap s { cause := 0x04, val := s.ctx.blk.word, epc := s.ctx.pc })
  else exec i s

/-- A fetch or decode fault taken by the thread of a slot (Table 7.7). -/
def runBad (t : Nat) (cause : Nat) (va : Word) (g : Nat) (s : State) : State :=
  let s := { s with cur := t }
  if cause = 0x0D then killBad s s.ctx.cid va g
  else takeTrap s { cause, val := va, epc := s.ctx.pc }

/-- What was fetched, run by the thread of a slot. -/
def runFetched (t : Nat) (f : Fetched) (s : State) : Host.Outcome State Fault Refusal :=
  match f with
  | .run i sig npc => runInstr t i sig npc s
  | .bad cause va g => .next (runBad t cause va g s)

/-- One outcome after another. -/
def andThen (r : Host.Outcome State Fault Refusal) (f : State → Host.Outcome State Fault Refusal) :
    Host.Outcome State Fault Refusal :=
  match r with
  | .next s => f s
  | r => r

/-- A wait that has reached its limit, and whose instruction has not gone on, ends in cause 0x09 (R27). -/
def expire (t : Nat) (s : State) : Host.Outcome State Fault Refusal :=
  match (s.slot t).ctx with
  | none => .next s
  | some c => if limitReached s c then runEv (.waitLimitExpiry c.cid) s else .next s

/-! Offered clocks. -/

/-- A lone BSIG word takes no issue clock: the thread is offered the same clock again (R134). -/
def keepTurn (f : Fetched) (l : Option Nat) (s : State) : State :=
  match f with
  | .run (.bsig _) _ _ => { s with last := l }
  | _ => s

/-- The context of a slot. -/
def ctxAt (s : State) (t : Nat) : Ctx := (s.slot t).ctx.getD Ctx.blank

/-- What a thread does at a boundary (R300): the instruction fetched through a core runs, and a wait of it may reach its limit.
A held load fault that is due is taken in place of an instruction that neither traps nor ends the thread; an instruction under
way from an earlier boundary is not run here. -/
def boundary (t core : Nat) (keep : Fetched → State → State) (s : State) : Host.Outcome State Fault Refusal :=
  let s := { s with cur := t }
  let c := s.ctx
  let held (s : State) : Host.Outcome State Fault Refusal := runEv (.heldLoadFaultTrap c.cid) s
  if c.stage != 0 && (c.run == .parked || faultDue c) then
    if limitReached s c || !faultDue c then expire t s else held s
  else
    let (f, s1) := fetchInstr s c core
    let r := andThen (runFetched t f s1) (fun s => expire t (keep f s))
    match r with
    | .next s2 =>
      let s2 := { s2 with cur := t }
      if faultDue c && !didTrap c.seq s2 && !didEnd s2 then held s1 else r
    | _ => r

/-- The offered clock of a thread in no gang (R22, R27, R300); `l` is the thread offered before it in this clock. -/
def offerOne (t : Nat) (l : Option Nat) (s : State) : Host.Outcome State Fault Refusal :=
  let s := { s with cur := t }
  match s.ctx.yieldTo with
  | some y => if y ≤ s.clock then runEv (.yieldComplete s.ctx.cid) s else .next s
  | none => boundary t s.myCore (fun f s => keepTurn f l s) s

/-- Whether a run of an instruction that began at a place in program order has left a thread parked on an empty operand, or at
its place without having parked. -/
def stays (t seq : Nat) (pc : Word) (r : Host.Outcome State Fault Refusal) : Bool :=
  match r with
  | .next s => match (s.slot t).ctx with
    | some c => match c.run, c.wait with
      | .parked, some w => w.kind == .reg
      | .running, none => c.seq == seq && c.pc == pc
      | _, _ => false
    | none => false
  | _ => false

/-- Whether a run has left a thread in a trap, or killed. -/
def trapped (t seq : Nat) (r : Host.Outcome State Fault Refusal) : Bool :=
  match r with
  | .next s => didTrap seq { s with cur := t }
  | _ => false

/-- Whether a run has ended a thread. -/
def leaves (t : Nat) (r : Host.Outcome State Fault Refusal) : Bool :=
  match r with
  | .next s => didEnd { s with cur := t }
  | _ => false

/-- Threads run one after another. -/
def runAll (ts : List Nat) (f : Nat → State → Host.Outcome State Fault Refusal) (s : State) :
    Host.Outcome State Fault Refusal :=
  match ts with
  | [] => .next s
  | t :: l => andThen (f t s) (runAll l f)

/-- The bits of GSTAT that a disband sets (Table 2.7) as they stood in another state of the context. -/
def gangBits (now was : Word) : Word :=
  setBits (setBits (setBit (setBit now 0 (bit was 0)) 7 (bit was 7)) 11 10 (bits was 11 10)) 14 12 (bits was 14 12)

/-- The gang of an earlier state stands again, for a further member that traps on the same instruction. -/
def regang (was : State) (ms : List Nat) (s : State) : State :=
  ms.foldl (fun s t => match (s.slot t).ctx, (was.slot t).ctx with
    | some c, some w => if c.cid = w.cid then s.modCtx c.cid (fun c => { c with gstat := gangBits c.gstat w.gstat }) else s
    | _, _ => s) s

/-- The gang that a trap of each of `bad` has disbanded (R31): a member that trapped finds its own GSTAT as a trapping
member does, and every other finds DISB with the lowest member that trapped (log 45). -/
def disbanded (was : State) (ms bad : List Nat) (s : State) : State :=
  let first := (bad.map (fun t => (ctxAt was t).gangIdx)).foldl min 7
  ms.foldl (fun s t => match (s.slot t).ctx, (was.slot t).ctx with
    | some c, some w =>
      if c.cid ≠ w.cid then s
      else
        let g := setBit (gangBits c.gstat w.gstat) 0 false
        let g := if bad.contains t then g else setBits (setBits (setBit g 7 true) 11 10 2) 14 12 first
        s.modCtx c.cid (fun c => { c with gstat := g })
    | _, _ => s) s

/-- Members of a gang that take a trap at one boundary, each as if it alone disbanded the gang. -/
def trapAll (was : State) (ms bad : List Nat) (f : Nat → State → Host.Outcome State Fault Refusal) (s : State) :
    Host.Outcome State Fault Refusal :=
  if bad.isEmpty then .next s
  else andThen (runAll bad (fun t s => f t (regang was ms s)) s) (fun s => .next (disbanded was ms bad s))

/-- What each member of a gang does at one boundary. Those that trap take their traps after the others (R31). -/
def together (ms : List Nat) (f : Nat → State → Host.Outcome State Fault Refusal) (s : State) :
    Host.Outcome State Fault Refusal :=
  let bad := ms.filter (fun t => trapped t (ctxAt s t).seq (f t s))
  andThen (runAll (ms.filter (fun t => !bad.contains t)) f s) (trapAll s ms bad f)

/-- One instruction issued by all members of a gang (R30, R31, R300). A member takes its synchronous trap, or else its held
load fault, after the others have completed, and what is taken from the leader is taken before the leader runs. Where an
operand is empty in any member and none traps, the whole gang parks. -/
def runGang (ms : List Nat) (f : Fetched) (s : State) : Host.Outcome State Fault Refusal :=
  let lead := { s with cur := ms.headD 0 }.leader
  match f with
  | .bad cause va g => .next (runBad lead cause va g s)
  | .run i sig npc =>
    let one (t : Nat) (s : State) : Host.Outcome State Fault Refusal := andThen (runInstr t i sig npc s) (expire t)
    let bad := ms.filter (fun t => trapped t (ctxAt s t).seq (one t s))
    let held := ms.filter (fun t => faultDue (ctxAt s t) && !bad.contains t && !leaves t (one t s))
    let take (t : Nat) (s : State) : Host.Outcome State Fault Refusal :=
      if bad.contains t then one t s else runEv (.heldLoadFaultTrap (ctxAt s t).cid) s
    let out := (bad ++ held).filter (· != lead) ++ (bad ++ held).filter (· == lead)
    let short := ms.filter (fun t => stays t (ctxAt s t).seq (ctxAt s t).pc (one t s))
    let good := ms.filter (fun t => !out.contains t)
    if short.isEmpty then
      andThen (runAll (good.filter (· != lead) ++ good.filter (· == lead)) one s) (trapAll s ms out take)
    else if out.isEmpty then
      runAll ms (fun t s => if short.contains t then one t s
        else .next (s.modCtx (ctxAt s t).cid (·.parkAt s.clock .none 0))) s
    else trapAll s ms out take s

/-- The offered clock of a gang (R30). Members whose instruction is behind go on with it; the gang issues when all
stand at the same place, and none is away or about to be saved. -/
def offerGang (ms : List Nat) (l : Option Nat) (s : State) : Host.Outcome State Fault Refusal :=
  let cs := ms.map (ctxAt s)
  let saving (c : Ctx) : Bool := match c.save with
    | some q => q.written
    | none => false
  if cs.any (fun c => c.run == .away || saving c) then .next s
  else if cs.any (·.yieldTo.isSome) then
    runAll ms (fun t s => match (ctxAt s t).yieldTo with
      | some y => if y ≤ s.clock then runEv (.yieldComplete (ctxAt s t).cid) s else .next s
      | none => .next s) s
  else
    let top := (cs.map (·.seq)).foldl max 0
    let late (t : Nat) : Bool := decide ((ctxAt s t).seq < top) || (ctxAt s t).stage != 0
    let lead := { s with cur := ms.headD 0 }.leader
    if ms.any late then
      together ms (fun t s =>
        if late t then boundary t (nameCore lead) (fun _ s => s) s
        else if faultDue (ctxAt s t) then runEv (.heldLoadFaultTrap (ctxAt s t).cid) s
        else .next s) s
    else
      let (f, s) := fetchInstr s (ctxAt s lead) (nameCore lead)
      andThen (runGang ms f s) (fun s => .next (keepTurn f l s))

/-- The offered clock of a slot that holds a context. -/
def offer (t : Nat) (l : Option Nat) (s : State) : Host.Outcome State Fault Refusal :=
  if (ctxAt s t).inGang then offerGang (gangOf s t) l s else offerOne t l s

/-! What comes next. -/

/-- Whether a context takes its offered clocks; a gang takes those of its last member. -/
def takesClocks (s : State) (t : Nat) (c : Ctx) : Bool :=
  c.run != .away && c.mig.isNone && !(match c.save with
    | some q => q.written
    | none => false) && !s.halted (nameDie t) && (!c.inGang || (gangOf s t).getLast? == some t)

/-- Whether a slot's turn in the present clock is still to come. -/
def turnLeft (s : State) (t : Nat) : Bool :=
  match s.last with
  | none => true
  | some l => decide (l < t)

/-- The next clock that a slot is offered (R22), not before a given one. -/
def nextClock (s : State) (t low : Nat) : Nat :=
  let a := max s.clock low
  let c := a + (t % 16 + 16 - a % 16) % 16
  if c = s.clock ∧ !turnLeft s t then c + 16 else c

/-- The earlier of two turns, by clock and then by thread name. -/
def sooner (a b : Option (Nat × Nat)) : Option (Nat × Nat) :=
  match a, b with
  | none, b => b
  | a, none => a
  | some x, some y => if y.1 < x.1 ∨ (y.1 = x.1 ∧ y.2 < x.2) then some y else some x

/-- The next turn of a context. -/
def nextOffer (s : State) : Option (Nat × Nat) :=
  s.slots.foldl (fun b e => match e.2.ctx with
    | some c => if takesClocks s e.1 c then sooner b (some (nextClock s e.1 e.2.freed, e.1)) else b
    | none => b) none

/-- The next turn of a free slot that takes work (R324). -/
def nextTake (s : State) : Option (Nat × Nat) :=
  let dies := (List.range 4).filter (fun d => s.regions.any (fun e => hasWork s e.2 d))
  if dies.isEmpty then none
  else (List.range 17).findSome? (fun k =>
    (dies.flatMap (fun d => (List.range 256).map (fun c => d * 4096 + c * 16 + (s.clock + k) % 16))).findSome? (fun t =>
      if (k != 0 || turnLeft s t) && (k != 16 || !turnLeft s t) && decide ((s.slot t).freed ≤ s.clock + k) &&
          (workFor s t).isSome then some (s.clock + k, t) else none))

/-- What goes with a clock: the slots then on the links' lines, the measurements of ASIDs that have no table any more
(R371), and what the fault rings can take of the records that waited for their lines. In the clock that comes the links send
on, idle flits where no other waits (R350). -/
def endClock (s : State) (c : Nat) : State :=
  let s := payFaults (if s.lineage.meas.isEmpty then s else dropMeas s)
  let skipped := c - s.clock - 1
  let s : State := if s.ports.toList.all (·.line.isEmpty) then s
    else { s with ports := s.ports.map (fun (q : Port) => { q with line := [] }) }
  (List.range 8).foldl (fun s k => idleSlots s (Fin.ofNat 8 k) skipped) s

/-- The state at a clock. -/
def atClock (s : State) (c : Nat) : State :=
  if c = s.clock then s else { endClock s c with clock := c, last := none }

/-- A turn taken: a thread issues, or a free slot takes work. -/
def takeTurn (s : State) (c t : Nat) (free : Bool) : Host.Outcome State Fault Refusal :=
  let s := atClock s c
  let l := s.last
  let s := { s with last := some t }
  if free then runEv (.taskDispatch t) s else offer t l s

/-- A timeout that is reached: one that a die under debug halt keeps stands still until the halt ends (R383). -/
def runTimer (c : Nat) (e : Ev) (s : State) : Host.Outcome State Fault Refusal :=
  match timerDie s e with
  | some d => if s.halted d then .next (s.modDie d (fun q => { q with stopped := q.stopped ++ [(c, e)] })) else runEv e s
  | none => runEv e s

/-- What comes next in the order of clocks. -/
inductive Coming where
  | timeout (c : Nat) (e : Ev) (rest : List (Nat × Ev))
  | turn (c t : Nat) (free : Bool)
  | nothing
  deriving DecidableEq, Repr

/-- The next timeout, thread or free slot; a timeout goes before the turns of its clock. -/
def coming (s : State) : Coming :=
  let o := nextOffer s
  let first := sooner o (nextTake s)
  let turn : Coming := match first with
    | some (c, t) => .turn c t (o != some (c, t))
    | none => .nothing
  match s.timers with
  | [] => turn
  | (c, e) :: l =>
    if (match first with
      | some (c', _) => decide (c ≤ c')
      | none => true) then .timeout c e l else turn

/-- The clock of what comes next. -/
def Coming.clock (s : State) : Coming → Nat
  | .timeout c _ _ => max c s.clock
  | .turn c _ _ => c
  | .nothing => s.clock + 1

/-- What comes next, done. -/
def comeTo (s : State) : Coming → Host.Outcome State Fault Refusal
  | .timeout c e l => runTimer c e { atClock s (max c s.clock) with timers := l }
  | .turn c t free => takeTurn s c t free
  | .nothing => .next (atClock s (s.clock + 1))

/-- The next timeout, thread or free slot in the order of clocks. -/
def advance (s : State) : Host.Outcome State Fault Refusal := comeTo s (coming s)

/-- With the clocks stopped, only a package reset leaves the state (R381, R382); no step of a steward runs. -/
def stopped (s : State) (f : Fault) : Host.Outcome State Fault Refusal :=
  match s.agenda.find? (fun e => match e with
    | .packageReset .start => true
    | _ => false) with
  | some e => runEv e { s with agenda := s.agenda.erase e }
  | none => .fault f

/-- The dies on which the turn of a pending element has come (R55): their sweep starts are due. -/
def sweepsDue (s : State) : List Ev :=
  ((List.range 4).filter (fun d => (nextPending s d).isSome)).map .claimSweepStart

/-- A due step of the device taken from the agenda, at the end of the present clock. -/
def runDue (e : Ev) (s : State) : Host.Outcome State Fault Refusal :=
  runEv e { s with agenda := s.agenda.erase e, bounds := s.bounds.filter (fun b => b.2 != e) }

/-- Whether a step is a master's write to the register that holds OWN. -/
def writesOwn (m : Master) (e : Ev) : Bool :=
  match e with
  | .ownerWrite m' _ => m' == m
  | .nextWrite m' _ => m' == m
  | .hostRegisterWrite m' off _ => m' == m && off == 0
  | .smbusRegisterWrite b => m == .bmc && b.cmd == 0x40 && ofBytes (b.bytes.take 2) == 0
  | _ => false

/-- Of the masters' writes that reach OWN in one clock the host's is taken first (R379). -/
def hostFirst (s : State) (e : Ev) : Ev := if writesOwn .bmc e then (s.agenda.find? (writesOwn .host)).getD e else e

/-- The due step that can wait no longer (R4). -/
def overdue (s : State) : Option Ev :=
  (s.bounds.find? (fun b => decide (b.1 ≤ s.clock) && s.agenda.contains b.2)).map (·.2)

/-- What the package does next. With nothing due, the next timeout or turn. With steps of the device due, the timeouts and
turns of this clock go first; then, at its end, the steps whose bound has come (R4), then as many of the others as the free
value picks (log 3), and then the next clock. What such a step fills is thus full for the instructions of later clocks
only (R25). -/
def nextStep (s : State) : Host.Outcome State Fault Refusal :=
  match s.agenda ++ sweepsDue s with
  | [] => advance s
  | e :: l =>
    let n := coming s
    if n.clock s ≤ s.clock then comeTo s n
    else
      let s := { s with last := some 16384 }
      match overdue s with
      | some e => runDue e s
      | none =>
        let k := Config.schedule s.tick
        let s := { s with tick := s.tick + 1 }
        match (e :: l)[k]? with
        | some e => runDue (hostFirst s e) s
        | none => .next (atClock s (s.clock + 1))

end Sys2Proof.Machine
end

