-- ==== Sys2Proof/Machine/Load.lean ====
section
/-! DEFINITION. A package loaded from outside with one task that stands before given halfwords (log 21). -/

namespace Sys2Proof.Machine

/-- The VA and the PA on die 0 at which the halfwords are placed. -/
def loadVa : Word := 0x10000
def loadPa : Nat := 0x50000

/-- The ASID table entry of ASID 1 and the four translation tables that map the page of `loadVa`, readable,
writable and executable. -/
def loadTables : List (Nat × Nat) :=
  [(16, 0x10001), (24, 0), (0x10000, 0x20001), (0x20000, 0x30001), (0x30000, 0x40001), (0x40008, loadPa + 0x3F)]

/-- The memory with tables and halfwords, and zeros above them up to the longest instruction (R118). -/
def loadMem (m : List Host.Cell) (hs : List Half) : List Host.Cell :=
  let m := loadTables.foldl (fun m e => Mem.writeN m (ordKey 0 e.1) (toBytes 8 e.2)) m
  Mem.writeN m (ordKey 0 loadPa) ((hs ++ List.replicate (6 - hs.length) 0).flatMap (fun (h : Half) => toBytes 2 h.toNat))

/-- The loaded state: power and clocks on, nothing due before the turn of core 0's slot of this clock, which holds a
running supervisor context of a live region in ASID 1 whose pc names the halfwords. -/
def loadedState (s : State) (hs : List Half) : State :=
  let t := s.clock % 16
  let rid := s.ids
  let region : Region := { Region.blank with id := rid, asid := 1, live := true }
  let task : Task := { id := rid + 1, region := rid, coord := 0, spawned := false, again := false, sweep := none,
                       stk := none, start := s.clock, members := 1, past := [], killed := false, frames := [], out := [] }
  let c : Ctx := { Ctx.blank with
    cid := rid + 2, inc := (s.slot t).inc + 1, task := rid + 1, region := rid, pc := loadVa, npc := loadVa
    level := .sup }
  let s : State := { s with
    power := .on, agenda := [], bounds := [], timers := s.timers.filter (fun e => decide (s.clock + 16 < e.1)), last := none
    ids := rid + 3
    regions := Tab.set s.regions rid region
    tasks := Tab.set s.tasks (rid + 1) task
    mem := loadMem s.mem hs, poison := [], hist := []
    host := { s.host with dhalt := 0 }, groups := [] }
  let s := s.modDie 0 (fun d => { d with asidtb := 0, tlb := [] })
  let s := s.setCore 0 { s.core 0 with icache := [] }
  s.setSlot t { s.slot t with inc := c.inc, ctx := some c, freed := 0 }

end Sys2Proof.Machine
end

