-- ==== Sys2Proof/Machine/Step.lean ====
section
/-! DEFINITION. One step of the package, and the state that fetches a given instruction next. -/

namespace Sys2Proof.Machine

/-- One step of the package: a due step of the device, a timeout, or the turn of a slot. -/
def step (s : State) : Host.Outcome State Fault Refusal :=
  match s.power with
  | .on => nextStep s
  | .frozen => stopped s .frozen
  | .off => stopped s .powerOff

/-- The state that `s` becomes when a task that stands before the given instruction is loaded from outside (log 21):
see `loadedState`. -/
def State.withFetchWord (s : State) (nbits w : Nat) : State := loadedState s (tableOrder nbits w)

end Sys2Proof.Machine
end

