-- ==== Sys2Proof/Safety.lean ====
section
/-! DEFINITION. What counts as a safe run, in the terms that statements use: states reached by steps, predicates that
steps keep, and the canonical form of the memories. -/

namespace Sys2Proof.Machine

/-- One state steps to another. -/
def State.StepsTo (s s' : State) : Prop := step s = .next s'

/-- A state is reached from another by steps. -/
inductive State.Reaches (s : State) : State → Prop where
  | refl : State.Reaches s s
  | tail (s' s'' : State) : State.Reaches s s' → s'.StepsTo s'' → State.Reaches s s''

/-- A predicate that every step keeps. -/
def Kept (P : State → Prop) : Prop := ∀ s s', P s → s.StepsTo s' → P s'

/-- The package's memory and the host's are in canonical form. -/
def State.memOk (s : State) : Prop := Memory.wf s.mem = true ∧ Memory.wf s.hostMem = true

/-- A context issues: it stands in the slot whose turn it is. -/
def State.Issues (s : State) (c : Ctx) : Prop := (s.slot s.cur).ctx = some c

/-- A register that an instruction can write at once: no result is pending for it, and no outstanding load reads it
(R25, R295). Registers are numbered as in R27. -/
def Ctx.canWrite (c : Ctx) (n : Nat) : Prop := (n = 0 ∨ n = 80 ∨ c.isPend n = false) ∧ c.lockedBy (·.has n) = none

/-- The instruction of the issuing context completes, leaves it as `c` and goes on at the next instruction; a BSIG word
consumed with it whose block mismatches in mode 1 is noted (R364). -/
def State.completes (s : State) (c : Ctx) : Host.Outcome State Fault Refusal := 
  .next ((noteSig s s.cur c).setCtx (c.complete .seq))

/-- The same, and it goes on at a branch target. -/
def State.jumps (s : State) (c : Ctx) (t : Word) : Host.Outcome State Fault Refusal :=
  .next ((noteSig s s.cur c).setCtx (c.complete (.jump t)))

/-- The instruction of the issuing context takes a trap at its own address. -/
def State.traps (s : State) (cause : Nat) (val : Word) : Host.Outcome State Fault Refusal :=
  .next (takeTrap s { cause, val, epc := s.ctx.pc })

/-- The instruction of the issuing context parks. -/
def State.parks (s : State) (k : WaitKind) (obj : Word) : Host.Outcome State Fault Refusal :=
  .next (s.setCtx (s.ctx.parkAt s.clock k obj))

/-- Nothing that a release waits for is on its way, and no store has failed (R88, R98). -/
def Ctx.canRelease (c : Ctx) : Prop := c.quiet = true ∧ c.sfaults = []

/-- An access homed at a place is performed from where the thread stands (Table 2.8): no other die is its home, or the
region's policy sends it there. -/
def State.stays (s : State) (p : Place) : Prop :=
  match p with
  | .arr _ => True
  | .ord d => d = s.myDie ∨ (s.regionOf s.ctx).migp = 1

/-- The clocks run. -/
def State.running (s : State) : Prop := s.power = .on

end Sys2Proof.Machine
end

