-- ==== Sys2Proof/Certificates/Slice0/Obligations.lean ====
section
/-! DEFINITION. The statements for the provers. Each is about the machine for every state its hypotheses allow; the
definitions in between name the shapes that statements share. -/

open Sys2Proof Sys2Proof.Machine

namespace Sys2Proof.Machine

/-! Shapes of results: scalar instructions in register form (R138, Table 8.1). -/

/-- The two inputs of a binary instruction: B and C under REG, else A and B. -/
def Ctx.ins (c : Ctx) (o : Ops) (a b : Fin 64) : Word × Word :=
  match o.c with
  | some k => (c.getX b, c.getX k)
  | none => (c.getX a, c.getX b)

/-- Both inputs are full. -/
def Ctx.insFull (c : Ctx) (o : Ops) (a b : Fin 64) : Prop :=
  match o.c with
  | some k => c.isFull b = true ∧ c.isFull k = true
  | none => c.isFull a = true ∧ c.isFull b = true

/-- A binary instruction writes a function of Q and its inputs to A, completes, and changes nothing else. -/
def BinaryGivesQ (i : Ops → Instr) (f : BitVec 4 → Word → Word → Word) : Prop :=
  ∀ (s : State) (c : Ctx) (o : Ops) (a b : Fin 64), s.Issues c → o.a = .r a → o.b = .r b → c.insFull o a b →
    c.canWrite a → exec (i o) s = s.completes (c.putX a (f o.q (c.ins o a b).1 (c.ins o a b).2))

/-- The same for a unary instruction, whose input is B. -/
def UnaryGivesQ (i : Ops → Instr) (f : BitVec 4 → Word → Word) : Prop :=
  ∀ (s : State) (c : Ctx) (o : Ops) (a b : Fin 64), s.Issues c → o.a = .r a → o.b = .r b → c.isFull b = true →
    c.canWrite a → exec (i o) s = s.completes (c.putX a (f o.q (c.getX b)))

/-- The same for a three-input instruction: B, C and the old destination. -/
def TernaryGivesQ (i : Ops → Instr) (f : BitVec 4 → Word → Word → Word → Word) : Prop :=
  ∀ (s : State) (c : Ctx) (o : Ops) (a b : Fin 64), s.Issues c → o.a = .r a → o.b = .r b → c.isFull b = true →
    c.isFull o.cx = true → c.isFull a = true → c.canWrite a →
    exec (i o) s = s.completes (c.putX a (f o.q (c.getX b) (c.getX o.cx) (c.getX a)))

/-- The same without use of Q. -/
def BinaryGives (i : Ops → Instr) (f : Word → Word → Word) : Prop := BinaryGivesQ i (fun _ => f)
def UnaryGives (i : Ops → Instr) (f : Word → Word) : Prop := UnaryGivesQ i (fun _ => f)
def TernaryGives (i : Ops → Instr) (f : Word → Word → Word → Word) : Prop := TernaryGivesQ i (fun _ => f)

/-! Shapes of results: every operand form, frame slots included (R126, R139). -/

/-- The two inputs of a binary instruction are read, in any operand form. -/
def ReadsTwo (o : Ops) (s : State) (x y : Word) (s2 : State) : Prop :=
  match o.c with
  | some k => ∃ s1, readOpd o.b 0 s = .ok x s1 ∧ readX k s1 = .ok y s2
  | none => ∃ s1, readOpd o.b 0 s = .ok y s1 ∧ readOpd o.a 1 s1 = .ok x s2

/-- A result is written to a destination that has passed its checks. -/
def Writes (p : Opd) (w : Word) (s s' : State) : Prop := ∃ d s1, prepDst p s = .ok d s1 ∧ writeDst d w s1 = .ok () s'

/-- A binary instruction in every operand form: its inputs are read, then its destination is checked and written, and
it completes. -/
def BinaryForms (i : Ops → Instr) (f : BitVec 4 → Word → Word → Word) : Prop :=
  ∀ (s : State) (o : Ops) (x y : Word) (s2 s3 : State), ReadsTwo o s x y s2 → Writes o.a (f o.q x y) s2 s3 →
    exec (i o) s = .next (complete s3 .seq)

/-- The same for a unary instruction. -/
def UnaryForms (i : Ops → Instr) (f : BitVec 4 → Word → Word) : Prop :=
  ∀ (s : State) (o : Ops) (x : Word) (s2 s3 : State), readOpd o.b 0 s = .ok x s2 → Writes o.a (f o.q x) s2 s3 →
    exec (i o) s = .next (complete s3 .seq)

/-- The same for a three-input instruction. -/
def TernaryForms (i : Ops → Instr) (f : BitVec 4 → Word → Word → Word → Word) : Prop :=
  ∀ (s : State) (o : Ops) (x y z : Word) (s1 s2 s3 s4 : State), readOpd o.b 0 s = .ok x s1 → readX o.cx s1 = .ok y s2 →
    readOpd o.a 1 s2 = .ok z s3 → Writes o.a (f o.q x y z) s3 s4 → exec (i o) s = .next (complete s4 .seq)

/-! Functions of words in the spec's own terms. -/

/-- 1 for true, 0 for false. -/
def one0 (b : Bool) : Word := if b then 1 else 0

/-- Division of R141: by 0 it gives all ones and the dividend; else it rounds toward zero. -/
def quotS (a b : Word) : Word := if b = 0 then BitVec.allOnes 64 else a.sdiv b
def quotU (a b : Word) : Word := if b = 0 then BitVec.allOnes 64 else a.udiv b
def remS (a b : Word) : Word := if b = 0 then a else a.srem b
def remU (a b : Word) : Word := if b = 0 then a else a.umod b

/-- Bits 127 to 64 of the product of the widened factors. -/
def highS (a b : Word) : Word := ((a.signExtend 128 * b.signExtend 128) >>> 64).setWidth 64
def highU (a b : Word) : Word := ((a.setWidth 128 * b.setWidth 128) >>> 64).setWidth 64

/-- ALU-A (R140, Table 8.2): the results of the binary functions. -/
def AluAResults : Prop :=
  BinaryGives .add (fun a b => a + b) ∧ BinaryGives .sub (fun a b => a - b) ∧ BinaryGives .and (fun a b => a &&& b) ∧
  BinaryGives .or (fun a b => a ||| b) ∧ BinaryGives .xor (fun a b => a ^^^ b) ∧
  BinaryGives .andn (fun a b => a &&& ~~~b) ∧ BinaryGives .shl (fun a b => a <<< (b.extractLsb' 0 6)) ∧
  BinaryGives .shr (fun a b => a >>> (b.extractLsb' 0 6)) ∧
  BinaryGives .sha (fun a b => a.sshiftRight' (b.extractLsb' 0 6)) ∧
  BinaryGives .rol (fun a b => a.rotateLeft (b.extractLsb' 0 6).toNat) ∧ BinaryGives .slt (fun a b => one0 (a.slt b)) ∧
  BinaryGives .sltu (fun a b => one0 (a.ult b)) ∧ BinaryGives .seq (fun a b => one0 (decide (a = b))) ∧
  BinaryGives .min (fun a b => if a.slt b then a else b) ∧ BinaryGives .max (fun a b => if a.slt b then b else a) ∧
  UnaryGives .mov (fun b => b)

/-- ALU-B (R141, Table 8.3): products, quotients, remainders and unsigned order, and ABS and NEG. -/
def AluBResults : Prop :=
  BinaryGives .mul (fun a b => a * b) ∧ BinaryGives .mulh highS ∧ BinaryGives .mulhu highU ∧
  BinaryGives .div quotS ∧ BinaryGives .divu quotU ∧ BinaryGives .rem remS ∧ BinaryGives .remu remU ∧
  BinaryGives .minu (fun a b => if a.ult b then a else b) ∧ BinaryGives .maxu (fun a b => if a.ult b then b else a) ∧
  UnaryGives .abs (fun b => if b.slt 0 then 0 - b else b) ∧ UnaryGives .neg (fun b => 0 - b)

/-- The number of leading zeros of a word. -/
def LeadingZeros (v n : Word) : Prop :=
  if v = 0 then n = 64 else n.toNat < 64 ∧ v.getLsbD (63 - n.toNat) = true ∧ ∀ j, 63 - n.toNat < j → v.getLsbD j = false

/-- The number of trailing zeros of a word. -/
def TrailingZeros (v n : Word) : Prop :=
  if v = 0 then n = 64 else n.toNat < 64 ∧ v.getLsbD n.toNat = true ∧ ∀ j, j < n.toNat → v.getLsbD j = false

/-- Bit `i` of what BFX gives for a value and a specifier (R142). -/
def bfxBit (v spec : Word) (i : Nat) : Bool :=
  let pos := (spec.extractLsb' 0 6).toNat
  let len := min (spec.extractLsb' 8 7).toNat (64 - pos)
  if i < len then v.getLsbD (pos + i) else spec.getLsbD 15 && decide (0 < len) && v.getLsbD (pos + len - 1)

/-- Bit `i` of what BFI gives for a value, a specifier and the old destination (R142). -/
def bfiBit (v spec d : Word) (i : Nat) : Bool :=
  let pos := (spec.extractLsb' 0 6).toNat
  let len := min (spec.extractLsb' 8 7).toNat (64 - pos)
  if pos ≤ i ∧ i < pos + len then v.getLsbD (i - pos) else d.getLsbD i

end Sys2Proof.Machine

/-- Bit counts and bit fields (R141, R142): CLZ, CTZ and POPC count; BFX gives the len bits from pos, extended with the top one
where spec[15] is 1; BFI puts the low len bits of B at pos into its old destination; no other bit of the specifier acts. -/
def Obligations.BitCountsAndFields : Prop :=
  (∃ f, UnaryGives .clz f ∧ ∀ v, LeadingZeros v (f v)) ∧ (∃ f, UnaryGives .ctz f ∧ ∀ v, TrailingZeros v (f v)) ∧
  (∃ f, UnaryGives .popc f ∧ ∀ v, (f v).toNat = ((List.range 64).map (fun i => (v.getLsbD i).toNat)).sum) ∧
  (∃ f, BinaryGives .bfx f ∧ ∀ v spec, ∀ i < 64, (f v spec).getLsbD i = bfxBit v spec i) ∧
  (∃ f, TernaryGives .bfi f ∧ ∀ v spec d, ∀ i < 64, (f v spec d).getLsbD i = bfiBit v spec d i)

namespace Sys2Proof.Machine

/-- ADDI and MOVI (R143), and NOP and PF, which only go on (R146, R176). -/
def ImmediatesAndNop : Prop :=
  ∀ (s : State) (c : Ctx) (o : Ops), s.Issues c →
    (c.isFull o.a.x = true → c.canWrite o.a.x →
      exec (.addi o) s = s.completes (c.putX o.a.x (c.getX o.a.x + BitVec.ofInt 64 o.imm))) ∧
    (c.canWrite o.a.x → exec (.movi o) s = s.completes (c.putX o.a.x (BitVec.ofInt 64 o.imm))) ∧
    exec (.nop o) s = s.completes c ∧ exec (.pf o) s = s.completes c

end Sys2Proof.Machine

/-- ALU-A, ALU-B, ADDI and MOVI complete with the results of their tables; NOP and PF only go on. -/
def Obligations.IntegerArithmetic : Prop :=
  AluAResults ∧ AluBResults ∧ ImmediatesAndNop

namespace Sys2Proof.Machine

/-- Every operand form (R126, R138, R139): each scalar instruction computes one function, in its register form and where
a frame slot replaces B or A. -/
def ScalarOperandForms : Prop :=
  (∀ i ∈ [Instr.add, .sub, .and, .or, .xor, .andn, .shl, .shr, .sha, .rol, .slt, .sltu, .seq, .min, .max, .mul, .mulh,
      .mulhu, .div, .divu, .rem, .remu, .minu, .maxu, .bfx, .fadd, .fsub, .fmul, .fdiv, .fmin, .fmax, .fsgnj, .feq,
      .flt, .fle], ∃ f, BinaryGivesQ i f ∧ BinaryForms i f) ∧
  (∀ i ∈ [Instr.mov, .clz, .ctz, .popc, .abs, .neg, .fsqrt, .fabs, .fneg, .fclass, .fcvti, .fcvtu, .icvtf, .ucvtf,
      .fcvtf], ∃ f, UnaryGivesQ i f ∧ UnaryForms i f) ∧
  (∀ i ∈ [Instr.bfi, .fma, .fms, .fnma], ∃ f, TernaryGivesQ i f ∧ TernaryForms i f)

/-! Frame operands. -/

/-- A frame operand whose display entry is inner, at its VA. -/
def InnerSlot (c : Ctx) (d : Fin 8) (slot : Nat) (va : Word) : Prop :=
  (c.d[d]).extractLsb' 60 4 = 0 ∧ va.toNat = ((c.d[d]).toNat % 2 ^ 48 + 8 * slot) % 2 ^ 48

/-- The VA is aligned, and lies in ordinary memory or in an explicit level that the region has (R61 to R63). -/
def Accessible (s : State) (va : Word) (n : Nat) (p : Place) : Prop :=
  va.toNat % n = 0 ∧ place (s.regionOf s.ctx) s.myCore va n = some p

/-- The context with a weak load on its way. -/
def Ctx.withLoad (c : Ctx) (id n : Nat) (elems : List (Nat × Word × Option Nat)) (dst : LoadDst) (inputs : RegSet) : Ctx :=
  { c with loads := c.loads ++ [⟨id, c.seq, c.pc, n, elems, dst, inputs⟩] }

/-- The context with a weak store on its way. -/
def Ctx.withStore (c : Ctx) (id : Nat) (elems : List (Word × Option Nat × List Byte)) : Ctx :=
  { c with stores := c.stores ++ [⟨id, c.seq, elems, none⟩] }

/-- A frame operand of an inner frame (R126, R139): the read is a weak load, for which the instruction waits as for an
empty register, in a wait on object 0 (the model's choice, notes/assumptions/41.md); the value that came is then read, and
nothing is read twice. -/
def FrameOperandReads : Prop :=
  ∀ (s : State) (c : Ctx) (o : Ops) (d : Fin 8) (slot : Nat) (a : Fin 64) (va : Word) (die : Nat), s.Issues c →
    o.a = .r a → o.b = .f d slot → InnerSlot c d slot va → Accessible s va 8 (.ord die) →
    (∀ v, c.got.find? (·.1 == 0) = some (0, v) → c.canWrite a → exec (.mov o) s = s.completes (c.putX a v)) ∧
    (c.got.find? (·.1 == 0) = none → c.loads = [] → c.lfaults = [] →
      exec (.mov o) s = .next (((s.fresh.2.setCtx
        ((c.withLoad s.ids 8 [(0, va, none)] .operand {}).parkAt s.clock .reg 0)).due (.registerFill c.cid s.ids))))

/-- A frame operand as a destination of an inner frame (R126, R172): the result is a weak store. -/
def FrameOperandWrites : Prop :=
  ∀ (s : State) (c : Ctx) (o : Ops) (d : Fin 8) (slot : Nat) (b : Fin 64) (va : Word) (die : Nat), s.Issues c →
    o.a = .f d slot → o.b = .r b → InnerSlot c d slot va → Accessible s va 8 (.ord die) → c.isFull b = true →
    heldByXu s (s.regionOf c).asid va 8 = false → c.stores.length < 16 →
    exec (.mov o) s = .next (complete (((s.fresh.2.setCtx
      (c.withStore s.ids [(va, none, toBytes 8 (c.getX b).toNat)]))).due
        (.weakStorePerformed c.cid s.ids)) .seq)

end Sys2Proof.Machine

/-- Scalar instructions compute one function in every operand form; a frame operand is a weak load or a weak store.
-/
def Obligations.ScalarForms : Prop :=
  ScalarOperandForms ∧ FrameOperandReads ∧ FrameOperandWrites

namespace Sys2Proof.Machine

/-! Floating point. -/

/-- The format and the rounding mode that Q names (R155), and the bits of a register that an operand takes. -/
def precOf (q : BitVec 4) : FloatFmt := if q.getLsbD 0 then f32 else f64
def modeOf (q : BitVec 4) : Nat := (q.extractLsb' 1 2).toNat
def lowBits (q : BitVec 4) (w : Word) : Nat := w.toNat % 2 ^ (precOf q).width

/-- A function of encodings as a function of registers. -/
def over1 (f : FloatFmt → Nat → Nat → Nat) (q : BitVec 4) (a : Word) : Word := wd (f (precOf q) (modeOf q) (lowBits q a))
def over2 (f : FloatFmt → Nat → Nat → Nat → Nat) (q : BitVec 4) (a b : Word) : Word :=
  wd (f (precOf q) (modeOf q) (lowBits q a) (lowBits q b))
def over3 (f : FloatFmt → Nat → Nat → Nat → Nat → Nat) (q : BitVec 4) (a b c : Word) : Word :=
  wd (f (precOf q) (modeOf q) (lowBits q a) (lowBits q b) (lowBits q c))

/-- FADD to FNMA (R155, Table 8.8): the register results of the format's functions. -/
def FpArithmetic : Prop :=
  BinaryGivesQ .fadd (over2 FloatFmt.add) ∧ BinaryGivesQ .fsub (over2 FloatFmt.sub) ∧
  BinaryGivesQ .fmul (over2 FloatFmt.mul) ∧ BinaryGivesQ .fdiv (over2 FloatFmt.div) ∧
  UnaryGivesQ .fsqrt (over1 FloatFmt.sqrt) ∧ BinaryGivesQ .fmin (over2 (fun f _ => f.pick false)) ∧
  BinaryGivesQ .fmax (over2 (fun f _ => f.pick true)) ∧
  UnaryGivesQ .fabs (over1 (fun f _ a => a &&& (f.signBit - 1))) ∧
  UnaryGivesQ .fneg (over1 (fun f _ a => a ^^^ f.signBit)) ∧
  BinaryGivesQ .fsgnj (over2 (fun f _ a b => (a &&& (f.signBit - 1)) ||| (b &&& f.signBit))) ∧
  TernaryGivesQ .fma (over3 (fun f m => f.fma m false false)) ∧ TernaryGivesQ .fms (over3 (fun f m => f.fma m false true)) ∧
  TernaryGivesQ .fnma (over3 (fun f m => f.fma m true false))

/-- A value as a rational number. -/
def Fp.rat : Fp → Option ℚ
  | .num s m e => some ((if s then -1 else 1) * m * (2 : ℚ) ^ e)
  | _ => none

/-- The four IEEE formats of Table 6.1. -/
def ieeeFormats : List FloatFmt := [f16, bf16, f32, f64]

/-- The value of a magnitude encoding (R103); the encoding of infinity stands for the next power of two. -/
def FloatFmt.mag (f : FloatFmt) (k : Nat) : ℚ :=
  if k / 2 ^ f.fb = 0 then k * (2 : ℚ) ^ (1 - (f.bias : ℤ) - f.fb)
  else (2 ^ f.fb + k % 2 ^ f.fb : ℕ) * (2 : ℚ) ^ ((k / 2 ^ f.fb : ℕ) - (f.bias : ℤ) - f.fb)

/-- A magnitude rounded to a magnitude encoding (Table 6.2 and IEEE 754 on overflow). -/
def Rounds (f : FloatFmt) (mode : Nat) (neg : Bool) (x : ℝ) (k : Nat) : Prop :=
  k ≤ f.infBits ∧
  (if mode = 0 then
      ∀ j ≤ f.infBits, |x - f.mag k| ≤ |x - f.mag j| ∧ (|x - f.mag k| = |x - f.mag j| → j = k ∨ k % 2 = 0)
    else if mode = 1 ∨ (mode = 2 ∧ neg = false) ∨ (mode = 3 ∧ neg = true) then
      k < f.infBits ∧ f.mag k ≤ x ∧ (x < f.mag (k + 1) ∨ k + 1 = f.infBits)
    else (x ≤ f.mag k ∨ k = f.infBits) ∧ (k = 0 ∨ f.mag (k - 1) < x))

/-- A real number rounded once to an encoding with its sign. -/
def RoundedTo (f : FloatFmt) (mode : Nat) (x : ℝ) (r : Nat) : Prop :=
  if x = 0 then r = 0 ∨ r = f.signBit
  else ∃ k, Rounds f mode (decide (x < 0)) |x| k ∧ r = (if x < 0 then f.signBit else 0) + k

/-- Encodings and values (R103): a finite encoding stands for its magnitude with its sign, and a value read from an
encoding encodes as it under every mode. -/
def FpEncodings : Prop :=
  ∀ f ∈ ieeeFormats, ∀ mode < 4, ∀ k < f.infBits, ∀ neg : Bool,
    let b := (if neg then f.signBit else 0) + k
    (f.decode b).rat = some ((if neg then -1 else 1) * f.mag k) ∧ f.encode mode (f.decode b) = b

/-- Sums, products and fused sums of finite operands (R104, R105) round the exact real result once. -/
def FpExactSums : Prop :=
  ∀ f ∈ ieeeFormats, ∀ mode < 4, ∀ (a b c : Nat) (x y z : ℚ), (f.decode a).rat = some x → (f.decode b).rat = some y →
    (f.decode c).rat = some z →
    RoundedTo f mode (x + y : ℚ) (f.add mode a b) ∧ RoundedTo f mode (x - y : ℚ) (f.sub mode a b) ∧
    RoundedTo f mode (x * y : ℚ) (f.mul mode a b) ∧ RoundedTo f mode (x * y + z : ℚ) (f.fma mode false false a b c) ∧
    RoundedTo f mode (x * y - z : ℚ) (f.fma mode false true a b c) ∧ RoundedTo f mode (z - x * y : ℚ) (f.fma mode true false a b c)

/-- Quotients and square roots (R104, R105) round the exact real result once. -/
def FpDivideAndRoot : Prop :=
  ∀ f ∈ ieeeFormats, ∀ mode < 4, ∀ (a b : Nat) (x y : ℚ), (f.decode a).rat = some x → (f.decode b).rat = some y →
    (y ≠ 0 → RoundedTo f mode (x / y : ℚ) (f.div mode a b)) ∧ (0 ≤ x → RoundedTo f mode (Real.sqrt (x : ℚ)) (f.sqrt mode a))

end Sys2Proof.Machine

/-- Sums, products, fused sums, quotients and square roots round the exact real result once. -/
def Obligations.FpRoundsOnce : Prop :=
  FpExactSums ∧ FpDivideAndRoot

namespace Sys2Proof.Machine

/-- Operands that are not finite, and what has no value (R105, IEEE 754): the canonical NaN, infinities and signed
zeros. -/
def FpSpecialValues : Prop :=
  ∀ f ∈ ieeeFormats, ∀ mode < 4, ∀ (a b c : Nat),
    (f.decode a = .nan ∨ f.decode b = .nan → f.add mode a b = f.nan ∧ f.sub mode a b = f.nan ∧ f.mul mode a b = f.nan ∧
      f.div mode a b = f.nan ∧ f.fma mode false false a b c = f.nan) ∧
    (f.decode a = .nan → f.sqrt mode a = f.nan) ∧
    (∀ s t, f.decode a = .inf s → f.decode b = .inf t →
      f.add mode a b = (if s = t then (if s then f.signBit else 0) + f.infBits else f.nan) ∧ f.div mode a b = f.nan ∧
      f.mul mode a b = (if s = t then 0 else f.signBit) + f.infBits) ∧
    (∀ s t m e, f.decode a = .inf s → f.decode b = .num t m e →
      f.add mode a b = (if s then f.signBit else 0) + f.infBits ∧ f.add mode b a = (if s then f.signBit else 0) + f.infBits) ∧
    (∀ s t m e, f.decode a = .inf s → f.decode b = .num t m e →
      f.mul mode a b = (if m = 0 then f.nan else (if s = t then 0 else f.signBit) + f.infBits) ∧
      f.div mode a b = (if s = t then 0 else f.signBit) + f.infBits ∧
      f.div mode b a = (if s = t then 0 else f.signBit)) ∧
    (∀ s t m n d e, f.decode a = .num s m d → f.decode b = .num t n e → n = 0 →
      f.div mode a b = (if m = 0 then f.nan else (if s = t then 0 else f.signBit) + f.infBits)) ∧
    (∀ x, (f.decode a).rat = some x → x < 0 → f.sqrt mode a = f.nan) ∧
    (∀ x, (f.decode a).rat = some x → (f.decode b).rat = some (-x) → x ≠ 0 →
      f.add mode a b = if mode = 2 then f.signBit else 0)

end Sys2Proof.Machine

/-- Encodings of the four binary formats stand for their values; NaN, infinities and signed zeros as IEEE 754 has
them. -/
def Obligations.FpEncodingsAndSpecialValues : Prop :=
  FpEncodings ∧ FpSpecialValues

namespace Sys2Proof.Machine

/-- FMIN, FMAX, FEQ, FLT, FLE and FCLASS (R156, R157, Table 8.9). -/
def FpOrder : Prop :=
  (BinaryGivesQ .feq (over2 (fun f _ a b => (f.eq a b).toNat)) ∧ BinaryGivesQ .flt (over2 (fun f _ a b => (f.lt a b).toNat)) ∧
    BinaryGivesQ .fle (over2 (fun f _ a b => (f.le a b).toNat)) ∧
    UnaryGivesQ .fclass (over1 (fun f _ a => 2 ^ f.classBit a))) ∧
  ∀ f ∈ ieeeFormats, ∀ (a b : Nat),
    (f.decode a = .nan → f.decode b ≠ .nan → f.pick true a b = b ∧ f.pick false a b = b ∧ f.pick true b a = b ∧
      f.pick false b a = b) ∧
    (f.decode a = .nan → f.decode b = .nan → f.pick true a b = f.nan ∧ f.pick false a b = f.nan) ∧
    (f.decode a = .nan ∨ f.decode b = .nan → f.eq a b = false ∧ f.lt a b = false ∧ f.le a b = false) ∧
    (∀ x y, (f.decode a).rat = some x → (f.decode b).rat = some y →
      (f.eq a b = true ↔ x = y) ∧ (f.lt a b = true ↔ x < y) ∧ (f.le a b = true ↔ x ≤ y) ∧
      (x < y → f.pick false a b = a ∧ f.pick true a b = b) ∧ (y < x → f.pick false a b = b ∧ f.pick true a b = a)) ∧
    f.pick false f.signBit 0 = f.signBit ∧ f.pick false 0 f.signBit = f.signBit ∧ f.pick true f.signBit 0 = 0 ∧
    f.pick true 0 f.signBit = 0

/-- Conversions (R102, R157): to an integer by rounding, then saturating, NaN giving 0; from an integer and between
precisions by rounding once. -/
def FpConversions : Prop :=
  (UnaryGivesQ .fcvti (fun q w => BitVec.ofInt 64 (((precOf q).decode (lowBits q w)).toInt (modeOf q) (-2 ^ 63) (2 ^ 63 - 1))) ∧
    UnaryGivesQ .fcvtu (fun q w => BitVec.ofInt 64 (((precOf q).decode (lowBits q w)).toInt (modeOf q) 0 (2 ^ 64 - 1))) ∧
    UnaryGivesQ .icvtf (fun q w => wd ((precOf q).encode (modeOf q) (Fp.ofInt w.toInt))) ∧
    UnaryGivesQ .ucvtf (fun q w => wd ((precOf q).encode (modeOf q) (Fp.ofInt w.toNat))) ∧
    UnaryGivesQ .fcvtf (fun q w => wd ((precOf q).encode (modeOf q)
      (if q.getLsbD 0 then f64.decode w.toNat else f32.decode (w.toNat % 2 ^ 32))))) ∧
  (∀ f ∈ ieeeFormats, ∀ mode < 4, ∀ n : ℤ, RoundedTo f mode n (f.encode mode (Fp.ofInt n))) ∧
  (∀ mode < 4, ∀ (lo hi : ℤ) (v : Fp), lo ≤ 0 → 0 < hi →
    (v = .nan → v.toInt mode lo hi = 0) ∧ (∀ s, v = .inf s → v.toInt mode lo hi = if s then lo else hi) ∧
    ∀ x, v.rat = some x → ∃ n : ℤ, v.toInt mode lo hi = max lo (min hi n) ∧
      (if mode = 0 then |x - n| ≤ 1 / 2 ∧ (|x - n| = 1 / 2 → n % 2 = 0) else |x - n| < 1) ∧
      (mode = 1 → |(n : ℚ)| ≤ |x|) ∧ (mode = 2 → (n : ℚ) ≤ x) ∧ (mode = 3 → x ≤ n))

end Sys2Proof.Machine

/-- Scalar floating point: arithmetic, order, classes and conversions complete with the results of the formats. -/
def Obligations.FpArithmeticOrderConversion : Prop :=
  FpArithmetic ∧ FpOrder ∧ FpConversions

namespace Sys2Proof.Machine

/-! Branches. -/

/-- The target of a relative branch (R132): two times the offset from the instruction's address, modulo 2^56. -/
def tgt (c : Ctx) (o : Ops) : Word := (BitVec.ofInt 56 ((c.pc.toNat : ℤ) + 2 * o.imm)).setWidth 64

/-- A branch taken to `t`, which leaves the context as `c`: it lands, or takes cause 0x03 and does nothing (R136). -/
def Lands (i : Instr) (s : State) (c : Ctx) (t : Word) : Prop :=
  (landingBad s s.ctx s.myCore t = false → exec i s = s.jumps c t) ∧
  (landingBad s s.ctx s.myCore t = true → exec i s = s.traps 0x03 t)

/-- A conditional branch reads registers of its gang's leader (R30), parks while one is empty, and goes on at the next
instruction or at its target. -/
def Conditional (i : Ops → Instr) (two : Bool) (taken : Word → Word → Bool) : Prop :=
  ∀ (s : State) (c l : Ctx) (o : Ops), s.Issues c → (s.slot s.leader).ctx = some l →
    (l.isFull o.a.x = false → exec (i o) s = s.parks .reg (wd o.a.x.val)) ∧
    (l.isFull o.a.x = true → (two = true → l.isFull o.cx = true) →
      (taken (l.getX o.a.x) (l.getX o.cx) = false → exec (i o) s = s.completes c) ∧
      (taken (l.getX o.a.x) (l.getX o.cx) = true → Lands (i o) s c (tgt c o)))

/-- BEQZ, BNEZ and the compare-branches (R30, R132, R136, R144). -/
def ConditionalBranches : Prop :=
  Conditional .beqz false (fun a _ => decide (a = 0)) ∧ Conditional .bnez false (fun a _ => decide (a ≠ 0)) ∧
  Conditional .beq true (fun a b => decide (a = b)) ∧ Conditional .bne true (fun a b => decide (a ≠ b)) ∧
  Conditional .blt true (fun a b => a.slt b) ∧ Conditional .bge true (fun a b => !a.slt b) ∧
  Conditional .bltu true (fun a b => a.ult b) ∧ Conditional .bgeu true (fun a b => !a.ult b)

/-- BR and CALL (R132, R136, R144). -/
def BranchAndCall : Prop :=
  ∀ (s : State) (c : Ctx) (o : Ops), s.Issues c →
    Lands (.br o) s c (tgt c o) ∧ (c.canWrite 1 → Lands (.call o) s (c.putX 1 c.npc) (tgt c o))

/-- A computed branch to `t` with its checks in the order of R145. -/
def ComputedTo (i : Instr) (s : State) (c : Ctx) (t : Word) : Prop :=
  (t.getLsbD 0 = true → exec i s = s.traps 0x05 t) ∧
  (t.getLsbD 0 = false → 2 ^ 56 ≤ t.toNat → exec i s = s.traps 0x08 t) ∧
  (t.getLsbD 0 = false → t.toNat < 2 ^ 56 → Lands i s c t)

/-- JMPR, CALLR and RET (R132, R136, R145): CALLR reads its target before it writes x1. -/
def ComputedBranches : Prop :=
  ∀ (s : State) (c l : Ctx) (o : Ops) (b : Fin 64), s.Issues c → (s.slot s.leader).ctx = some l → o.b = .r b →
    (l.isFull b = true → ComputedTo (.jmpr o) s c (l.getX b)) ∧
    (l.isFull b = true → c.canWrite 1 → ComputedTo (.callr o) s (c.putX 1 c.npc) (l.getX b)) ∧
    (l.isFull 1 = true → ComputedTo (.ret o) s c (l.getX 1))

/-- The landing rule (R136): with PLUMB off nothing is a bad landing; else a landing on a halfword that can be fetched is
bad exactly where that is no BSIG word. -/
def LandingRule : Prop :=
  ∀ (s : State) (c : Ctx) (core : Nat) (t : Word),
    (c.plumb.extractLsb' 0 2 = 0 → landingBad s c core t = false) ∧
    (c.plumb.extractLsb' 0 2 ≠ 0 → ∀ h, (fetchHalf s c core t).1 = .ok h →
      landingBad s c core t = decide (h.toNat < 0xE000 ∨ 0xE800 ≤ h.toNat)) ∧
    (∀ e, (fetchHalf s c core t).1 = .error e → landingBad s c core t = false)

end Sys2Proof.Machine

/-- Branches, calls and returns go to their targets or trap, and landings follow the landing rule. -/
def Obligations.BranchesAndCalls : Prop :=
  ConditionalBranches ∧ BranchAndCall ∧ ComputedBranches ∧ LandingRule

namespace Sys2Proof.Machine

/-! Loops. -/

/-- The BSIG word consumed with the instruction is done with before what the instruction itself does (R362, R363). -/
def State.tookSig (s : State) (c : Ctx) : State := (noteSig s s.cur c).setCtx c.takeSig

/-- An instruction ends the comparison of its block, leaves the context's loops as given, and goes on at an address under
the loop-end test (R149, R151, R363). -/
def State.goesOn (s : State) (c : Ctx) (loops : List Loop) (t : Word) : Host.Outcome State Fault Refusal :=
  .next (complete ((s.tookSig c).setCtx { c.takeSig with loops, blk := { c.takeSig.blk with valid := false } }) (.onto t))

/-- The context with a loop pushed (R149). -/
def Ctx.pushLoop (c : Ctx) (stop n : Word) : Ctx := { c with loops := ⟨c.npc, stop, n, {}⟩ :: c.loops }

/-- The end of a loop (R149), an exact number: two times the offset from the instruction's address. -/
def loopStop (c : Ctx) (o : Ops) : ℤ := c.pc.toNat + 2 * o.imm

/-- What LOOP and LOOPI do with a count (R149): undefined where the end does not follow or four loops are active; no
iteration, or a loop pushed. -/
def LoopGives (i : Instr) (s : State) (c : Ctx) (o : Ops) (n : Word) : Prop :=
  (loopStop c o ≤ c.npc.toNat ∨ c.loops.length = 4 → exec i s = s.traps 0x01 (c.npc - 2)) ∧
  (c.npc.toNat < loopStop c o → c.loops.length ≠ 4 →
    exec i s = if n = 0 then s.goesOn c c.loops (BitVec.ofInt 64 (loopStop c o))
      else .next (complete (s.setCtx (c.pushLoop (BitVec.ofInt 64 (loopStop c o)) n)) .enter))

/-- LOOP, LOOPI and LOOPX (R149, R151). -/
def LoopInstructions : Prop :=
  ∀ (s : State) (c l : Ctx) (o : Ops), s.Issues c → (s.slot s.leader).ctx = some l →
    (l.isFull o.a.x = true → LoopGives (.loop o) s c o (l.getX o.a.x)) ∧
    LoopGives (.loopi o) s c o (BitVec.ofNat 64 o.a.num) ∧
    ∀ k : Nat, o.imm = k →
      (∀ p, k ≤ 3 → c.loops[k]? = some p → exec (.loopx o) s = s.goesOn c (c.loops.drop (k + 1)) p.stop) ∧
      (3 < k ∨ c.loops.length ≤ k → exec (.loopx o) s = s.traps 0x01 (c.npc - 2))

/-- The loop-end test of R150 from an address and the active loops, innermost first, to where the thread goes on. -/
inductive LoopTest : Word → List Loop → Word → List Loop → Prop where
  | none (npc : Word) : LoopTest npc [] npc []
  | inside (npc : Word) (l : Loop) (ls : List Loop) : npc ≠ l.stop → LoopTest npc (l :: ls) npc (l :: ls)
  | back (npc : Word) (l : Loop) (ls : List Loop) : npc = l.stop → l.left ≠ 1 →
      LoopTest npc (l :: ls) l.start ({ l with left := l.left - 1 } :: ls)
  | pop (npc pc : Word) (l : Loop) (ls ls' : List Loop) : npc = l.stop → l.left = 1 → LoopTest npc ls pc ls' →
      LoopTest npc (l :: ls) pc ls'

/-- What completing leaves (R23, R150, R152, R154): the loop-end test outside the Trap state and after no branch, and
the count of instructions at user level. -/
def CompletionAndLoopEnd : Prop :=
  ∀ (c : Ctx) (t : Word),
    (c.inTrap = false → LoopTest t c.loops (c.complete (.onto t)).pc (c.complete (.onto t)).loops) ∧
    (c.inTrap = false → c.replay = none → c.complete .seq = c.complete (.onto c.npc)) ∧
    (c.inTrap = true → (c.complete (.onto t)).pc = t ∧ (c.complete (.onto t)).loops = c.loops) ∧
    ((c.complete (.jump t)).pc = t ∧ (c.complete (.jump t)).loops = c.loops) ∧
    ((c.complete .enter).pc = c.npc) ∧
    ∀ k ∈ [Ctl.seq, .onto t, .jump t, .enter, .trapAfter 0x10 t],
      (c.complete k).icount = (if c.level = .user then c.icount + 1 else c.icount) ∧ (c.complete k).run = .running ∧
      (c.complete k).wait = none ∧ (c.complete k).x = c.x ∧ (c.complete k).v = c.v ∧ (c.complete k).m = c.m ∧
      (c.complete k).xfe = c.xfe ∧ (c.complete k).vtype = c.vtype ∧ (c.complete k).d = c.d ∧ (c.complete k).level = c.level ∧
      (c.complete k).tstat = c.tstat ∧ (c.complete k).cb = c.cb ∧ (c.complete k).loads = c.loads ∧
      (c.complete k).stores = c.stores

end Sys2Proof.Machine

/-- LOOP, LOOPI and LOOPX, the loop-end test, and what completing an instruction leaves. -/
def Obligations.HardwareLoops : Prop :=
  LoopInstructions ∧ CompletionAndLoopEnd

namespace Sys2Proof.Machine

/-! Traps. -/

/-- A trap is taken here: not in the Trap state, by a cause that has a handler, in no gang and at no barrier, with a landing
that is not bad. -/
def CanTrap (s : State) (c : Ctx) (e : Exc) : Prop :=
  c.inTrap = false ∧ e.cause ∉ [0x04, 0x0A, 0x0D] ∧ (s.regionOf c).tvec ≠ 0 ∧ c.inGang = false ∧ c.barrier = none ∧
  landingBad (s.setCtx (c.enterTrap e (s.regionOf c).tvec)) (c.enterTrap e (s.regionOf c).tvec) s.myCore
    (s.regionOf c).tvec = false

/-- Trap entry (R293): the trap registers, the level and the pc; nothing else that a program sees changes. -/
def TrapEntry : Prop :=
  ∀ (s : State) (c : Ctx) (cause : Nat) (val epc : Word), s.Issues c → cause < 256 →
    CanTrap s c { cause, val, epc } →
    ∃ c', takeTrap s { cause, val, epc } = s.setCtx c' ∧ c'.tepc = epc ∧ c'.tcause = BitVec.ofNat 64 cause ∧ c'.tval = val ∧
      c'.tlpc = c.tlpc ∧ c'.level = .sup ∧ c'.inTrap = true ∧ c'.tstat.getLsbD 0 = decide (c.level = .sup) ∧
      (∀ n, 2 ≤ n → c'.tstat.getLsbD n = c.tstat.getLsbD n) ∧ c'.pc = (s.regionOf c).tvec ∧ c'.run = .running ∧
      c'.wait = none ∧ c'.x = c.x ∧ c'.v = c.v ∧ c'.m = c.m ∧ c'.xfe = c.xfe ∧ c'.vfe = c.vfe ∧ c'.mfe = c.mfe ∧
      c'.loops = c.loops ∧ c'.d = c.d ∧ c'.j = c.j ∧ c'.o = c.o ∧ c'.tags = c.tags ∧ c'.cb = c.cb ∧ c'.te = c.te ∧
      c'.stores = c.stores ∧ c'.tscr = c.tscr ∧ c'.vtype = c.vtype ∧ c'.wlim = c.wlim ∧ c'.gstat = c.gstat ∧
      c'.icount = c.icount ∧ c'.evt = c.evt

/-- A trap that has no handler kills (R293, R294): in the Trap state with DOUBLE set, and by causes 0x04, 0x0A and 0x0D
or where TVEC is 0 with DOUBLE clear. -/
def TrapKills : Prop :=
  ∀ (s : State) (c : Ctx) (cause : Nat) (val epc : Word), s.Issues c →
    (c.inTrap = true → takeTrap s { cause, val, epc } =
      kill s c.cid { reason := 1, cause, double := true, epc, val, lpc := epc }) ∧
    (c.inTrap = false → cause ∈ [0x04, 0x0A, 0x0D] ∨ (s.regionOf c).tvec = 0 → takeTrap s { cause, val, epc } =
      kill s c.cid { reason := 1, cause, double := false, epc, val, lpc := epc })

end Sys2Proof.Machine

/-- A trap writes the trap registers, the level and the pc and nothing else; without a handler it kills. -/
def Obligations.TrapEntryAndKills : Prop :=
  TrapEntry ∧ TrapKills

namespace Sys2Proof.Machine

/-- TRAP completes before it traps (R148): TEPC holds the address of the next instruction and TVAL the code. POOL traps
with cause 0x02 at its own address (R135). -/
def TrapAndPool : Prop :=
  ∀ (s : State) (c : Ctx) (o : Ops) (len : BitVec 11), s.Issues c →
    exec (.pool len) s = s.traps 0x02 c.pc ∧
    (CanTrap ((noteSig s s.cur c).setCtx (c.complete (.trapAfter 0x10 0))) (c.complete (.trapAfter 0x10 0))
        { cause := 0x10, val := BitVec.ofInt 64 o.imm, epc := c.npc } →
      ∃ c', exec (.trap o) s = .next ((noteSig s s.cur c).setCtx c') ∧ c'.tepc = c.npc ∧ c'.tcause = 0x10 ∧
        c'.tval = BitVec.ofInt 64 o.imm ∧ c'.pc = (s.regionOf c).tvec ∧ c'.level = .sup ∧ c'.x = c.x ∧ c'.v = c.v ∧
        c'.icount = if c.level = .user then c.icount + 1 else c.icount)

/-- ERET and ERET.R (R297, R299) with TRAP set and an even TEPC: the level of PP, the Trap state left, and the pc; with
LDR, ERET.R goes to the load at TLPC first and leads on to TEPC. That neither takes the loop-end test at TEPC is the model's
choice (notes/assumptions/37.md). -/
def TrapReturn : Prop :=
  ∀ (s : State) (c : Ctx) (o : Ops), s.Issues c → c.level = .sup → c.inGang = false →
    (c.inTrap = false → exec (.eret o) s = s.traps 0x08 0 ∧ exec (.eretR o) s = s.traps 0x08 0) ∧
    (c.inTrap = true → c.tepc.getLsbD 0 = true → exec (.eret o) s = s.traps 0x05 c.tepc ∧ exec (.eretR o) s = s.traps 0x05 c.tepc) ∧
    (c.inTrap = true → c.tepc.getLsbD 0 = false →
      ∃ c1 c2, exec (.eret o) s = .next ((noteSig s s.cur c).setCtx c1) ∧
        exec (.eretR o) s = .next ((noteSig s s.cur c).setCtx c2) ∧
        (∀ c' ∈ [c1, c2], c'.inTrap = false ∧ c'.level = (if c.tstat.getLsbD 0 then .sup else .user) ∧ c'.run = .running ∧
          c'.x = c.x ∧ c'.v = c.v ∧ c'.m = c.m ∧ c'.loops = c.loops ∧ c'.icount = c.icount ∧ c'.tepc = c.tepc) ∧
        c1.pc = c.tepc ∧ c1.tstat.getLsbD 3 = c.tstat.getLsbD 3 ∧
        (if c.tstat.getLsbD 3 then c2.pc = c.tlpc ∧ c2.tstat.getLsbD 3 = false ∧
            c2.replay = some c.tepc ∧ (c2.complete .seq).pc = c.tepc
          else c2.pc = c.tepc))

end Sys2Proof.Machine

/-- TRAP and POOL take their exceptions; ERET and ERET.R restore level and pc and leave the Trap state. -/
def Obligations.TrapInstructionAndReturn : Prop :=
  TrapAndPool ∧ TrapReturn

namespace Sys2Proof.Machine

/-! Control registers. -/

/-- What a read of each register gives the issuing thread (Tables 2.4 to 2.7, 8.6, 8.7, 9.14, 10.1, 19.1, 19.2, 21.7,
23.2), but for SLOTS and OWNERS. -/
def csrTable (s : State) (c : Ctx) : List (Nat × Word) :=
  [(0x000, c.vtype), (0x001, c.cb), (0x002, c.te), (0x003, c.wlim), (0x004, c.gstat), (0x005, c.xfe ||| 1),
    (0x006, BitVec.ofNat 64 s.cur), (0x007, c.inc.setWidth 64), (0x008, BitVec.ofNat 64 s.clock), (0x009, c.icount),
    (0x00A, (c.plumb &&& ~~~(0xC : Word)) ||| (s.plfloor.setWidth 64 <<< 2)),
    (0x00B, match s.myDie with | 0 => 0x0150 | 1 => 0x8375 | 2 => 0x604A | _ => 0xE26F), (0x00C, c.rstat),
    (0x100, c.tstat), (0x101, c.tepc), (0x102, c.tcause), (0x103, c.tval), (0x104, c.tlpc), (0x105, (s.regionOf c).tvec),
    (0x106, c.tscr[0]), (0x107, c.tscr[1]), (0x108, c.tscr[2]), (0x109, c.tscr[3]), (0x10A, c.evt),
    (0x10B, (s.regionOf c).asid.setWidth 64)]

/-- A register number that the level of a context allows (R290). -/
def Ctx.mayUse (c : Ctx) (n : Nat) : Prop := n < 0x100 ∨ (n < 0x400 ∧ c.level = .sup)

/-- The code of a slot (Table 19.1), whose context stands in no gang. -/
def SlotShows (s : State) (t : Nat) : Prop :=
  ((s.slot t).ctx = none → slotCode s t = if (s.slot t).scrub then 5 else 0) ∧
  ∀ c, (s.slot t).ctx = some c → (c.inTrap = true → slotCode s t = 4) ∧
    (c.inTrap = false → c.inGang = false → slotCode s t = match c.run with | .running => 1 | .parked => 2 | .away => 3)

/-- CSRR (R153) gives the value of the register that the number names, and changes nothing but its destination; SLOTS and OWNERS
show the sixteen slots of the core (R312). It never parks (R26): while an outstanding load reads its destination it stays at its
place, which is the model's reading of R26 beside R295 (notes/assumptions/43.md). A read of CB observes the copies whose tags it
shows (R80). -/
def CsrReads : Prop :=
  (∀ (s : State) (t : Nat), SlotShows s t) ∧
  ∀ (s : State) (c : Ctx) (o : Ops), s.Issues c → c.mayUse o.imm.toNat →
    let s' := s.tookSig c
    let c' := c.takeSig
    let slot (i : Nat) : Slot := s.slot (s.myCore * 16 + i)
    (c.lockedBy (·.has o.a.x.val) ≠ none → exec (.csrr o) s = .next (s.setCtx { c with run := .running, wait := none })) ∧
    (c.lockedBy (·.has o.a.x.val) = none →
      (∀ w, (o.imm.toNat, w) ∈ csrTable s' c' → o.imm ≠ 1 → exec (.csrr o) s = s'.completes (c'.putX o.a.x w)) ∧
      (o.imm = 0x10C → ∃ w, exec (.csrr o) s = s'.completes (c'.putX o.a.x w) ∧ ∀ i < 16,
        (w.extractLsb' (3 * i) 3).toNat = slotCode s' (s.myCore * 16 + i) ∧ w.getLsbD (48 + i) = (slot i).held) ∧
      (o.imm = 0x10D → ∃ w, exec (.csrr o) s = s'.completes (c'.putX o.a.x w) ∧ ∀ i < 16,
        w.extractLsb' (4 * i) 4 = (slot i).owner) ∧
      (o.imm = 1 → ∃ t, exec (.csrr o) s = .next t ∧ t.mem = s.mem ∧
        t.Issues (({ c' with done := c.done.filter (fun e => !c.cb.getLsbD e.1) } : Ctx).putX o.a.x c.cb |>.complete .seq)))

/-- Registers below the level that they need (R290): cause 0x0C with the instruction's address, and nothing is read or
written. -/
def CsrPrivilege : Prop :=
  ∀ (s : State) (c : Ctx) (o : Ops), s.Issues c → (0x400 ≤ o.imm.toNat ∨ (0x100 ≤ o.imm.toNat ∧ c.level = .user)) →
    ∀ i ∈ [Instr.csrr o, .csrw o, .csrs o, .csrc o], exec i s = s.traps 0x0C c.pc

/-- No outstanding load holds VTYPE (R295). -/
def Ctx.vtypeFree (c : Ctx) : Prop := (∀ l ∈ c.loads, l.inputs.vtype = false) ∧ ∀ l ∈ c.lfaults, l.inputs.vtype = false

/-- CSRW, CSRS and CSRC (Table 8.5) of the registers without field rules, of the write-1-to-clear registers, and of
registers that hold their value against a write. -/
def CsrWrites : Prop :=
  ∀ (s : State) (c₀ : Ctx) (o : Ops), s.Issues c₀ → c₀.isFull o.a.x = true → c₀.mayUse o.imm.toNat →
    let v := c₀.getX o.a.x
    let t := s.tookSig c₀
    let c := c₀.takeSig
    (∀ e ∈ [(0x001, c.cb, fun w => { c with cb := w }), (0x002, c.te, fun w => { c with te := w }),
        (0x101, c.tepc, fun w => { c with tepc := w }), (0x106, c.tscr[0], fun w => { c with tscr := c.tscr.set 0 w }),
        (0x107, c.tscr[1], fun w => { c with tscr := c.tscr.set 1 w }),
        (0x108, c.tscr[2], fun w => { c with tscr := c.tscr.set 2 w }),
        (0x109, c.tscr[3], fun w => { c with tscr := c.tscr.set 3 w })],
      o.imm = (e.1 : ℤ) →
        exec (.csrw o) s = t.completes (e.2.2 v) ∧ exec (.csrs o) s = t.completes (e.2.2 (e.2.1 ||| v)) ∧
        exec (.csrc o) s = t.completes (e.2.2 (e.2.1 &&& ~~~v))) ∧
    (o.imm = 0x10A → exec (.csrw o) s = t.completes { c with evt := c.evt &&& ~~~v } ∧
      exec (.csrs o) s = t.completes { c with evt := c.evt &&& ~~~v } ∧ exec (.csrc o) s = t.completes c) ∧
    (o.imm ∈ [0x006, 0x007, 0x008, 0x009, 0x00B, 0x102, 0x103, 0x104, 0x105, 0x10B, 0x10C, 0x10D] →
      exec (.csrw o) s = t.completes c ∧ exec (.csrs o) s = t.completes c ∧ exec (.csrc o) s = t.completes c)

/-- Writes of the registers with fields, one field each (R5, R6, R26, R198, R361, Tables 2.4, 2.5, 2.7, 9.14, 10.1, 19.2,
23.2): CSRW of a value `v` to register `n` gives a context that `p` describes. A write of FSTAT waits for no register. -/
def CsrFields : Prop :=
  ∀ (s : State) (c : Ctx) (o : Ops), s.Issues c → (o.imm ≠ 0x005 → c.isFull o.a.x = true) → c.mayUse o.imm.toNat →
    c.vtypeFree →
    let v := c.getX o.a.x
    ∃ c', exec (.csrw o) s = (s.tookSig c).completes c' ∧ c'.x = c.x ∧ c'.pc = c.pc ∧ c'.level = c.level ∧
      (o.imm = 0x000 → (∀ et, et = (if v.extractLsb' 12 4 < 13 then v.extractLsb' 12 4 else c.vtype.extractLsb' 12 4) →
          c'.vtype.extractLsb' 12 4 = et ∧
          (c'.vtype.extractLsb' 0 8).toNat = min (v.extractLsb' 0 8).toNat (1024 / etWidth et.toNat)) ∧
        c'.vtype.extractLsb' 18 2 = v.extractLsb' 18 2 ∧ c'.vtype.extractLsb' 33 3 = v.extractLsb' 33 3 ∧
        c'.vtype.extractLsb' 36 4 = (if v.extractLsb' 36 4 < 13 then v.extractLsb' 36 4 else c.vtype.extractLsb' 36 4) ∧
        c'.vtype &&& 0xFFFFFF01FFF30F00 = 0) ∧
      (o.imm = 0x003 → c'.wlim = v &&& 0xFFFFFFFF) ∧
      (o.imm = 0x004 → ∀ n < 64, c'.gstat.getLsbD n =
        if n = 16 then v.getLsbD 16 else if n = 7 then c.gstat.getLsbD 7 && !v.getLsbD 7 else c.gstat.getLsbD n) ∧
      (o.imm = 0x005 → ∀ n < 64, c'.xfe.getLsbD n =
        if n = 0 then true else if c.pend.x.getLsbD n then c.xfe.getLsbD n else v.getLsbD n) ∧
      (o.imm = 0x00A → (c'.plumb.extractLsb' 16 16 = v.extractLsb' 16 16) ∧
        (c'.plumb.extractLsb' 0 2).toNat = (if v.extractLsb' 0 2 = 3 then (c.plumb.extractLsb' 0 2).toNat
          else max (v.extractLsb' 0 2).toNat s.plfloor.toNat)) ∧
      (o.imm = 0x00C → ∀ n < 64, c'.rstat.getLsbD n =
        if (8 ≤ n ∧ n < 16) ∨ (24 ≤ n ∧ n < 40) then v.getLsbD n else c.rstat.getLsbD n) ∧
      (o.imm = 0x100 → ∀ n < 64, c'.tstat.getLsbD n =
        if n = 3 then c.tstat.getLsbD 3 && !v.getLsbD 3 else c.tstat.getLsbD n)

/-- Page 63 (R290, R291): at user level cause 0x0C with the instruction's address, in a gang cause 0x08 with value 0. -/
def Page63Privilege : Prop :=
  ∀ (s : State) (c : Ctx) (o : Ops), s.Issues c →
    ∀ i ∈ [Instr.eret o, .eretR o, .park o, .kill o, .scrub o, .invva o, .invasid o, .wfe o, .slotset o, .resume o,
        .resumeKill o],
      (c.level = .user → exec i s = s.traps 0x0C c.pc) ∧ (c.level = .sup → c.inGang = true → exec i s = s.traps 0x08 0)

end Sys2Proof.Machine

/-- CSRR, CSRW, CSRS and CSRC: the value read and the fields written; a register or instruction above the level
traps. -/
def Obligations.ControlRegisters : Prop :=
  CsrReads ∧ CsrWrites ∧ CsrFields ∧ CsrPrivilege ∧ Page63Privilege

namespace Sys2Proof.Machine

/-! Weak loads and stores. -/

/-- The bytes of the low `n` bytes of a word, the lowest first (R3). -/
def leBytes (n : Nat) (v : Word) : List Byte := (List.range n).map (fun i => v.extractLsb' (8 * i) 8)

/-- A number of `n` bytes extended to a word (R174). -/
def extended (n : Nat) (signed : Bool) (v : Nat) : Word :=
  if signed then (BitVec.ofNat (8 * n) v).signExtend 64 else (BitVec.ofNat (8 * n) v).setWidth 64

/-- An address that an instruction of the issuing context may access: aligned, in a level that it has, and performed from
where it stands. -/
def Reachable (s : State) (va : Word) (n : Nat) (p : Place) : Prop := Accessible s va n p ∧ s.stays p

/-- Whether an access at a place is made at once: it lies in the issuing core's scratchpad, and no earlier access of the
thread to its bytes is on its way (R65, R87). -/
def AtOnce (s : State) (c : Ctx) (p : Place) (va : Word) (n : Nat) : Prop :=
  atCore s.myCore [p.key] = true ∧ c.storesBefore (c.seq + 1) (locOf va p.key) n = false ∧
  c.loadsBefore (c.seq + 1) (locOf va p.key) n = false ∧
  c.strongBefore (c.seq + 1) (locOf va p.key) n = false

/-- The state with a weak load on its way: the destination is empty and awaits its result (R25, R172). -/
def State.loading (s : State) (c : Ctx) (n : Nat) (va : Word) (p : Place) (dst : Fin 64) (signed : Bool) (inputs : RegSet) :
    State :=
  complete ((s.fresh.2.setCtx ((c.withLoad s.ids n [(0, va, p.key)] (.x dst signed) inputs).awaitReg dst.val)).due
    (.registerFill c.cid s.ids)) .seq

/-- A weak load of `n` bytes (R65, R170, R172, R174): it goes on with its result pending, or reads the core's scratchpad. -/
def LoadGives (i : Ops → Instr) (n : Nat) (signed index : Bool) : Prop :=
  ∀ (s : State) (c : Ctx) (o : Ops) (dst : Fin 64) (va : Word) (p : Place), s.Issues c → o.a = .r dst →
    effAddr o index [] s = .ok va s → c.canWrite dst → Reachable s va n p →
    (¬AtOnce s c p va n →
      exec (i o) s = .next (s.loading c n va p dst signed (addrRegs o index))) ∧
    ∀ key, p = .arr key → AtOnce s c p va n → poisoned s key n = false →
      exec (i o) s = (weakRead s (.thread c.cid) key n).2.completes
        (c.putX dst (extended n signed (weakRead s (.thread c.cid) key n).1))

/-- A weak load of `n` bytes whose destination is a slot of an inner frame: it waits for the value as for an empty register, and
then stores it (R126, R139; the parts are the model's reading, notes/assumptions/20.md and 41.md). -/
def FrameLoadGives (i : Ops → Instr) (n : Nat) (signed index : Bool) : Prop :=
  ∀ (s : State) (c : Ctx) (o : Ops) (d : Fin 8) (slot : Nat) (dva va : Word) (die : Nat) (p : Place), s.Issues c →
    o.a = .f d slot → InnerSlot c d slot dva → Accessible s dva 8 (.ord die) →
    heldByXu s (s.regionOf c).asid dva 8 = false → c.stores.length < 16 → effAddr o index [] s = .ok va s →
    Reachable s va n p →
    (∀ v, c.got.find? (·.1 == 2) = some (2, v) → exec (i o) s = .next (complete ((s.fresh.2.setCtx
      (c.withStore s.ids [(dva, none, leBytes 8 (extended n signed v.toNat))])).due (.weakStorePerformed c.cid s.ids)) .seq)) ∧
    (c.got.find? (·.1 == 2) = none → ¬AtOnce s c p va n → c.loads = [] → c.lfaults = [] →
      exec (i o) s = .next ((s.fresh.2.setCtx
        ((c.withLoad s.ids n [(2, va, p.key)] .operand {}).parkAt s.clock .reg 0)).due (.registerFill c.cid s.ids)))

/-- LD and the loads of page 1, major 0 (R173, R174), into a register; those of page 1 also into a frame slot. -/
def WeakLoads : Prop :=
  (FrameLoadGives .ldb 1 true true ∧ FrameLoadGives .ldbu 1 false true ∧ FrameLoadGives .ldh 2 true true ∧
    FrameLoadGives .ldhu 2 false true ∧ FrameLoadGives .ldw 4 true true ∧ FrameLoadGives .ldwu 4 false true ∧ FrameLoadGives .ldd 8 false true) ∧
  LoadGives .ld 8 false false ∧ LoadGives .ldb 1 true true ∧ LoadGives .ldbu 1 false true ∧ LoadGives .ldh 2 true true ∧
  LoadGives .ldhu 2 false true ∧ LoadGives .ldw 4 true true ∧ LoadGives .ldwu 4 false true ∧ LoadGives .ldd 8 false true

/-- The address of a load or store (R169, R170): base, index and displacement; without REG the index is x0. LEA gives it
to its destination and makes no access (R176). -/
def EffectiveAddress : Prop :=
  ∀ (s : State) (c : Ctx) (o : Ops) (b : Fin 64), s.Issues c → o.b = .r b → c.isFull b = true → c.isFull o.cx = true →
    let va := c.getX b + c.getX o.cx + BitVec.ofInt 64 o.imm
    effAddr o false [] s = .ok (c.getX b + BitVec.ofInt 64 o.imm) s ∧ effAddr o true [] s = .ok va s ∧
    (o.c = none → va = c.getX b + BitVec.ofInt 64 o.imm) ∧
    ∀ a, o.a = .r a → c.canWrite a → exec (.lea o) s = s.completes (c.putX a va)

/-- LDP (R175): 16 bytes aligned to 16, as two weak loads of one instruction, into A and the register after it. -/
def LoadPair : Prop :=
  ∀ (s : State) (c : Ctx) (o : Ops) (va : Word) (die : Nat), s.Issues c → effAddr o true [] s = .ok va s →
    let d := o.a.x
    let d' : Fin 64 := d + 1
    let inputs := addrRegs o true
    let c1 := (c.withLoad s.ids 8 [(0, va, none)] (.x d false) inputs).awaitReg d
    let c2 := (c1.withLoad (s.ids + 1) 8 [(0, va + 8, none)] (.x d' false) inputs).awaitReg d'
    (c.canWrite d → c.canWrite d' → Reachable s va 16 (.ord die) →
      exec (.ldp o) s = .next (complete (((s.fresh.2.fresh.2.setCtx c2).due (.registerFill c.cid s.ids)).due
        (.registerFill c.cid (s.ids + 1))) .seq)) ∧
    (c.canWrite d → c.canWrite d' → va.toNat % 16 ≠ 0 → exec (.ldp o) s = s.traps 0x05 va)

end Sys2Proof.Machine

/-- Weak loads send an access to the address that their operands give and leave their destination pending; LEA and
LDP. -/
def Obligations.WeakLoadInstructions : Prop :=
  WeakLoads ∧ EffectiveAddress ∧ LoadPair

namespace Sys2Proof.Machine

/-- The state with a weak store on its way (R172). -/
def State.storing (s : State) (c : Ctx) (va : Word) (p : Place) (bs : List Byte) : State :=
  complete ((s.fresh.2.setCtx (c.withStore s.ids [(va, p.key, bs)])).due (.weakStorePerformed c.cid s.ids)) .seq

/-- A weak store of the low `n` bytes of A (R49, R65, R170, R172, R174): it is put on its way, where fewer than 16 are,
or performed at once in the core's scratchpad; with 16 on their way it parks. -/
def StoreGives (i : Ops → Instr) (n : Nat) (index : Bool) : Prop :=
  ∀ (s : State) (c : Ctx) (o : Ops) (va v : Word) (p : Place), s.Issues c → effAddr o index [] s = .ok va s →
    readOpd o.a 1 s = .ok v s → Accessible s va n p →
    (heldByXu s (s.regionOf c).asid va n = true → exec (i o) s = s.traps 0x08 va) ∧
    (heldByXu s (s.regionOf c).asid va n = false → s.stays p →
      (¬AtOnce s c p va n → c.stores.length < 16 → exec (i o) s = .next (s.storing c va p (leBytes n v))) ∧
      (16 ≤ c.stores.length → exec (i o) s = s.parks .none 0) ∧
      ∀ key, p = .arr key → c.stores.length < 16 → AtOnce s c p va n → storePoisoned s key n = false →
        exec (i o) s = (s.store key (leBytes n v) (.thread c.cid) c.seq none).completes c)

/-- ST and the stores of page 1, major 0 (R173, R174). -/
def WeakStores : Prop :=
  StoreGives .st 8 false ∧ StoreGives .stb 1 true ∧ StoreGives .sth 2 true ∧ StoreGives .stw 4 true ∧ StoreGives .std 8 true

/-- An access checks its address alone (R170, R178): cause 0x05 where it is not a multiple of its size, and cause 0x08
where no level holds it; both with the address as value, and nothing is done. F/E operations on ordinary memory take
cause 0x0F. -/
def AddressFaults : Prop :=
  ∀ (s : State) (c : Ctx) (o : Ops) (a : Fin 64) (va : Word), s.Issues c → o.a = .r a → c.canWrite a → c.isFull a = true →
    o.c = none →
    (∀ e ∈ [(Instr.ld, 8), (.st, 8), (.amoadd, 8), (.amoand, 8), (.amoor, 8), (.amoxor, 8), (.amomin, 8), (.amomax, 8),
        (.amominu, 8), (.amomaxu, 8), (.amoswp, 8), (.amofadd, 8), (.amoinc, 8), (.amodec, 8)], effAddr o false [] s = .ok va s →
      (va.toNat % e.2 ≠ 0 → exec (e.1 o) s = s.traps 0x05 va) ∧
      (va.toNat % e.2 = 0 → place (s.regionOf c) s.myCore va e.2 = none → exec (e.1 o) s = s.traps 0x08 va)) ∧
    (∀ e ∈ [(Instr.ldb, 1), (.ldbu, 1), (.ldh, 2), (.ldhu, 2), (.ldw, 4), (.ldwu, 4), (.ldd, 8), (.stb, 1), (.sth, 2),
        (.stw, 4), (.std, 8), (.lds, 8), (.sts, 8), (.ldf, 8), (.ldfc, 8), (.stf, 8), (.sto, 8), (.sete, 8), (.tstf, 8)],
      effAddr o true [] s = .ok va s →
      (va.toNat % e.2 ≠ 0 → exec (e.1 o) s = s.traps 0x05 va) ∧
      (va.toNat % e.2 = 0 → place (s.regionOf c) s.myCore va e.2 = none → exec (e.1 o) s = s.traps 0x08 va)) ∧
    (∀ i ∈ [Instr.ldf, .ldfc, .stf, .sto, .sete, .tstf], ∀ die, effAddr o true [] s = .ok va s → Accessible s va 8 (.ord die) →
      exec (i o) s = s.traps 0x0F va)

/-- How many of the newest stores a weak load by an agent may pass over: those that its floor allows (R91), or all where it
goes through a synonym (R336). -/
def mayPass (a : Agent) (key n : Nat) (via : Option Via) (h : List Record) : Nat :=
  if mixed key n via h then meeting key n h else passable a key n h

/-- A pending weak load that returns (R25, R87, R91, R171, R174): its register takes the extended value of the bytes
that it may read, is full again, and nothing is stored. -/
def RegisterFill : Prop :=
  ∀ (s s1 : State) (cid id : Nat) (c : Ctx) (l : PLoad) (va : Word) (pk : Option Nat) (r : Fin 64) (signed : Bool)
    (key : Nat), s.findCtx cid = some c → c.loads.find? (·.id == id) = some l → l.elems = [(0, va, pk)] →
    l.dst = .x r signed → c.storesBefore l.seq (locOf va pk) l.n = false →
    c.loadsBefore l.seq (locOf va pk) l.n = false → c.strongBefore l.seq (locOf va pk) l.n = false →
    (pk = none → recalled s cid l.seq (s.regionOf c).asid va l.n = false) →
    resolve s (s.regionOf c).asid (match pk with | some k => .arr k | none => .ord (homeDie va)) va l.n .r = (.ok key, s1) →
    ∃ (v : Nat) (s2 : State), exec (.registerFill cid id) s = .next (s2.modCtx cid (fun c =>
        ({ c with loads := c.loads.filter (·.id != l.id) } : Ctx).fillX r (extended l.n signed v))) ∧
      s2.mem = s1.mem ∧ (∃ k ≤ mayPass (.thread cid) key l.n (viaOf s1 (s.regionOf c).asid va) s1.hist,
          v = Mem.num (undo s1.mem key l.n k s1.hist) key l.n) ∧
      ∀ (c : Ctx) (w : Word), c.rfq.filter (·.1 == r) = [] →
        (c.fillX r w).getX r = (if r = 0 then 0 else w) ∧ (c.fillX r w).isFull r = true ∧ (c.fillX r w).isPend r = false

/-- A weak load by an agent (R85, R87, R91): it returns what the bytes held after some store that it may read, and no later
load by the agent returns an older one; after its own store it returns that one or a later one. Through a synonym any store to
the bytes may be returned (R336). -/
def LoadsNeverGoBack : Prop :=
  ∀ (s : State) (a : Agent) (key n : Nat),
    (∀ via, ∃ k ≤ mayPass a key n via s.hist, (weakRead s a key n via).1 = Mem.num (undo s.mem key n k s.hist) key n ∧
      passable a key n (weakRead s a key n via).2.hist ≤ k ∧ (weakRead s a key n via).2.mem = s.mem) ∧
    (∃ k ≤ passable a key n s.hist, (weakRead s a key n).1 = Mem.num (undo s.mem key n k s.hist) key n ∧
      passable a key n (weakRead s a key n).2.hist ≤ k) ∧ (weakRead s a key n).2.mem = s.mem ∧
    (strongRead s a key n).1 = Mem.num s.mem key n ∧ passable a key n (strongRead s a key n).2.hist = 0 ∧
    ∀ (bs : List Byte) (seq : Nat) (m : Option Mark), bs.length = n → 0 < n →
      passable a key n (s.store key bs a seq m).hist = 0

/-- A pending weak store that is performed (R86, R87, R98, R172): the bytes at its place become those of its data, every
other byte stays, and the store leaves the thread's list. -/
def WeakStorePerformed : Prop :=
  ∀ (s s1 : State) (cid id : Nat) (c : Ctx) (p : PStore) (va : Word) (pk : Option Nat) (bs : List Byte) (key : Nat),
    s.findCtx cid = some c → c.stores.find? (·.id == id) = some p → p.elems = [(va, pk, bs)] → p.fault = none →
    c.storesBefore p.seq (locOf va pk) bs.length = false → c.loadsBefore p.seq (locOf va pk) bs.length = false →
    c.strongBefore p.seq (locOf va pk) bs.length = false →
    (pk = none → recalled s cid p.seq (s.regionOf c).asid va bs.length = false) →
    resolve s (s.regionOf c).asid (match pk with | some k => .arr k | none => .ord (homeDie va)) va bs.length .w =
      (.ok key, s1) → pinned s1 key bs.length = false → Memory.wf s1.mem = true →
    ∃ s2 : State, exec (.weakStorePerformed cid id) s = .next (s2.modCtx cid (fun c =>
        { c with stores := c.stores.filter (·.id != id) })) ∧
      Mem.readN s2.mem key bs.length = bs ∧ ∀ a, a < key ∨ key + bs.length ≤ a → Mem.read s2.mem a = Mem.read s1.mem a

end Sys2Proof.Machine

/-- Weak stores complete with a store on its way; a store performed changes its own bytes alone. -/
def Obligations.WeakStoreInstructions : Prop :=
  WeakStores ∧ WeakStorePerformed

namespace Sys2Proof.Machine

/-- A store as one operation on memory (R3, R86, R360): it is read back, every other byte and the canonical form of the
memory stay, and a granule that it covers is correct again. -/
def StoreReadBack : Prop :=
  ∀ (s : State) (key : Nat) (bs : List Byte) (a : Agent) (seq : Nat) (m : Option Mark),
    (Memory.wf s.mem = true → Mem.readN (s.store key bs a seq m).mem key bs.length = bs) ∧
    (∀ x, x < key ∨ key + bs.length ≤ x → Mem.read (s.store key bs a seq m).mem x = Mem.read s.mem x) ∧
    (Memory.wf s.mem = true → Memory.wf (s.store key bs a seq m).mem = true) ∧
    (∀ g, key ≤ 8 * g → 8 * g + 8 ≤ key + bs.length → g ∉ (s.store key bs a seq m).poison) ∧
    (∀ g, ¬(key ≤ 8 * g ∧ 8 * g + 8 ≤ key + bs.length) → (g ∈ (s.store key bs a seq m).poison ↔ g ∈ s.poison)) ∧
    ∀ v : Word, Memory.wf s.mem = true → bs = leBytes 8 v → Mem.num (s.store key bs a seq m).mem key 8 = v.toNat

end Sys2Proof.Machine

/-- What a weak load returns fills its register; loads of one agent never go back; memory reads back what was
stored. -/
def Obligations.LoadsAndMemory : Prop :=
  RegisterFill ∧ LoadsNeverGoBack ∧ StoreReadBack

namespace Sys2Proof.Machine

/-! Strong operations. -/

/-- The state after the release that the order bit of Q asks for (R88, R93). -/
def State.released (s : State) (c : Ctx) (q : BitVec 4) : State :=
  if q.getLsbD 1 then releaseMark s (.thread c.cid) ⟨(q.extractLsb' 2 2).toNat, some s.myCore⟩ else s

/-- The state after the acquire that the order bit of Q asks for (R89, R93). -/
def State.acquired (s : State) (c : Ctx) (q : BitVec 4) : State :=
  if q.getLsbD 0 then acquireMark s (.thread c.cid) (q.extractLsb' 2 2).toNat (some s.myCore) else s

/-- The context that a device step is to go on with. -/
def Ctx.held (c : Ctx) : Ctx := { c with stage := 1 }

/-- The context after a strong operation that gives `v` (R177, R180). -/
def Ctx.took (c : Ctx) (op : StrongOp) (dst : Fin 64) (v : Word) : Ctx :=
  match op with
  | .store _ => c
  | _ => c.putX dst v

/-- A strong operation issued (R65, R92, R93, R171, R172, R177, R180): its release is done. On the issuing core's own arrays it is
performed at once. Elsewhere it is on its way, with its destination empty and awaiting the result; the thread waits for it
where it acquires or `hold` says so, and else goes on. -/
def StrongIssue (i : Instr) (s : State) (c : Ctx) (q : BitVec 4) (va : Word) (p : Place) (need : Need) (write hold : Bool)
    (dst : Fin 64) (op : StrongOp) : Prop :=
  ∀ (key : Nat) (s1 : State), c.strong = none → (q.getLsbD 1 = true → c.canRelease) → Reachable s va 8 p →
    (write = true → heldByXu s (s.regionOf c).asid va 8 = false) →
    strongKey p va need (s.released c q) = .ok key s1 → s1.Issues c →
    let near := atCore s1.myCore [p.key] && !c.storesBefore (c.seq + 1) key 8 && !c.loadsBefore (c.seq + 1) key 8
    let wait := hold || q.getLsbD 0
    let scope := (q.extractLsb' 2 2).toNat
    let t := (s1.fresh.2.setCtx
      (c.sentStrong ⟨s1.ids, c.seq, c.pc, s1.myCore, op, va, key, dst, q.getLsbD 0, scope, wait, false⟩)).dueNear key
        (.strongAccessPerformed c.cid s1.ids)
    (near = false → exec i s = .next (if wait then t.setCtx (t.ctx.parkAt s1.clock .none 0) else complete t .seq)) ∧
    (near = true → ∀ v s2, strongDo s1 (.thread c.cid) c.seq ⟨scope, some s1.myCore⟩ key none op = (v, s2) →
      exec i s = (s2.acquired c q).completes (c.took op dst v))

/-- The AMOs with their function numbers (Table 9.5). -/
def amos : List (Nat × (Ops → Instr)) :=
  [(0, .amoadd), (1, .amoand), (2, .amoor), (3, .amoxor), (4, .amomin), (5, .amomax), (6, .amominu), (7, .amomaxu),
    (8, .amoswp), (9, .amocas), (10, .amofadd), (11, .amoinc), (12, .amodec)]

/-- LDS, STS and the AMOs (R177, R179): an AMO takes its operand from C under REG, else from A; AMOCAS expects the value
of A and brings that of C; AMOINC and AMODEC take none. -/
def StrongOperations : Prop :=
  ∀ (s : State) (c : Ctx) (o : Ops) (a : Fin 64) (va : Word) (p : Place), s.Issues c → o.a = .r a →
    (effAddr o true [] s = .ok va s → c.canWrite a → StrongIssue (.lds o) s c o.q va p .r false false a .load) ∧
    (effAddr o true [] s = .ok va s → c.isFull a = true →
      StrongIssue (.sts o) s c o.q va p .w true true 0 (.store (c.getX a))) ∧
    (effAddr o false [] s = .ok va s → c.canWrite a → ∀ e ∈ amos,
      (e.1 ∉ [9, 11, 12] → o.c = none → c.isFull a = true →
        StrongIssue (e.2 o) s c o.q va p .rw true false a (.amo e.1 (c.getX a) 0)) ∧
      (e.1 ≠ 9 → ∀ k, o.c = some k → c.isFull k = true →
        StrongIssue (e.2 o) s c o.q va p .rw true false a (.amo e.1 (c.getX k) 0)) ∧
      (e.1 = 9 → ∀ k, o.c = some k → c.isFull k = true → c.isFull a = true →
        StrongIssue (e.2 o) s c o.q va p .rw true false a (.amo 9 (c.getX a) (c.getX k))) ∧
      (e.1 ∈ [11, 12] → o.c = none → StrongIssue (e.2 o) s c o.q va p .rw true false a (.amo e.1 0 0)))

/-- The word that an AMO leaves (Table 9.5). -/
def amoTable (fn : Nat) (old v cas : Word) : Word :=
  match fn with
  | 0 => old + v
  | 1 => old &&& v
  | 2 => old ||| v
  | 3 => old ^^^ v
  | 4 => if v.slt old then v else old
  | 5 => if v.slt old then old else v
  | 6 => if v.ult old then v else old
  | 7 => if v.ult old then old else v
  | 8 => v
  | 9 => if old = v then cas else old
  | 10 => BitVec.ofNat 64 (f64.add 0 old.toNat v.toNat)
  | 11 => if old = BitVec.allOnes 64 then old else old + 1
  | _ => if old = 0 then 0 else old - 1

/-- The word that a strong operation leaves at its place (R86, R177, R180). -/
def StrongOp.leaves (op : StrongOp) (old : Word) : Word :=
  match op with
  | .load => old
  | .store w => w
  | .amo fn v cas => amoTable fn old v cas

/-- The mapping through which a strong operation goes, in ordinary memory (R336). -/
def PStrong.via (p : PStrong) (s : State) (c : Ctx) : Option Via :=
  if p.key < 2 ^ 40 then viaOf s (s.regionOf c).asid p.va else none

/-- A strong operation performed (R86, R92, R172, R177, R180): in one step its word is read and written, nothing else in
memory changes, and its thread takes the old word, or goes on where it waited. Through a synonym (R336) the word read may be
an older one. -/
def StrongAccessPerformed : Prop :=
  ∀ (s : State) (cid : Nat) (c : Ctx) (p : PStrong), s.findCtx cid = some c → c.outer = [] → c.strong = some p →
    p.frame = false → c.storesBefore p.seq p.loc 8 = false → c.loadsBefore p.seq p.loc 8 = false →
    (p.op ≠ .load → pinned s p.key 8 = false) → (p.key < 2 ^ 40 → recalled s cid p.seq (s.regionOf c).asid p.va 8 = false) →
    ((∀ w, p.op ≠ .store w) → poisoned s p.key 8 = false) → Memory.wf s.mem = true →
    let old := BitVec.ofNat 64 (Mem.num s.mem p.key 8)
    ∃ (t : State) (v : Word), exec (.strongAccessPerformed cid p.id) s = .next (t.modCtx cid (fun c =>
        let c := { c with strong := none }
        match p.hold, p.op with
        | true, .store _ => c.complete .seq
        | true, _ => (c.fillX p.dst v).complete .seq
        | false, .store _ => c
        | false, _ => c.fillX p.dst v)) ∧
      (mixed p.key 8 (p.via s c) s.hist = false → (p.op.reads = true → v = old) ∧
        Mem.num t.mem p.key 8 = (p.op.leaves old).toNat) ∧
      ∀ x, x < p.key ∨ p.key + 8 ≤ x → Mem.read t.mem x = Mem.read s.mem x

end Sys2Proof.Machine

/-- LDS, STS and the atomic operations: what they ask for, and their one indivisible step. -/
def Obligations.StrongAccesses : Prop :=
  StrongOperations ∧ StrongAccessPerformed

namespace Sys2Proof.Machine

/-! Full/empty operations. -/

/-- An F/E operation (R70, R71, R73, R178, Table 4.5): `needs` the state that it waits for, `out` what its destination takes
(1 the value, 2 the tag), whether it `stores`, and the `tag` that it leaves. It is done at the array in one step, or parks
as a waiter of the word. -/
def FeGives (i : Ops → Instr) (fn : Nat) (needs : Option Bool) (out : Nat) (stores : Bool) (tag : Option Bool) : Prop :=
  ∀ (s : State) (c : Ctx) (o : Ops) (a : Fin 64) (va : Word) (key : Nat), s.Issues c → o.a = .r a →
    effAddr o true [] s = .ok va s → Accessible s va 8 (.arr key) → c.strong = none →
    c.storesBefore (c.seq + 1) key 8 = false → c.loadsBefore (c.seq + 1) key 8 = false →
    (o.q.getLsbD 1 = true → c.canRelease) → (out ≠ 0 → c.canWrite a) → (stores = true → c.isFull a = true) →
    (out = 1 → poisoned s key 8 = false) → Memory.wf s.mem = true →
    let v := if stores then c.getX a else 0
    (needs ≠ some (!isFull s key) →
      ∃ t : State, exec (i o) s = t.completes (match out with
          | 0 => c
          | 1 => c.putX a (BitVec.ofNat 64 (Mem.num s.mem key 8))
          | _ => c.putX a (if isFull s key then 1 else 0)) ∧
        isFull t key = tag.getD (isFull s key) ∧ (∀ k, k ≠ key → isFull t k = isFull s k) ∧
        (stores = true → Mem.num t.mem key 8 = v.toNat ∧ ∀ x, x < key ∨ key + 8 ≤ x → Mem.read t.mem x = Mem.read s.mem x) ∧
        (stores = false → t.mem = s.mem) ∧ t.slots = s.slots ∧ t.cur = s.cur ∧
        (isFull t key ≠ isFull s key → .feWordStateChange key ∈ t.agenda)) ∧
    (needs = some (!isFull s key) →
      exec (i o) s = .next ((s.released c o.q).setCtx (({ c.held with fe := some ⟨fn, key, va, v, if out = 0 then 0 else a,
        o.q.getLsbD 0, (o.q.extractLsb' 2 2).toNat, false⟩ } : Ctx).parkAt s.clock .fe va)))

/-- LDF, LDFC, STF, STO, SETE and TSTF (Table 4.5, Table 9.4). -/
def FullEmptyOperations : Prop :=
  FeGives .ldf 0 (some true) 1 false none ∧ FeGives .ldfc 1 (some true) 1 false (some false) ∧
  FeGives .stf 2 (some false) 0 true (some true) ∧ FeGives .sto 3 none 0 true (some true) ∧
  FeGives .sete 4 none 0 false (some false) ∧ FeGives .tstf 5 none 2 false none

/-- A word whose state has changed serves one of its waiters (R73): in one step the waiter's operation is done, and its
instruction completes. -/
def FullEmptyWaiter : Prop :=
  ∀ (s : State) (key : Nat), feWaiters s key ≠ [] → poisoned s key 8 = false →
    (∀ t ∈ feWaiters s key, ∃ c w, (s.slot t).ctx = some c ∧ c.fe = some w ∧ w.key = key ∧ feReady s w.fn key = true ∧
      s.slotOf c.cid = some t) →
    ∃ t ∈ feWaiters s key, ∃ c w, (s.slot t).ctx = some c ∧ c.fe = some w ∧ w.key = key ∧
      ∃ s', exec (.feWordStateChange key) s = .next s' ∧ s'.cur = s.cur ∧
        (w.fn = 0 ∧ w.frame = false → isFull s' key = true ∧ s'.mem = s.mem ∧
          (s'.slot t).ctx = some ((c.putX w.dst (BitVec.ofNat 64 (Mem.num s.mem key 8))).complete .seq)) ∧
        (w.fn = 1 ∧ w.frame = false → isFull s' key = false ∧ s'.mem = s.mem ∧
          (s'.slot t).ctx = some ((c.putX w.dst (BitVec.ofNat 64 (Mem.num s.mem key 8))).complete .seq)) ∧
        (w.fn = 2 ∧ w.frame = false → isFull s' key = true ∧ s'.mem = Mem.writeN s.mem key (leBytes 8 w.val) ∧
          (s'.slot t).ctx = some (c.complete .seq))

end Sys2Proof.Machine

/-- Full/empty operations act on word and tag in one step, and a changed word serves one waiter. -/
def Obligations.FullEmptyWords : Prop :=
  FullEmptyOperations ∧ FullEmptyWaiter

namespace Sys2Proof.Machine

/-! Phases, fences, barriers and tags. -/

/-- PHASE and FENCE (R88, R94, R98) release at their scope, PHASE then acquires; they park while an access is on its way,
and report failed weak stores. IFNC discards the instruction cache of its core, when the thread's own stores are performed, and
its later fetches return what it has stored or seen (R99; that it waits for them is the model's reading,
notes/assumptions/33.md). -/
def PhaseFenceIfnc : Prop :=
  ∀ (s : State) (c : Ctx) (o : Ops), s.Issues c →
    let k := o.imm.toNat
    let s1 := releaseMark s (.thread c.cid) ⟨k, some s.myCore⟩
    (c.canRelease → exec (.fence o) s = s1.completes c ∧
      exec (.phase o) s = (acquireMark s1 (.thread c.cid) k (some s.myCore)).completes c) ∧
    (c.quiet = false → c.sfaults = [] → exec (.fence o) s = s.parks .phase 2 ∧ exec (.phase o) s = s.parks .phase 2) ∧
    (∀ f l, c.sfaults = f :: l → c.stores = [] → ∀ i ∈ [Instr.fence o, .phase o], exec i s = .next (takeTrap s
      { cause := if f.pool then 0x13 else 0x07, val := f.va, epc := c.pc, rel := true })) ∧
    (c.stores = [] ∧ c.strong = none ∧ c.outer = [] →
      ∃ t : State, exec (.ifnc o) s = t.completes { c with ifnc := s.ids } ∧ t.mem = s.mem ∧
        t.core s.myCore = { s.core s.myCore with icache := [] } ∧ (∀ k, k ≠ s.myCore → t.core k = s.core k) ∧
        ∀ r ∈ t.hist, .thread c.cid ∈ r.seen → .fetch c.cid ∈ r.seen) ∧
    (¬(c.stores = [] ∧ c.strong = none ∧ c.outer = []) → exec (.ifnc o) s = s.parks .none 0)

/-- A release and an acquire that pair (R84, R88 to R91): what the first agent stored before its release is not passed over by
a later load of the second agent. -/
def ReleaseAcquire : Prop :=
  ∀ (s : State) (a b : Agent) (m : Mark) (sc : Nat) (core : Option Nat) (key n : Nat) (newer older : List Record) (r : Record),
    pairs m sc core = true → s.hist = newer ++ r :: older → a ∈ r.auth → r.meets key n = true →
    passable b key n (acquireMark (releaseMark s a m) b sc core).hist ≤ (newer.filter (fun q => q.meets key n)).length

end Sys2Proof.Machine

/-- PHASE, FENCE and IFNC, and that a release and an acquire that pair order stores before loads. -/
def Obligations.PhasesAndOrder : Prop :=
  PhaseFenceIfnc ∧ ReleaseAcquire

namespace Sys2Proof.Machine

/-- BAR (R182): a barrier that the region has not, a count out of range and a count that differs trap; the last arrival
completes and starts the next generation; an earlier one is counted and parks; a waiter completes once the generation has
moved. -/
def BarrierInstruction : Prop :=
  ∀ (s : State) (c : Ctx) (o : Ops) (k : Nat), s.Issues c → o.imm = k →
    let granted := decide (k < 16) && (s.regionOf c).barm.testBit k
    let n := c.getX o.a.x
    let b := s.barrier s.myClus k
    let s1 := releaseMark s (.thread c.cid) ⟨1, some s.myCore⟩
    (c.barrier = none → c.isFull o.a.x = true →
      (granted = false → exec (.bar o) s = s.traps 0x08 (BitVec.ofNat 64 k)) ∧
      (granted = true → n = 0 ∨ 256 < n.toNat → exec (.bar o) s = s.traps 0x08 n) ∧
      (granted = true → n ≠ 0 → n.toNat ≤ 256 → c.canRelease →
        (b.a ≠ 0 → n.toNat ≠ b.n → exec (.bar o) s = s1.traps 0x08 n) ∧
        (b.a = 0 ∨ n.toNat = b.n → b.a + 1 = n.toNat → exec (.bar o) s =
          (acquireMark (s1.setBarrier s.myClus k { n := n.toNat, a := 0, g := b.g + 1 }) (.thread c.cid) 1
            (some s.myCore)).completes c) ∧
        (b.a = 0 ∨ n.toNat = b.n → b.a + 1 ≠ n.toNat → exec (.bar o) s =
          .next ((s1.setBarrier s.myClus k { n := n.toNat, a := b.a + 1, g := b.g }).setCtx
            (({ c with barrier := some (k, b.g) } : Ctx).parkAt s.clock .barrier 0))))) ∧
    ∀ j g, c.barrier = some (j, g) →
      ((s.barrier s.myClus j).g ≠ g → exec (.bar o) s =
        (acquireMark (s.setCtx { c with barrier := none }) (.thread c.cid) 1 (some s.myCore)).completes
          { c with barrier := none }) ∧
      ((s.barrier s.myClus j).g = g → exec (.bar o) s = s.parks .barrier 0)

/-- WAITANY, WAITALL, FFR and TCLR (R184). -/
def CompletionTags : Prop :=
  ∀ (s : State) (c : Ctx) (o : Ops) (a b : Fin 64), s.Issues c → o.a = .r a → o.b = .r b → c.isFull b = true →
    let mask := c.getX b
    let seen (m : Word) : Ctx := { c with done := c.done.filter (fun e => !m.getLsbD e.1) }
    exec (.tclr o) s = s.completes { c with cb := c.cb &&& ~~~mask, te := c.te &&& ~~~mask } ∧
    (c.canWrite a →
      (c.cb &&& mask = 0 → c.tags &&& mask ≠ 0 → exec (.waitany o) s = s.parks .tag mask) ∧
      (c.cb &&& mask ≠ 0 ∨ c.tags &&& mask = 0 → ∃ t : State, t.mem = s.mem ∧ t.cur = s.cur ∧ t.slots = s.slots ∧
        exec (.waitany o) s = t.completes ((seen (c.cb &&& mask)).putX a (c.cb &&& mask))) ∧
      (c.tags &&& mask ≠ 0 → exec (.waitall o) s = s.parks .tag mask) ∧
      (c.tags &&& mask = 0 → ∃ t : State, t.mem = s.mem ∧ t.cur = s.cur ∧ t.slots = s.slots ∧
        exec (.waitall o) s = t.completes ((seen (c.cb &&& mask)).putX a (c.cb &&& mask))) ∧
      ∃ (t : State) (w m : Word), t.mem = s.mem ∧ t.cur = s.cur ∧ t.slots = s.slots ∧ TrailingZeros (c.cb &&& mask) w ∧
        exec (.ffr o) s = t.completes ((seen m).putX a w))

end Sys2Proof.Machine

/-- BAR arrives, starts the next generation or waits; WAITANY, WAITALL, FFR and TCLR over completion bits. -/
def Obligations.BarriersAndTags : Prop :=
  BarrierInstruction ∧ CompletionTags

namespace Sys2Proof.Machine

/-! Frames. -/

/-- A display entry that no outer frame uses (R160). -/
def Ctx.untied (c : Ctx) (d : Nat) : Prop := c.j.getLsbD d = false ∧ c.o.getLsbD d = false

/-- No outstanding load reads a display register for its address (R295). -/
def Ctx.dispFree (c : Ctx) (d : Nat) : Prop := c.lockedBy (fun r => r.d.getLsbD d) = none

/-- The bytes of a frame of n words, rounded up to 16 (R160). -/
def frameSize (n : Nat) : Nat := if n % 2 = 0 then 8 * n else 8 * n + 8

/-- The kind, generation and address of a display value (Table 8.10). -/
def kindOf (e : Word) : Nat := (e.extractLsb' 60 4).toNat
def genOf (e : Word) : BitVec 12 := e.extractLsb' 48 12
def addrOf (e : Word) : Nat := (e.extractLsb' 0 48).toNat

/-- FENTER (R160): x2 aligned and the frame above stack_low, the link stored in slot 0, and D and x2 at the base; each check
that fails traps. It waits for a load that reads D (R295). -/
def FrameEnter : Prop :=
  ∀ (s : State) (c : Ctx) (o : Ops), s.Issues c → c.isFull 2 = true → c.canWrite 2 →
    let d := depthA o
    let x2 := c.getX 2
    let low := (stackRange s c).1
    let base := x2 - BitVec.ofNat 64 (frameSize o.imm.toNat)
    (¬c.untied d → exec (.fenter o) s = s.traps 0x08 (BitVec.ofNat 64 d)) ∧
    (c.untied d → ∀ n, c.lockedBy (fun r => r.d.getLsbD d) = some n → exec (.fenter o) s = s.parks .reg (BitVec.ofNat 64 n)) ∧
    (c.untied d → c.dispFree d → x2.toNat % 16 ≠ 0 → exec (.fenter o) s = s.traps 0x05 x2) ∧
    (c.untied d → c.dispFree d → x2.toNat % 16 = 0 → x2.toNat < low.toNat + frameSize o.imm.toNat →
      exec (.fenter o) s = s.traps 0x0B base) ∧
    (c.untied d → c.dispFree d → x2.toNat % 16 = 0 → low.toNat + frameSize o.imm.toNat ≤ x2.toNat →
      ∀ die, Accessible s base 8 (.ord die) → heldByXu s (s.regionOf c).asid base 8 = false → c.stores.length < 16 →
      (∀ key s1, resolve s (s.regionOf c).asid (.ord die) base 8 .w = (.ok key, s1) → s1.Issues c →
        exec (.fenter o) s = .next (complete ((s1.fresh.2.setCtx
          (((c.withStore s1.ids [(base, none, leBytes 8 (c.disp d))]).setDisp d base).putX 2 base)).due
            (.weakStorePerformed c.cid s1.ids)) .seq)) ∧
      (∀ s1, resolve s (s.regionOf c).asid (.ord die) base 8 .w = (.error .pool, s1) →
        exec (.fenter o) s = s1.traps 0x13 base) ∧
      ∀ e s1, e ≠ .pool → resolve s (s.regionOf c).asid (.ord die) base 8 .w = (.error e, s1) →
        exec (.fenter o) s = s1.traps 0x08 base)

/-- FLEAVE (R160): only from the frame that D and x2 name; its link is loaded as a weak load that it waits for, then D takes
the link and x2 the top of the frame. The wait is on object 0 (the model's choice, notes/assumptions/41.md). -/
def FrameLeave : Prop :=
  ∀ (s : State) (c : Ctx) (o : Ops), s.Issues c → c.isFull 2 = true → c.canWrite 2 →
    let d := depthA o
    let e := c.disp d
    let base := c.getX 2
    c.dispFree d →
    (kindOf e ≠ 0 ∨ addrOf e ≠ base.toNat → exec (.fleave o) s = s.traps 0x0B e) ∧
    (kindOf e = 0 → addrOf e = base.toNat → ∀ die, Accessible s base 8 (.ord die) →
      (∀ v, c.got.find? (·.1 == 0) = some (0, v) → exec (.fleave o) s =
        s.completes ((c.setDisp d v).putX 2 (base + BitVec.ofNat 64 (frameSize o.imm.toNat)))) ∧
      (c.got.find? (·.1 == 0) = none → c.loads = [] → c.lfaults = [] → exec (.fleave o) s =
        .next ((s.fresh.2.setCtx ((c.withLoad s.ids 8 [(0, base, none)] .operand {}).parkAt s.clock .reg 0)).due
          (.registerFill c.cid s.ids))))

/-- A table entry opened (R161); its generation stays. -/
def opened (e : FrameEnt) (kind core base size : Nat) : FrameEnt :=
  { live := true, kind, core, base, size, count := 0, orel := false, gen := e.gen }

/-- FOPEN (R159, R161): with its checks passed it takes the lowest free entry of its cluster's table, D takes kind,
generation and base, and the thread is the owner. -/
def FrameOpen : Prop :=
  ∀ (s : State) (c : Ctx) (o : Ops) (desc size : Word), s.Issues c → readOpd o.b 0 s = .ok desc s →
    readX o.cx s = .ok size s →
    let d := depthA o
    let k := kindOf desc
    let base := addrOf desc
    let va := BitVec.ofNat 64 ((if k = 1 then 0x00FF000000000000 else 0x00FEFF0000000000) ||| base)
    let t := s.ftab s.myClus
    (¬c.untied d → exec (.fopen o) s = s.traps 0x08 (BitVec.ofNat 64 d)) ∧
    (c.untied d → c.dispFree d → k ≠ 1 → k ≠ 2 → exec (.fopen o) s = s.traps 0x08 desc) ∧
    (c.untied d → c.dispFree d → k = 1 ∨ k = 2 → base % 8 ≠ 0 → exec (.fopen o) s = s.traps 0x05 va) ∧
    (c.untied d → c.dispFree d → k = 1 ∨ k = 2 → base % 8 = 0 → size = 0 ∨ size.toNat % 8 ≠ 0 ∨ 65536 < size.toNat →
      exec (.fopen o) s = s.traps 0x0B size) ∧
    (c.untied d → c.dispFree d → k = 1 ∨ k = 2 → base % 8 = 0 → size ≠ 0 → size.toNat % 8 = 0 → size.toNat ≤ 65536 →
      (∀ i < size.toNat, (place (s.regionOf c) s.myCore (va + BitVec.ofNat 64 i) 1).isSome = true) →
      (∀ i, matchEntry s s.myClus s.myCore desc = some i → exec (.fopen o) s = s.traps 0x0B va) ∧
      (matchEntry s s.myClus s.myCore desc = none →
        ((∀ i, (h : i < 64) → t[i].live = true) → exec (.fopen o) s = s.traps 0x0B 0) ∧
        ∀ i, (h : i < 64) → t[i].live = false → (∀ j, (h' : j < i) → t[j].live = true) →
          exec (.fopen o) s = (s.setFtab s.myClus (t.set i (opened t[i] k s.myCore base size.toNat))).completes
            { c.setDisp d (BitVec.ofNat 4 k ++ t[i].gen ++ BitVec.ofNat 48 base) with o := c.o ||| BitVec.ofNat 8 (2 ^ d) }))

/-- The table entry after a release (R163): the owner's sets OREL, another's lowers the count; with OREL set and no thread
joined it is retired, and its generation rises. -/
def released (e : FrameEnt) (own : Bool) : FrameEnt :=
  let e1 : FrameEnt := if own then { e with orel := true } else { e with count := e.count - 1 }
  if e1.orel = true ∧ e1.count = 0 then { e1 with gen := e1.gen + 1, live := false } else e1

/-- FJOIN, FRET and FRET.OWN (R162, R163): at the frame table in one step; a frame that is not there kills the joiner, and
FRET waits for the thread's own writes to the frame (R97). The trap's value 0 (notes/assumptions/62.md), what is done where no
entry matches (106.md) and that FRET.OWN does not wait (107.md) are the model's choices. -/
def FrameJoinAndReturn : Prop :=
  ∀ (s : State) (c : Ctx) (o : Ops), s.Issues c →
    let d := depthA o
    let t := s.ftab s.myClus
    (∀ v, readOpd o.b 0 s = .ok v s →
      (¬c.untied d → exec (.fjoin o) s = s.traps 0x08 (BitVec.ofNat 64 d)) ∧
      (c.untied d → c.dispFree d → kindOf v ≠ 1 → kindOf v ≠ 2 → exec (.fjoin o) s = s.traps 0x08 v) ∧
      (c.untied d → c.dispFree d → kindOf v = 1 ∨ kindOf v = 2 →
        (matchEntry s s.myClus s.myCore v = none → exec (.fjoin o) s = s.traps 0x0A 0) ∧
        ∀ i, (h : i < 64) → matchEntry s s.myClus s.myCore v = some i →
          (t[i].gen ≠ genOf v → exec (.fjoin o) s = s.traps 0x0A 0) ∧
          (t[i].gen = genOf v →
            exec (.fjoin o) s = (s.setFtab s.myClus (t.set i { t[i] with count := t[i].count + 1 })).completes
              { c.setDisp d v with j := c.j ||| BitVec.ofNat 8 (2 ^ d) }))) ∧
    (c.j.getLsbD d = false → exec (.fret o) s = s.traps 0x08 (BitVec.ofNat 64 d)) ∧
    (c.o.getLsbD d = false → exec (.fretOwn o) s = s.traps 0x08 (BitVec.ofNat 64 d)) ∧
    (matchEntry s s.myClus s.myCore (c.disp d) = none →
      (c.j.getLsbD d = true → exec (.fret o) s = s.completes { c with j := c.j &&& ~~~BitVec.ofNat 8 (2 ^ d) }) ∧
      (c.o.getLsbD d = true → exec (.fretOwn o) s = s.completes { c with o := c.o &&& ~~~BitVec.ofNat 8 (2 ^ d) })) ∧
    ∀ i, (h : i < 64) → matchEntry s s.myClus s.myCore (c.disp d) = some i →
      (c.j.getLsbD d = true → c.writesTo (frameKey s t[i]) t[i].size = true → exec (.fret o) s = s.parks .none 0) ∧
      (c.j.getLsbD d = true → c.writesTo (frameKey s t[i]) t[i].size = false →
        exec (.fret o) s = (s.setFtab s.myClus (t.set i (released t[i] false))).completes
          { c with j := c.j &&& ~~~BitVec.ofNat 8 (2 ^ d) }) ∧
      (c.o.getLsbD d = true →
        exec (.fretOwn o) s = (s.setFtab s.myClus (t.set i (released t[i] true))).completes
          { c with o := c.o &&& ~~~BitVec.ofNat 8 (2 ^ d) })

end Sys2Proof.Machine

/-- FOPEN, FJOIN, FRET and FRET.OWN at the frame table of the cluster. -/
def Obligations.OuterFrames : Prop :=
  FrameOpen ∧ FrameJoinAndReturn

namespace Sys2Proof.Machine

/-- The VA of a frame slot (R126). -/
def slotVa (e : Word) (slot : Nat) : Option Word :=
  let off := (addrOf e + 8 * slot) % 2 ^ 48
  match kindOf e with
  | 0 => some (BitVec.ofNat 64 off)
  | 1 => some (0x00FF000000000000 ||| BitVec.ofNat 64 off)
  | 2 => some (0x00FEFF0000000000 ||| BitVec.ofNat 64 off)
  | _ => none

/-- DGET, DGET.ST, DSET, FADDR and FPUB (R126, R164 to R167, Table 8.11). The value 0 of FADDR's trap for a frame that is not
there is the model's choice (notes/assumptions/62.md). -/
def DisplayInstructions : Prop :=
  ∀ (s : State) (c : Ctx) (o : Ops), s.Issues c →
    let d := o.imm.toNat % 8
    let e := c.disp d
    let t := s.ftab s.myClus
    (c.canWrite o.a.x → exec (.dget o) s = s.completes (c.putX o.a.x e)) ∧
    (c.canWrite o.a.x → c.strong = none →
      ∃ w : Word, exec (.dgetSt o) s = s.completes (c.putX o.a.x w) ∧ w.getLsbD 61 = c.j.getLsbD d ∧
        w.getLsbD 60 = c.o.getLsbD d ∧
        (kindOf e = 0 ∨ matchEntry s s.myClus s.myCore e = none → w &&& 0xCFFFFFFFFFFFFFFF = 0) ∧
        ∀ i, (h : i < 64) → kindOf e ≠ 0 → matchEntry s s.myClus s.myCore e = some i →
          w.getLsbD 63 = decide (t[i].gen = genOf e) ∧ w.getLsbD 62 = t[i].orel ∧ w.extractLsb' 48 12 = t[i].gen ∧
          w.extractLsb' 24 24 = 0 ∧ w.extractLsb' 18 6 = BitVec.ofNat 6 i ∧ w.extractLsb' 0 18 = t[i].count) ∧
    (∀ v, readOpd o.b 0 s = .ok v s →
      (c.untied (depthA o) → c.dispFree (depthA o) → exec (.dset o) s = s.completes (c.setDisp (depthA o) v)) ∧
      (¬c.untied (depthA o) → exec (.dset o) s = s.traps 0x08 (BitVec.ofNat 64 (depthA o)))) ∧
    (c.isFull o.cx = true → c.canWrite o.a.x →
      let slot := (c.getX o.cx).toNat
      (slotVa e slot = none → exec (.faddr o) s = s.traps 0x08 e) ∧
      ∀ va, slotVa e slot = some va →
        (kindOf e = 0 → exec (.faddr o) s = s.completes (c.putX o.a.x va)) ∧
        (kindOf e ≠ 0 → matchEntry s s.myClus s.myCore e = none → exec (.faddr o) s = s.traps 0x0A 0) ∧
        ∀ i, (h : i < 64) → kindOf e ≠ 0 → matchEntry s s.myClus s.myCore e = some i →
          (t[i].gen ≠ genOf e → exec (.faddr o) s = s.traps 0x0A 0) ∧
          (t[i].gen = genOf e → t[i].size ≤ 8 * slot → exec (.faddr o) s = s.traps 0x0B va) ∧
          (t[i].gen = genOf e → 8 * slot < t[i].size → exec (.faddr o) s = s.completes (c.putX o.a.x va))) ∧
    (c.outer = [] → exec (.fpub o) s = s.completes c) ∧ (c.outer ≠ [] → exec (.fpub o) s = s.parks .none 0)

end Sys2Proof.Machine

/-- FENTER and FLEAVE build and take down an inner frame; DGET, DSET, FADDR and FPUB. -/
def Obligations.InnerFrames : Prop :=
  FrameEnter ∧ FrameLeave ∧ DisplayInstructions

namespace Sys2Proof.Machine

/-! Vectors. -/

/-- Element i of width w of a vector register (R197). -/
def lane (w : Nat) (v : VWord) (i : Nat) : Nat := (v.extractLsb' (w * i) w).toNat

/-- The element type, rounding mode and vector length of VTYPE (Table 10.1), and the number of elements (Table 10.2). -/
def Ctx.et (c : Ctx) : Nat := (c.vtype.extractLsb' 12 4).toNat
def Ctx.rm (c : Ctx) : Nat := (c.vtype.extractLsb' 18 2).toNat
def Ctx.vl (c : Ctx) : Nat := (c.vtype.extractLsb' 0 8).toNat
def Ctx.width (c : Ctx) : Nat := etWidth c.et
def Ctx.count (c : Ctx) : Nat := 1024 / c.width

/-- The mask that an instruction names, and whether inactive elements become 0 (R199). -/
def Ctx.maskOf (c : Ctx) (o : Ops) (paged : Bool) : MWord :=
  if paged then c.getM (Fin.ofNat 8 (o.q.extractLsb' 0 3).toNat) else BitVec.allOnes 128
def zeroing (o : Ops) (paged : Bool) : Bool := paged && o.q.getLsbD 3

/-- Element i is active (R199). -/
def Ctx.active (c : Ctx) (m : MWord) (i : Nat) : Bool := decide (i < c.vl) && m.getLsbD i

/-- The registers that a vector instruction reads are full, its mask and its destination among them, and the destination
can be written. -/
def Ctx.vReady (c : Ctx) (o : Ops) (paged : Bool) (srcs : List (Fin 16)) : Prop :=
  (paged = true → c.isFull (80 + (Fin.ofNat 8 (o.q.extractLsb' 0 3).toNat).val) = true) ∧
  (∀ v ∈ o.a.v :: srcs, c.isFull (64 + v.val) = true) ∧ c.canWrite (64 + o.a.v.val)

/-- A vector instruction gives its destination elements: active ones by `f` modulo 2^w, the others kept or 0 (R199), and
changes nothing else. -/
def VectorGives (i : Instr) (s : State) (c : Ctx) (o : Ops) (m : MWord) (zero : Bool) (f : Nat → Nat) : Prop :=
  ∃ r, exec i s = s.completes (c.putV o.a.v r) ∧ ∀ j < c.count, lane c.width r j =
    if c.active m j then f j % 2 ^ c.width else if zero then 0 else lane c.width (c.getV o.a.v) j

/-- The two sources of a binary vector instruction (Table 10.3). -/
def vSources (o : Ops) : Fin 16 × Fin 16 := if o.c.isSome then (o.b.v, o.cv) else (o.a.v, o.b.v)

/-- Elementwise instructions: the classes that they accept, cause 0x01 under another, and the function of type, mode and
elements. -/
def VUnary (i : Ops → Instr) (ok : Nat → Bool) (paged : Bool) (f : Nat → Nat → Nat → Nat) : Prop :=
  ∀ (s : State) (c : Ctx) (o : Ops), s.Issues c →
    (ok c.et = false → exec (i o) s = s.traps 0x01 (c.npc - 2)) ∧
    (ok c.et = true → c.vReady o paged [o.b.v] → VectorGives (i o) s c o (c.maskOf o paged) (zeroing o paged)
      (fun j => f c.et c.rm (lane c.width (c.getV o.b.v) j)))

def VBinary (i : Ops → Instr) (ok : Nat → Bool) (paged : Bool) (f : Nat → Nat → Nat → Nat → Nat) : Prop :=
  ∀ (s : State) (c : Ctx) (o : Ops), s.Issues c →
    (ok c.et = false → exec (i o) s = s.traps 0x01 (c.npc - 2)) ∧
    (ok c.et = true → c.vReady o paged [(vSources o).1, (vSources o).2] →
      VectorGives (i o) s c o (c.maskOf o paged) (zeroing o paged)
        (fun j => f c.et c.rm (lane c.width (c.getV (vSources o).1) j) (lane c.width (c.getV (vSources o).2) j)))

def VTernary (i : Ops → Instr) (paged : Bool) (f : Nat → Nat → Nat → Nat → Nat → Nat) : Prop :=
  ∀ (s : State) (c : Ctx) (o : Ops), s.Issues c →
    (12 ≤ c.et → exec (i o) s = s.traps 0x01 (c.npc - 2)) ∧
    (c.et < 12 → c.vReady o paged [o.b.v, o.cv] → VectorGives (i o) s c o (c.maskOf o paged) (zeroing o paged)
      (fun j => f c.et c.rm (lane c.width (c.getV o.b.v) j) (lane c.width (c.getV o.cv) j)
        (lane c.width (c.getV o.a.v) j)))

/-- An integer function of elements of a type, as bits of its width. -/
def ints1 (f : (w : Nat) → BitVec w → BitVec w) (et a : Nat) : Nat := (f (etWidth et) (BitVec.ofNat _ a)).toNat
def ints2 (f : (w : Nat) → BitVec w → BitVec w → BitVec w) (et a b : Nat) : Nat :=
  (f (etWidth et) (BitVec.ofNat _ a) (BitVec.ofNat _ b)).toNat
def ints3 (f : (w : Nat) → BitVec w → BitVec w → BitVec w → BitVec w) (et a b d : Nat) : Nat :=
  (f (etWidth et) (BitVec.ofNat _ a) (BitVec.ofNat _ b) (BitVec.ofNat _ d)).toNat

/-- Classes of element types (Table 10.2). -/
def isFloat (et : Nat) : Bool := decide (8 ≤ et ∧ et ≤ 11)
def isNumber (et : Nat) : Bool := decide (et ≤ 11)
def isWide (et : Nat) : Bool := decide (et = 10 ∨ et = 11)

/-- Elementwise arithmetic (R199, R200, R202, R204, R214). VNEG and VABS read B alone, by the model's reading
(notes/assumptions/14.md). -/
def VectorArithmetic : Prop :=
  (VUnary .vmov (fun _ => true) false (fun _ _ a => a) ∧
    VUnary .vneg isNumber false (fun et _ a => if isFloat et then a ^^^ (fmtOf et).signBit else ints1 (fun _ x => -x) et a) ∧
    VUnary .vabs isNumber false (fun et _ a => if isFloat et then a &&& ((fmtOf et).signBit - 1)
      else if et < 4 then ints1 (fun _ x => if x.msb then -x else x) et a else a) ∧
    VUnary .vsqrt isFloat true (fun et rm a => (fmtOf et).sqrt rm a)) ∧
  (VBinary .vadd isNumber false (fun et rm a b => if isFloat et then (fmtOf et).add rm a b else ints2 (fun _ x y => x + y) et a b) ∧
    VBinary .vsub isNumber false (fun et rm a b => if isFloat et then (fmtOf et).sub rm a b else ints2 (fun _ x y => x - y) et a b) ∧
    VBinary .vmul isNumber false (fun et rm a b => if isFloat et then (fmtOf et).mul rm a b else ints2 (fun _ x y => x * y) et a b) ∧
    VBinary .vmin isNumber false (fun et _ a b => if isFloat et then (fmtOf et).pick false a b
      else ints2 (fun _ x y => if y.slt x then y else x) et a b) ∧
    VBinary .vmax isNumber false (fun et _ a b => if isFloat et then (fmtOf et).pick true a b
      else ints2 (fun _ x y => if x.slt y then y else x) et a b) ∧
    VBinary .vand (fun _ => true) false (fun _ _ a b => a &&& b) ∧ VBinary .vor (fun _ => true) false (fun _ _ a b => a ||| b) ∧
    VBinary .vxor (fun _ => true) false (fun _ _ a b => a ^^^ b) ∧
    VBinary .vshl isNumber false (fun et _ a b => ints1 (fun w x => x <<< (b % w)) et a) ∧
    VBinary .vshr isNumber false (fun et _ a b => ints1 (fun w x => x >>> (b % w)) et a) ∧
    VBinary .vsha isNumber false (fun et _ a b => ints1 (fun w x => x.sshiftRight (b % w)) et a) ∧
    VBinary .vdiv isNumber true (fun et rm a b => if isFloat et then (fmtOf et).div rm a b
      else ints2 (fun _ x y => if y = 0 then BitVec.allOnes _ else if et < 4 then x.sdiv y else x.udiv y) et a b) ∧
    VBinary .vminu (fun et => decide (et < 8)) true (fun et _ a b => ints2 (fun _ x y => if y.ult x then y else x) et a b) ∧
    VBinary .vmaxu (fun et => decide (et < 8)) true (fun et _ a b => ints2 (fun _ x y => if x.ult y then y else x) et a b)) ∧
  VTernary .vfma false (fun et rm a b d => if isFloat et then (fmtOf et).fma rm false false a b d
    else ints3 (fun _ x y z => x * y + z) et a b d) ∧
  VTernary .vfms true (fun et rm a b d => if isFloat et then (fmtOf et).fma rm false true a b d
    else ints3 (fun _ x y z => x * y - z) et a b d) ∧
  VTernary .vfnma true (fun et rm a b d => if isFloat et then (fmtOf et).fma rm true false a b d
    else ints3 (fun _ x y z => z - x * y) et a b d)

end Sys2Proof.Machine

/-- The special functions (R116, R214, Table 6.8): elementwise on binary32 and binary64 alone, with the special cases of the
table; the reciprocal and the reciprocal square root round the exact real result once (the places at which the others round
are those of notes/assumptions/10.md, of which this states nothing). -/
def Obligations.SpecialFunctions : Prop :=
  VUnary .vexp2 isWide true (fun et _ a => sfuExp2 (fmtOf et) a) ∧ VUnary .vlog2 isWide true (fun et _ a => sfuLog2 (fmtOf et) a) ∧
  VUnary .vrcp isWide true (fun et _ a => sfuRcp (fmtOf et) a) ∧ VUnary .vrsq isWide true (fun et _ a => sfuRsq (fmtOf et) a) ∧
  VUnary .vsin isWide true (fun et _ a => sfuSin (fmtOf et) a) ∧ VUnary .vcos isWide true (fun et _ a => sfuCos (fmtOf et) a) ∧
  VUnary .vtanh isWide true (fun et _ a => sfuTanh (fmtOf et) a) ∧
  ∀ f ∈ [f32, f64],
    let inf := f.infBits
    let neg := f.signBit
    let one := f.bias * 2 ^ f.fb
    (sfuExp2 f (neg + inf) = 0 ∧ sfuExp2 f inf = inf ∧ sfuExp2 f 0 = one ∧ sfuExp2 f neg = one) ∧
    (sfuLog2 f 0 = neg + inf ∧ sfuLog2 f neg = neg + inf ∧ sfuLog2 f one = 0 ∧ sfuLog2 f inf = inf) ∧
    (sfuRcp f 0 = inf ∧ sfuRcp f neg = neg + inf ∧ sfuRcp f inf = 0 ∧ sfuRcp f (neg + inf) = neg) ∧
    (sfuRsq f 0 = inf ∧ sfuRsq f neg = neg + inf ∧ sfuRsq f inf = 0) ∧
    (sfuSin f 0 = 0 ∧ sfuSin f neg = neg ∧ sfuSin f inf = f.nan ∧ sfuSin f (neg + inf) = f.nan) ∧
    (sfuCos f 0 = one ∧ sfuCos f neg = one ∧ sfuCos f inf = f.nan ∧ sfuCos f (neg + inf) = f.nan) ∧
    (sfuTanh f 0 = 0 ∧ sfuTanh f neg = neg ∧ sfuTanh f inf = one ∧ sfuTanh f (neg + inf) = neg + one) ∧
    (∀ a x, (f.decode a).rat = some x → x ≠ 0 → RoundedTo f 0 ((1 / x : ℚ) : ℝ) (sfuRcp f a) ∧
      (0 < x → RoundedTo f 0 (1 / Real.sqrt (x : ℚ)) (sfuRsq f a))) ∧
    ∀ a, (f.decode a = .nan → ∀ g ∈ [sfuExp2, sfuLog2, sfuRcp, sfuRsq, sfuSin, sfuCos, sfuTanh], g f a = f.nan) ∧
      ∀ x, (f.decode a).rat = some x → x < 0 → sfuLog2 f a = f.nan ∧ sfuRsq f a = f.nan

namespace Sys2Proof.Machine

/-- The value of a SKIM8 magnitude code (Table 6.3). -/
def skimValue (code : Nat) : ℚ := ((skimDecode code).rat).getD 0

/-- The value of a SKIM8 code by R106: none for NaR. -/
def skim8Value (code : Nat) : Option ℚ :=
  let p := code % 128
  let bit (n : Nat) : Nat := p / 2 ^ n % 2
  let j := 6 - p.log2
  let value (e : ℤ) (f fw : Nat) : Option ℚ := some ((-1) ^ (code / 128) * (2 : ℚ) ^ e * (1 + (f : ℚ) / 2 ^ fw))
  if p = 0 then (if code / 128 = 0 then some 0 else none)
  else if j = 0 then value ((p / 16 % 4 : Nat) - 2) (p % 16) 4
  else if j ≤ 4 then value (if bit (5 - j) = 0 then 2 * j + bit (4 - j) else -2 * j - 2 + bit (4 - j)) (p % 2 ^ (4 - j)) (4 - j)
  else if j = 5 then value (if bit 0 = 0 then 10 else -11) 0 0 else value (-12) 0 0

/-- The rows of Table 6.3 in order of value: the first code and the number of codes, E and fw. -/
def skimTable : List (Nat × Nat × ℤ × Nat) :=
  [(0x01, 1, -12, 0), (0x03, 1, -11, 0), (0x06, 1, -10, 0), (0x07, 1, -9, 0), (0x0C, 2, -8, 1), (0x0E, 2, -7, 1),
    (0x18, 4, -6, 2), (0x1C, 4, -5, 2), (0x30, 8, -4, 3), (0x38, 8, -3, 3), (0x40, 16, -2, 4), (0x50, 16, -1, 4),
    (0x60, 16, 0, 4), (0x70, 16, 1, 4), (0x20, 8, 2, 3), (0x28, 8, 3, 3), (0x10, 4, 4, 2), (0x14, 4, 5, 2), (0x08, 2, 6, 1),
    (0x0A, 2, 7, 1), (0x04, 1, 8, 0), (0x05, 1, 9, 0), (0x02, 1, 10, 0)]

end Sys2Proof.Machine

/-- SKIM8 (R106, R107): every code has the value that R106 and Table 6.3 give it, a code and its negation differ only in
bit 7, 0x00 is the only zero, 0x80 is NaR and no code is an infinity; a value converts to the nearest code, with the
saturation and the tie rule of R107. -/
def Obligations.Skim8Codes : Prop :=
  (∀ code < 256, (skim8Value code = none → skimDecode code = .nan) ∧
    ∀ x, skim8Value code = some x → (skimDecode code).rat = some x) ∧
  (∀ code < 256, (skimDecode code).rat = some 0 ↔ code = 0) ∧ (∀ code < 256, skimDecode code = .nan ↔ code = 0x80) ∧
  (∀ code < 256, ∀ g, skimDecode code ≠ .inf g) ∧
  (∀ p < 128, 0 < p → ∃ x, 0 < x ∧ (skimDecode p).rat = some x ∧ (skimDecode (0x80 + p)).rat = some (-x)) ∧
  (∀ r ∈ skimTable, ∀ k < r.2.1, skimValue (r.1 + k) = (2 : ℚ) ^ r.2.2.1 * (1 + (k : ℚ) / 2 ^ r.2.2.2)) ∧
  skimCodes = 0 :: skimTable.flatMap (fun r => List.range' r.1 r.2.1) ∧
  (skimCodes.map skimValue).Pairwise (· < ·) ∧ (∀ code < 256, skimEncode (skimDecode code) = code) ∧
  skimEncode .nan = 0x80 ∧ skimEncode (.inf false) = 0x02 ∧ skimEncode (.inf true) = 0x82 ∧
  ∀ (v : Fp) (x : ℚ), v.rat = some x →
    (|x| < (2 : ℚ) ^ (-13 : ℤ) → skimEncode v = 0) ∧ (1024 ≤ |x| → skimEncode v = if x < 0 then 0x82 else 0x02) ∧
    ((2 : ℚ) ^ (-13 : ℤ) ≤ |x| → |x| < 1024 → ∃ m ∈ skimCodes, (∀ n ∈ skimCodes, |(|x| - skimValue m)| ≤ |(|x| - skimValue n)|) ∧
      (∀ n ∈ skimCodes, n ≠ m → |(|x| - skimValue m)| = |(|x| - skimValue n)| → m % 2 = 0 ∨ (m = 0x03 ∧ n = 0x01)) ∧
      skimEncode v = if m = 0 then 0 else (if x < 0 then 0x80 else 0) + m)

namespace Sys2Proof.Machine

/-- The value of an element of a type (Table 10.2). -/
def valueOf (et a : Nat) : Fp :=
  if et < 4 then Fp.ofInt (BitVec.ofNat (etWidth et) a).toInt else if et < 8 then Fp.ofInt a
  else if et < 12 then (fmtOf et).decode a else skimDecode a

/-- A value as an element of a type (R102, R107, R205). -/
def elementOf (rm et : Nat) (v : Fp) : Nat :=
  let w := etWidth et
  if et < 4 then (BitVec.ofInt w (v.toInt rm (-2 ^ (w - 1)) (2 ^ (w - 1) - 1))).toNat
  else if et < 8 then (BitVec.ofInt w (v.toInt rm 0 (2 ^ w - 1))).toNat
  else if et < 12 then (fmtOf et).encode rm v else skimEncode v

end Sys2Proof.Machine

/-- VSEL (R206): the element of vC where the named mask has its bit set and that of vB elsewhere, for every element below
VL; the others are kept or become 0 (R199). -/
def Obligations.VectorSelect : Prop :=
  ∀ (s : State) (c : Ctx) (o : Ops), s.Issues c → c.vReady o true [o.b.v, o.cv] →
    ∃ r, exec (.vsel o) s = s.completes (c.putV o.a.v r) ∧ ∀ j < c.count, lane c.width r j =
      if j < c.vl then lane c.width (c.getV (if (c.maskOf o true).getLsbD j then o.cv else o.b.v)) j
      else if o.q.getLsbD 3 then 0 else lane c.width (c.getV o.a.v) j

namespace Sys2Proof.Machine

/-- VCVT and VBCST (R202, R205): a conversion takes the segment of CSEG where the types differ in width. -/
def VectorConvertBroadcast : Prop :=
  ∀ (s : State) (c : Ctx) (o : Ops), s.Issues c →
    (∀ x, readOpd o.b 0 s = .ok x s → c.canWrite (64 + o.a.v.val) → c.isFull (64 + o.a.v.val) = true →
      VectorGives (.vbcst o) s c o (BitVec.allOnes 128) false (fun _ => x.toNat)) ∧
    (c.vReady o true [o.b.v] →
      let cst := (c.vtype.extractLsb' 36 4).toNat
      let seg := (c.vtype.extractLsb' 33 3).toNat
      let n := c.count
      let ns := 1024 / etWidth cst
      let conv (j : Nat) : Nat := elementOf c.rm c.et (valueOf cst (lane (etWidth cst) (c.getV o.b.v) j))
      if n ≤ ns then VectorGives (.vcvt o) s c o (c.maskOf o true) (zeroing o true) (fun j => conv (seg % (ns / n) * n + j))
      else
        let g := seg % (n / ns) * ns
        ∃ m, (∀ j < 128, m.getLsbD j = ((c.maskOf o true).getLsbD j && decide (g ≤ j ∧ j < g + ns))) ∧
          VectorGives (.vcvt o) s c o m (zeroing o true) (fun j => conv (j - g)))

end Sys2Proof.Machine

/-- Elementwise vector arithmetic, conversion and broadcast on active elements, with the type checks. -/
def Obligations.VectorArithmeticAndConversion : Prop :=
  VectorArithmetic ∧ VectorConvertBroadcast

namespace Sys2Proof.Machine

/-- A comparison of elements (R207). -/
def compareAs (et fn a b : Nat) : Bool :=
  let x := BitVec.ofNat (etWidth et) a
  let y := BitVec.ofNat (etWidth et) b
  match fn with
  | 0 => decide (x = y)
  | 1 => decide (x ≠ y)
  | 2 => x.slt y
  | 3 => x.sle y
  | 4 => x.ult y
  | 5 => x.ule y
  | 6 => (fmtOf et).eq a b
  | 7 => (fmtOf et).lt a b
  | 8 => (fmtOf et).le a b
  | _ => decide ((fmtOf et).decode a = .nan ∨ (fmtOf et).decode b = .nan)

/-- The identity of a reduction (Table 10.6). -/
def identityOf (et fn : Nat) : Nat :=
  let w := etWidth et
  match fn with
  | 0 => 0
  | 1 => 2 ^ (w - 1) - 1
  | 2 => 2 ^ (w - 1)
  | 3 => 2 ^ w - 1
  | 4 => 0
  | 5 => 2 ^ w - 1
  | 6 => 0
  | 7 => (fmtOf et).signBit
  | 8 => (fmtOf et).infBits
  | _ => (fmtOf et).signBit + (fmtOf et).infBits

/-- Two elements combined by a reduction. -/
def combine (et rm fn a b : Nat) : Nat :=
  match fn with
  | 0 => ints2 (fun _ x y => x + y) et a b
  | 1 => ints2 (fun _ x y => if y.slt x then y else x) et a b
  | 2 => ints2 (fun _ x y => if x.slt y then y else x) et a b
  | 3 => min a b
  | 4 => max a b
  | 5 => a &&& b
  | 6 => a ||| b
  | 7 => (fmtOf et).add rm a b
  | 8 => (fmtOf et).pick false a b
  | _ => (fmtOf et).pick true a b

/-- The pairwise tree of R117 over 2^n values: at each level element 2i is combined with element 2i + 1. -/
def pairTree (g : Nat → Nat → Nat) : Nat → (Nat → Nat) → Nat
  | 0, x => x 0
  | n + 1, x => pairTree g n (fun i => g (x (2 * i)) (x (2 * i + 1)))

/-- The inclusive prefix at a position (R209). -/
def prefixAt (g : Nat → Nat → Nat) (x : Nat → Nat) : Nat → Nat
  | 0 => x 0
  | i + 1 => g (prefixAt g x i) (x (i + 1))

/-- VCMP, VRED and VSCAN (R117, R207 to R209). -/
def VectorCompareReduceScan : Prop :=
  ∀ (s : State) (c : Ctx) (o : Ops), s.Issues c →
    let m := c.maskOf o true
    let x (id j : Nat) : Nat := if c.active m j then lane c.width (c.getV o.b.v) j else id
    (∀ fn : Fin 10, (if fn.val < 2 then True else if fn.val < 6 then c.et < 12 else isFloat c.et = true) →
      c.vReady o true [o.b.v, o.cv] → c.canWrite (80 + o.a.m.val) → c.isFull (80 + o.a.m.val) = true →
      ∃ r, exec (.vcmp fn o) s = s.completes (c.putM o.a.m r) ∧ ∀ j < 128, r.getLsbD j =
        if c.active m j then compareAs c.et fn.val (lane c.width (c.getV o.b.v) j) (lane c.width (c.getV o.cv) j)
        else !o.q.getLsbD 3 && (c.getM o.a.m).getLsbD j) ∧
    (∀ fn : Fin 10, (if fn.val < 7 then c.et < 8 else isFloat c.et = true) → c.vReady o true [o.b.v] → c.canWrite o.a.x.val →
      let r := pairTree (combine c.et c.rm fn.val) (Nat.log2 c.count) (x (identityOf c.et fn.val))
      exec (.vred fn o) s = s.completes (c.putX o.a.x
        (if fn.val ∈ [1, 2] ∨ (fn.val ∈ [0, 5, 6] ∧ c.et < 4) then (BitVec.ofNat c.width r).signExtend 64
          else BitVec.ofNat 64 r))) ∧
    (∀ fn : Fin 3, (if fn.val < 2 then c.et < 8 else isFloat c.et = true) → c.vReady o true [o.b.v] → c.vl ≤ c.count →
      let g := match fn.val with | 0 => 0 | 1 => 2 | _ => 7
      VectorGives (.vscan fn o) s c o m (zeroing o true) (prefixAt (combine c.et c.rm g) (x (identityOf c.et g))))

/-- The numbers of the active positions of a register, rising. -/
def Ctx.positions (c : Ctx) (m : MWord) : List Nat := (List.range c.count).filter (c.active m)

end Sys2Proof.Machine

/-- VPERM, VSLUP, VSLDN, VCOMP, VIOTA, VGETL and VSETL (R210). -/
def Obligations.VectorPermutes : Prop :=
  ∀ (s : State) (c : Ctx) (o : Ops), s.Issues c → c.isFull o.cx = true →
    let m := c.maskOf o true
    let w := c.width
    let b := c.getV o.b.v
    let a := c.getV o.a.v
    let n := (c.getX o.cx).toNat
    (c.vReady o true [o.b.v, o.cv] → VectorGives (.vperm o) s c o m (zeroing o true) (fun j =>
      let k := lane w (c.getV o.cv) j
      if k < c.count then lane w b k else 0)) ∧
    (c.vReady o true [o.b.v] →
      VectorGives (.vslup o) s c o m (zeroing o true) (fun j => if n ≤ j then lane w b (j - n) else lane w a j) ∧
      VectorGives (.vsldn o) s c o m (zeroing o true) (fun j => if j + n < c.count then lane w b (j + n) else 0) ∧
      (∃ r, exec (.vcomp o) s = s.completes (c.putV o.a.v r) ∧ ∀ j < c.count, lane w r j =
        match (c.positions m)[j]? with
        | some k => lane w b k
        | none => if o.q.getLsbD 3 then 0 else lane w a j) ∧
      (c.canWrite o.a.x.val → exec (.vgetl o) s = s.completes (c.putX o.a.x (if n < c.count then
        (if c.et < 4 then (BitVec.ofNat w (lane w b n)).signExtend 64 else BitVec.ofNat 64 (lane w b n)) else 0)))) ∧
    (c.vReady o true [] →
      (c.et < 8 → VectorGives (.viota o) s c o m (zeroing o true) (fun j => ((List.range j).filter (c.active m)).length)) ∧
      (8 ≤ c.et → exec (.viota o) s = s.traps 0x01 (c.npc - 2)) ∧
      ∀ x, readOpd o.b 0 s = .ok x s →
        if n < c.count then ∃ r, exec (.vsetl o) s = s.completes (c.putV o.a.v r) ∧
          ∀ j < c.count, lane w r j = if j = n then x.toNat % 2 ^ w else lane w a j
        else exec (.vsetl o) s = s.completes c)

namespace Sys2Proof.Machine

/-- The instructions over masks (R213), and VSETT (R198, R201): m0 reads as ones and takes no result, and the mask
instructions act on all 128 bits. -/
def MaskInstructions : Prop :=
  ∀ (s : State) (c : Ctx) (o : Ops), s.Issues c →
    let b := c.getM o.b.m
    let a := c.getM o.a.m
    let p : MWord × MWord := match o.c with
      | some k => (b, c.getM (Fin.ofNat 8 k.val))
      | none => (a, b)
    c.getM 0 = BitVec.allOnes 128 ∧ (∀ w, c.putM 0 w = c) ∧
    (c.isFull (80 + o.b.m.val) = true → c.canWrite (80 + o.a.m.val) →
      (c.isFull (80 + o.a.m.val) = true → (∀ k, o.c = some k → c.isFull (80 + k.val % 8) = true) →
        exec (.mand o) s = s.completes (c.putM o.a.m (p.1 &&& p.2)) ∧
        exec (.mor o) s = s.completes (c.putM o.a.m (p.1 ||| p.2)) ∧
        exec (.mxor o) s = s.completes (c.putM o.a.m (p.1 ^^^ p.2))) ∧
      exec (.mnot o) s = s.completes (c.putM o.a.m (~~~b))) ∧
    (c.isFull (80 + o.b.m.val) = true → c.canWrite o.a.x.val →
      exec (.mpop o) s = s.completes (c.putX o.a.x (BitVec.ofNat 64 ((List.range c.vl).filter (fun j => b.getLsbD j)).length)) ∧
      (∃ n : Nat, exec (.mff o) s = s.completes (c.putX o.a.x (BitVec.ofNat 64 n)) ∧
        ((n = 128 ∧ ∀ j < c.vl, b.getLsbD j = false) ∨
          (n < c.vl ∧ b.getLsbD n = true ∧ ∀ j < n, b.getLsbD j = false))) ∧
      exec (.mtox o) s = s.completes (c.putX o.a.x (if o.b.num.testBit 3 then b.extractLsb' 64 64 else b.extractLsb' 0 64))) ∧
    (∀ x, readOpd o.b 0 s = .ok x s → c.isFull (80 + o.a.m.val) = true → c.canWrite (80 + o.a.m.val) →
      exec (.mfromx o) s = s.completes (c.putM o.a.m
        (if o.a.num.testBit 3 then x ++ a.extractLsb' 0 64 else a.extractLsb' 64 64 ++ x))) ∧
    ∀ x d, readOpd o.b 0 s = .ok x s → o.a = .r d → c.vtypeFree → c.canWrite d →
      ∃ (c' : Ctx) (w : Word), exec (.vsett o) s = s.completes (c'.putX d w) ∧ c' = { c with vtype := c'.vtype } ∧
        (c'.vtype.extractLsb' 12 4) = (if x.extractLsb' 12 4 < 13 then x.extractLsb' 12 4 else c.vtype.extractLsb' 12 4) ∧
        c'.vl = min (x.extractLsb' 0 8).toNat c'.count ∧ c'.rm = (x.extractLsb' 18 2).toNat ∧ w = BitVec.ofNat 64 c'.vl

end Sys2Proof.Machine

/-- VCMP, VRED and VSCAN, the mask instructions and VSETT. -/
def Obligations.VectorComparesAndMasks : Prop :=
  VectorCompareReduceScan ∧ MaskInstructions

namespace Sys2Proof.Machine

/-! Vector loads and stores. -/

/-- An element of a vector access: its number, its address and its place. -/
abbrev Elems := List (Nat × Word × Place)

/-- The accesses are made at once, in the core's scratchpad (R65), as for a scalar access. -/
def ElemsAtOnce (s : State) (c : Ctx) (l : Elems) (n : Nat) : Prop :=
  atCore s.myCore (l.map (fun e => e.2.2.key)) = true ∧ ∀ e ∈ l,
    c.storesBefore (c.seq + 1) (locOf e.2.1 e.2.2.key) n = false ∧
    c.loadsBefore (c.seq + 1) (locOf e.2.1 e.2.2.key) n = false ∧
    c.strongBefore (c.seq + 1) (locOf e.2.1 e.2.2.key) n = false

/-- The bytes of an element of A. -/
def Ctx.elemBytes (c : Ctx) (o : Ops) (i : Nat) : List Byte :=
  leBytes (c.width / 8) (BitVec.ofNat 64 (lane c.width (c.getV o.a.v) i))

/-- The destination of a vector load: loaded elements hold what `v` tells of them, the others are kept or become 0. -/
def LoadedElems (c : Ctx) (o : Ops) (zero : Bool) (l : List Nat) (r : VWord) (w n : Nat) (v : Nat → Nat → Prop) : Prop :=
  ∀ j < n, if j ∈ l then v j (lane w r j) else lane w r j = if zero then 0 else lane w (c.getV o.a.v) j

/-- A vector load of elements (R65, R172, R199, R203, R211, R295): it reads the core's scratchpad at once; else the
destination is emptied and waits for all of its elements, and their inputs and VTYPE stay locked until then. -/
def VectorLoads (i : Instr) (s : State) (c : Ctx) (o : Ops) (zero : Bool) (inputs : RegSet) (l : Elems) : Prop :=
  let n := c.width / 8
  let nums := l.map (·.1)
  c.canWrite (64 + o.a.v.val) → (l.length = c.count ∨ zero = true ∨ c.isFull (64 + o.a.v.val) = true) →
    (ElemsAtOnce s c l n → (∀ e ∈ l, ∀ k, e.2.2 = .arr k → poisoned s k n = false) →
      ∃ (s1 : State) (r : VWord), exec i s = s1.completes (c.putV o.a.v r) ∧ s1 = { s with hist := s1.hist, tick := s1.tick } ∧
        LoadedElems c o zero nums r c.width c.count (fun j x => ∀ e ∈ l, e.1 = j → ∀ key, e.2.2 = .arr key →
          ∃ k ≤ passable (.thread c.cid) key n s.hist, x = Mem.num (undo s.mem key n k s.hist) key n)) ∧
    (¬ElemsAtOnce s c l n → exec i s = .next (complete ((s.fresh.2.setCtx ((c.withLoad s.ids n
      (l.map (fun e => (e.1, e.2.1, e.2.2.key))) (.v o.a.v c.width zero)
        { inputs with vtype := true }).awaitReg (64 + o.a.v.val))).due (.registerFill c.cid s.ids)) .seq))

/-- A vector store of elements of A, which counts as one store (log 15); the XU's memory is shut to it (R49). -/
def VectorStores (i : Instr) (s : State) (c : Ctx) (o : Ops) (l : Elems) : Prop :=
  let n := c.width / 8
  let shut (va : Word) : Bool := heldByXu s (s.regionOf c).asid va n
  c.isFull (64 + o.a.v.val) = true →
    (∀ e, l.find? (fun e => shut e.2.1) = some e → exec i s = s.traps 0x08 e.2.1) ∧
    ((∀ e ∈ l, shut e.2.1 = false) →
      (l = [] ∨ c.stores.length < 16 → ElemsAtOnce s c l n → (∀ e ∈ l, ∀ k, e.2.2 = .arr k → storePoisoned s k n = false) →
        ∃ s1 : State, exec i s = s1.completes c ∧
          s1 = { s with mem := s1.mem, hist := s1.hist, poison := s1.poison, indexes := s1.indexes } ∧
          s1.mem = l.foldl (fun m e => Mem.writeN m (e.2.2.key.getD 0) (c.elemBytes o e.1)) s.mem) ∧
      (¬ElemsAtOnce s c l n → c.stores.length < 16 → exec i s = .next (complete ((s.fresh.2.setCtx (c.withStore s.ids
        (l.map (fun e => (e.2.1, e.2.2.key, c.elemBytes o e.1))))).due (.weakStorePerformed c.cid s.ids)) .seq)) ∧
      (l ≠ [] → 16 ≤ c.stores.length → exec i s = s.parks .none 0))

/-- Strided and indexed accesses (R211): the active elements at their addresses, each checked, alignment first; a load and a
store of one kind. -/
def SpreadAccess (ld st : Instr) (s : State) (c : Ctx) (o : Ops) (inputs : RegSet) (addr : Nat → Word) : Prop :=
  let n := c.width / 8
  let act := c.positions (c.maskOf o true)
  let pl (i : Nat) : Option Place := place (s.regionOf c) s.myCore (addr i) n
  (c.isFull (64 + o.a.v.val) = true →
    (∀ i, act.find? (fun i => (addr i).toNat % n != 0) = some i →
      exec ld s = s.traps 0x05 (addr i) ∧ exec st s = s.traps 0x05 (addr i)) ∧
    ∀ i, (∀ i ∈ act, (addr i).toNat % n = 0) → act.find? (fun i => (pl i).isNone) = some i →
      exec ld s = s.traps 0x08 (addr i) ∧ exec st s = s.traps 0x08 (addr i)) ∧
  ∀ p : Nat → Place, (∀ i ∈ act, (addr i).toNat % n = 0 ∧ pl i = some (p i) ∧ s.stays (p i)) →
    let l : Elems := act.map (fun i => (i, addr i, p i))
    VectorLoads ld s c o (o.q.getLsbD 3) inputs l ∧ VectorStores st s c o l

/-- VLD and VST (R203), VLDS and VSTS, VGATH and VSCAT (R211): the elements, their addresses and their checks. That a range
check names the address of element 0 of a VLD or VST is the model's choice (notes/assumptions/44.md), as is that a vector store
counts as one store (notes/assumptions/15.md). -/
def VectorMemory : Prop :=
  ∀ (s : State) (c : Ctx) (o : Ops) (b : Word), s.Issues c → readOpd o.b 0 s = .ok b s →
    let n := c.width / 8
    let va := b + BitVec.ofInt 64 o.imm
    let q := 80 + (o.q.extractLsb' 0 3).toNat
    (c.vl = 0 → VectorLoads (.vld o) s c o false (addrRegs o false) [] ∧ VectorStores (.vst o) s c o []) ∧
    (∀ p, c.vl ≠ 0 → va.toNat % n = 0 → place (s.regionOf c) s.myCore va (c.vl * n) = some p →
      let l : Elems := (List.range c.vl).map (fun i => (i, va + BitVec.ofNat 64 (i * n), match p with
        | .arr key => .arr (key + i * n)
        | .ord _ => .ord (homeDie (va + BitVec.ofNat 64 (i * n)))))
      (∀ e ∈ l, s.stays e.2.2) → VectorLoads (.vld o) s c o false (addrRegs o false) l ∧ VectorStores (.vst o) s c o l) ∧
    (c.vl ≠ 0 → c.isFull (64 + o.a.v.val) = true →
      (va.toNat % n ≠ 0 → exec (.vld o) s = s.traps 0x05 va ∧ exec (.vst o) s = s.traps 0x05 va) ∧
      (va.toNat % n = 0 → place (s.regionOf c) s.myCore va (c.vl * n) = none →
        exec (.vld o) s = s.traps 0x08 va ∧ exec (.vst o) s = s.traps 0x08 va)) ∧
    (c.isFull q = true → c.isFull o.cx = true → SpreadAccess (.vlds o) (.vsts o) s c o ((addrRegs o false).add [q, o.cx.val])
      (fun i => va + BitVec.ofNat 64 i * c.getX o.cx)) ∧
    (c.isFull q = true → c.isFull (64 + o.cv.val) = true → SpreadAccess (.vgath o) (.vscat o) s c o ((addrRegs o false).add [q, 64 + o.cv.val])
      (fun i => va + (BitVec.ofNat c.width (lane c.width (c.getV o.cv) i)).signExtend 64 * BitVec.ofNat 64 n))

/-- VLDL and VSTL (R212): lane i of the core's slices at the offset that element i of C gives; a lane's fault reports the
lane and its offset. -/
def LaneSlices : Prop :=
  ∀ (s : State) (c : Ctx) (o : Ops) (b : Word), s.Issues c → readOpd o.b 0 s = .ok b s →
    c.isFull (64 + o.cv.val) = true → c.isFull (80 + (o.q.extractLsb' 0 3).toNat) = true → c.isFull (64 + o.a.v.val) = true →
    let off (i : Nat) : Word := b + BitVec.ofInt 64 o.imm + BitVec.ofNat 64 (lane 64 (c.getV o.cv) i)
    let act := (List.range 16).filter (fun i => (c.maskOf o true).getLsbD i && decide (i * (64 / c.width) < c.vl))
    let al := (s.regionOf c).alloc 1
    let fits (i : Nat) : Bool := decide ((off i).toNat % 8 = 0 ∧ al.2 ≤ (off i).toNat ∧ (off i).toNat + 8 ≤ al.2 + al.1 ∧
      (off i).toNat + 8 ≤ 4096)
    let key (i : Nat) : Nat := laneKey s.myCore i (off i).toNat
    (∀ i, act.find? (fun i => !fits i) = some i →
      let t := BitVec.ofNat 64 (4096 * i + (off i).toNat % 4096)
      let cause := if (off i).toNat % 8 = 0 then 0x08 else 0x05
      exec (.vldl o) s = s.traps cause t ∧ exec (.vstl o) s = s.traps cause t) ∧
    ((∀ i ∈ act, fits i = true) → Memory.wf s.mem = true →
      (c.canWrite (64 + o.a.v.val) → (∀ i ∈ act, poisoned s (key i) 8 = false) →
        ∃ (s1 : State) (r : VWord), exec (.vldl o) s = s1.completes (c.putV o.a.v r) ∧
          s1 = { s with hist := s1.hist, tick := s1.tick } ∧
          LoadedElems c o (o.q.getLsbD 3) act r 64 16 (fun i x => ∃ k ≤ passable (.thread c.cid) (key i) 8 s.hist,
            x = Mem.num (undo s.mem (key i) 8 k s.hist) (key i) 8)) ∧
      ∃ s1 : State, exec (.vstl o) s = s1.completes c ∧
        s1 = { s with mem := s1.mem, hist := s1.hist, poison := s1.poison, indexes := s1.indexes } ∧
        (∀ i ∈ act, Mem.num s1.mem (key i) 8 = lane 64 (c.getV o.a.v) i) ∧
        ∀ x, (∀ i ∈ act, x < key i ∨ key i + 8 ≤ x) → Mem.read s1.mem x = Mem.read s.mem x)

end Sys2Proof.Machine

/-- Vector loads and stores, strided, indexed and of lane slices: elements, addresses and checks. -/
def Obligations.VectorAccesses : Prop :=
  VectorMemory ∧ LaneSlices

namespace Sys2Proof.Machine

/-! Gangs and softmax pairs. -/

/-- Member index, size code and standing of GSTAT (Table 2.7). -/
def Ctx.memberIndex (c : Ctx) : Nat := (c.gstat.extractLsb' 4 3).toNat

/-- GANG (R29, R215): a gang member or a thread in the Trap state gets 0 at once; else the device tests the slots at the
thread's next offered clock, and places followers that copy the leader, or gives 0. -/
def GangInstruction : Prop :=
  ∀ (s : State) (c : Ctx) (o : Ops), s.Issues c → (o.imm = 2 ∨ o.imm = 4 ∨ o.imm = 8) → c.canWrite o.a.x →
    let n := o.imm.toNat
    let r := s.regionOf c
    let lone : Prop := c.gstat.getLsbD 0 = false ∧ c.tstat.getLsbD 1 = false
    let free : Prop := liveCount s r.id s.myDie + n - 1 ≤ r.mslot ∧
      ∀ u ∈ groupSlots s.cur n, u = s.cur ∨ (slotFree s u = true ∧ (s.slot u).owner.toNat = r.shq)
    (¬lone → exec (.gang o) s = s.completes (c.putX o.a.x 0)) ∧
    (lone → c.got.find? (·.1 == gangMark) = none → c.pend = {} →
      exec (.gang o) s = .next (s.setCtx ({ c with got := c.got ++ [(gangMark, BitVec.ofNat 64 s.clock)] }.parkAt s.clock .none 0))) ∧
    (lone → c.got.find? (·.1 == gangMark) ≠ none → ¬free → exec (.gang o) s = s.completes (c.putX o.a.x 0)) ∧
    (lone → c.got.find? (·.1 == gangMark) ≠ none → free → ∃ (t : State) (g : Word) (lead : Ctx), exec (.gang o) s = .next t ∧
      (t.slot s.cur).ctx = some lead ∧
      lead = ({ c.putX o.a.x (BitVec.ofNat 64 n) with gstat := g } : Ctx).complete .seq ∧
      g.getLsbD 0 = true ∧ g.getLsbD 1 = true ∧ 2 ^ (g.extractLsb' 2 2).toNat = n ∧ (g.extractLsb' 4 3).toNat = s.myCore % n ∧
      (∀ i, 7 ≤ i → g.getLsbD i = c.gstat.getLsbD i) ∧
      (∀ u ∈ groupSlots s.cur n, u ≠ s.cur → ∃ f, (t.slot u).ctx = some f ∧ f.x = lead.x ∧ f.xfe = lead.xfe ∧ f.m = lead.m ∧
        f.mfe = lead.mfe ∧ f.d = lead.d ∧ f.v = Vector.replicate 16 0 ∧ f.vfe = BitVec.allOnes 16 ∧ f.pc = lead.pc ∧
        f.vtype = lead.vtype ∧ f.cb = lead.cb ∧ f.te = lead.te ∧ f.wlim = lead.wlim ∧ f.plumb = lead.plumb ∧
        f.blk = lead.blk ∧ f.task = c.task ∧ f.region = c.region ∧ f.gstat.getLsbD 0 = true ∧ f.gstat.getLsbD 1 = false ∧
        f.memberIndex = nameCore u % n ∧ (t.slot u).inc = (s.slot u).inc + 1) ∧
      ∀ u, u ∉ groupSlots s.cur n → t.slot u = s.slot u)

/-- DISB and GID (R31, R216): DISB ends the gang in every member with DCAUSE 1 and acts as NOP elsewhere; GID gives the member
index, and 0 in the leader. -/
def GangMembers : Prop :=
  ∀ (s : State) (c : Ctx) (o : Ops), s.Issues c →
    (c.canWrite o.a.x → exec (.gid o) s = s.completes (c.putX o.a.x
      (if c.gstat.getLsbD 1 then 0 else BitVec.ofNat 64 c.memberIndex))) ∧
    (c.gstat.getLsbD 0 = false → exec (.disb o) s = s.completes c) ∧
    (c.gstat.getLsbD 0 = true → ∃ t, exec (.disb o) s = .next t ∧ (∀ u, u ∉ gangOf s s.cur → u ≠ s.cur → t.slot u = s.slot u) ∧
      ∀ u ∈ gangOf s s.cur, ∀ m, (s.slot u).ctx = some m → ∃ m', (t.slot u).ctx = some m' ∧ m'.gstat.getLsbD 0 = false ∧
        m'.gstat.getLsbD 7 = true ∧ m'.gstat.extractLsb' 10 2 = 1 ∧ m'.gstat.extractLsb' 12 3 = 0 ∧ m'.x = m.x ∧ m'.v = m.v ∧
        m'.m = m.m)

end Sys2Proof.Machine

/-- GANG forms a gang or gives 0, DISB ends it in every member, and GID gives the member index. -/
def Obligations.Gangs : Prop :=
  GangInstruction ∧ GangMembers

namespace Sys2Proof.Machine

/-- pmrg_pair (R217) of the pairs (m1, s1) and (m2, s2). -/
def mergePair (f : FloatFmt) (m1 s1 m2 s2 : Nat) : Nat × Nat :=
  let top := f.pick true m1 m2
  let weight (m : Nat) : Nat := if f.eq m top then f.bias * 2 ^ f.fb else sfuExp2 f (f.sub 0 m top)
  if f.decode m1 = .nan ∨ f.decode m2 = .nan then (f.nan, f.nan)
  else if f.decode m1 = .inf true then (m2, s2)
  else if f.decode m2 = .inf true then (m1, s1)
  else (top, f.add 0 (f.mul 0 s1 (weight m1)) (f.mul 0 s2 (weight m2)))

/-- PMRG (R217): under a type other than binary32 and binary64 cause 0x01; else each whole pair within VL is merged. -/
def SoftmaxMerge : Prop :=
  ∀ (s : State) (c : Ctx) (o : Ops), s.Issues c →
    (isWide c.et = false → exec (.pmrg o) s = s.traps 0x01 (c.npc - 2)) ∧
    (isWide c.et = true → c.vReady o false [(vSources o).1, (vSources o).2] →
      let x (i : Nat) : Nat := lane c.width (c.getV (vSources o).1) i
      let y (i : Nat) : Nat := lane c.width (c.getV (vSources o).2) i
      let pair (p : Nat) : Nat × Nat := mergePair (fmtOf c.et) (x (2 * p)) (x (2 * p + 1)) (y (2 * p)) (y (2 * p + 1))
      ∃ r, exec (.pmrg o) s = s.completes (c.putV o.a.v r) ∧ ∀ p < c.count / 2,
        (lane c.width r (2 * p), lane c.width r (2 * p + 1)) =
          if 2 * p + 1 < c.vl then ((pair p).1 % 2 ^ c.width, (pair p).2 % 2 ^ c.width)
          else (lane c.width (c.getV o.a.v) (2 * p), lane c.width (c.getV o.a.v) (2 * p + 1)))

/-- PXCH (R218, Table 2.9): the data waits in the partner's entry, or the partner's data fills A at once and B goes to the
register that the partner named, or B goes to the register in which the partner already waits; an arrival fills the
register. -/
def RegisterExchange : Prop :=
  ∀ (s : State) (c : Ctx) (o : Ops), s.Issues c → o.cx.val < 2 → c.isFull (64 + o.b.v.val) = true →
    c.canWrite (64 + o.a.v.val) →
    let k := o.cx.val
    let core := s.myCore / 4 * 4 + (s.myCore % 4 ^^^ (k + 1))
    let u := core * 16 + s.cur % 16
    (coreOk s core = false → exec (.pxch o) s = s.traps 0x08 0) ∧
    (coreOk s core = true →
      (∀ cid ra w, (s.slot s.cur).getXchg k = some (cid, ra, w) →
        let t := ((s.setSlot s.cur ((s.slot s.cur).putXchg k none)).modCtx cid (fun p =>
          { p with pxch := p.pxch.erase (k, s.cur, ra) })).due (.pxchDataArrival cid ra (c.getV o.b.v))
        exec (.pxch o) s = t.completes (t.ctx.putV o.a.v w)) ∧
      ((s.slot s.cur).getXchg k = none → ∀ cid ra, pxchWaiter s s.cur k = some (cid, ra) →
        let t := (s.modCtx cid (fun p => { p with pxch := p.pxch.erase (k, s.cur, ra) })).due
          (.pxchDataArrival cid ra (c.getV o.b.v))
        exec (.pxch o) s = t.completes { t.ctx.awaitReg (64 + o.a.v.val) with pxch := (k, u, o.a.v) :: t.ctx.pxch }) ∧
      ((s.slot s.cur).getXchg k = none → pxchWaiter s s.cur k = none → (s.slot u).getXchg k ≠ none →
        exec (.pxch o) s = s.parks .reg (BitVec.ofNat 64 (64 + o.a.v.val))) ∧
      ((s.slot s.cur).getXchg k = none → pxchWaiter s s.cur k = none → (s.slot u).getXchg k = none → exec (.pxch o) s =
        (s.setSlot u ((s.slot u).putXchg k (some (c.cid, o.a.v, c.getV o.b.v)))).completes
          { c.awaitReg (64 + o.a.v.val) with pxch := (k, u, o.a.v) :: c.pxch })) ∧
    ∀ (cid : Nat) (a : Fin 16) (data : VWord), ∃ t, exec (.pxchDataArrival cid a data) s = .next t ∧
      t = s.modCtx cid (fun c => (c.putV a data).setPend (64 + a.val) false) ∧
      ∀ c', s.findCtx cid = some c' → ∃ c'', t.findCtx cid = some c'' ∧ c''.getV a = data ∧ c''.isFull (64 + a.val) = true ∧
        c''.isPend (64 + a.val) = false

end Sys2Proof.Machine

/-- PMRG merges whole pairs within VL, and PXCH exchanges registers between partners. -/
def Obligations.SoftmaxPairs : Prop :=
  SoftmaxMerge ∧ RegisterExchange

namespace Sys2Proof.Machine

/-! Copies. -/

/-- A copy or index build as it joins its cluster's queue. -/
def State.begun (s : State) (c : Ctx) (tag : Nat) (desc : Option Word) (k : CopyKind) : Copy where
  id := s.ids
  clus := s.myClus
  core := s.myCore
  cid := c.cid
  name := BitVec.ofNat 14 s.cur
  inc := c.inc
  task := c.task
  region := c.region
  asid := (s.regionOf c).asid
  tag := tag
  desc := desc
  seq := c.seq
  kind := k
  pos := 0
  out := false
  cov := []
  stop := none
  back := none

/-- A copy or index build handed over (R77, R221): it waits for its tag and for room in the cluster's queue; then its tag is
taken, it joins the queue, and the instruction completes. -/
def HandedOver (i : Instr) (s s0 : State) (c : Ctx) (tag : Nat) (desc : Option Word) (k : CopyKind) (ev : Nat → Ev) : Prop :=
  let busy : Prop := c.tags.getLsbD tag = true ∨ 64 ≤ (s.copies.filter (·.clus == s.myClus)).length
  (busy → exec i s = s0.parks .tag (BitVec.ofNat 64 (2 ^ tag))) ∧
  (¬busy → ∃ (t : State) (c' : Ctx), exec i s = t.completes c' ∧
    c' = { c with cb := c'.cb, te := c'.te, tags := c'.tags, done := c'.done } ∧
    (∀ j, j ≠ tag → c'.cb.getLsbD j = c.cb.getLsbD j ∧ c'.te.getLsbD j = c.te.getLsbD j ∧ c'.tags.getLsbD j = c.tags.getLsbD j) ∧
    c'.cb.getLsbD tag = false ∧ c'.te.getLsbD tag = false ∧ c'.tags.getLsbD tag = true ∧ t.mem = s0.mem ∧
    t.copies = s0.copies ++ [s.begun c tag desc k] ∧ t.agenda = s0.agenda ++ [ev s.ids] ∧ t.cur = s.cur ∧ t.slots = s0.slots)

/-- A copy issued: one of no bytes completes its tag at once (R221). -/
def CopyIssued (i : Instr) (s s0 : State) (c : Ctx) (tag : Nat) (desc : Option Word) (d : CopyDesc) : Prop :=
  let total := d.dims.foldl (fun n k => n * k.1) d.len0
  (total ≠ 0 → HandedOver i s s0 c tag desc (.copy d) .copyComplete) ∧
  (total = 0 → c.tags.getLsbD tag = false → (s.copies.filter (·.clus == s.myClus)).length < 64 →
    ∃ (t : State) (c' : Ctx), exec i s = t.completes c' ∧ t = { s0 with regions := t.regions } ∧ c' = { c with cb := c'.cb, te := c'.te, tags := c'.tags, done := c'.done } ∧
      c'.cb.getLsbD tag = true ∧ c'.te.getLsbD tag = false ∧ c'.tags.getLsbD tag = false)

/-- CPY (R220, R221, Table 11.3): the words of the descriptor are loaded, as many as NDIM says, and then checked; a side
that names this package is a local one, by the model's reading (notes/assumptions/55.md). CPYS (R223) takes its one run from
registers. -/
def CopyInstructions : Prop :=
  ∀ (s : State) (c : Ctx) (o : Ops), s.Issues c →
    (∀ va, readOpd o.b 0 s = .ok va s →
      (va.toNat % 8 ≠ 0 → exec (.cpy o) s = s.traps 0x05 va) ∧
      ∀ (h : List Word) (s1 : State), va.toNat % 8 = 0 → ownWords va 6 s = .ok h s1 →
        let ctl := h.getD 2 0
        let n := (ctl.extractLsb' 0 5).toNat
        (n = 0 ∨ 16 < n → exec (.cpy o) s = s1.traps 0x08 va) ∧
        ∀ (l : List Word) (s2 : State), n ≠ 0 → n ≤ 16 → ownWords (va + 48) (3 * (n - 1)) s1 = .ok l s2 →
          let dims := (List.range (n - 1)).map (fun i => ((l.getD (3 * i) 0).toNat, (l.getD (3 * i + 1) 0).toInt,
            (l.getD (3 * i + 2) 0).toInt))
          let d : CopyDesc := {
            dst := h.getD 0 0, src := h.getD 1 0
            dnode := if ctl.getLsbD 10 && ctl.extractLsb' 48 16 != s2.node then some (ctl.extractLsb' 48 16) else none
            snode := if ctl.getLsbD 9 && ctl.extractLsb' 32 16 != s2.node then some (ctl.extractLsb' 32 16) else none
            fill := ctl.getLsbD 8, len0 := ((h.getD 3 0).extractLsb' 0 40).toNat, dims }
          let bad : Prop := ctl.extractLsb' 11 21 ≠ 0 ∨ ctl.extractLsb' 5 3 ≠ 0 ∨ (h.getD 3 0).extractLsb' 40 24 ≠ 0 ∨
            (ctl.getLsbD 10 = true ∧ ctl.getLsbD 9 = true) ∨ (∃ i < n - 1, (l.getD (3 * i) 0).extractLsb' 32 32 ≠ 0) ∨
            2 ^ 48 ≤ dims.foldl (fun n k => n * k.1) d.len0
          (bad → exec (.cpy o) s = s2.traps 0x08 va) ∧
          (¬bad → CopyIssued (.cpy o) s s2 c (o.a.num % 64) (some va) d)) ∧
    ∀ b : Fin 64, o.b = .r b → b.val < 63 → c.isFull b = true → c.isFull (b.val + 1) = true → c.isFull o.cx = true →
      let len := c.getX o.cx
      (len.extractLsb' 40 23 ≠ 0 → exec (.cpys o) s = s.traps 0x08 len) ∧
      (len.extractLsb' 40 23 = 0 → CopyIssued (.cpys o) s s c (o.a.num % 64) none
        { dst := c.getX b, src := c.getX (b + 1), dnode := none, snode := none, fill := len.getLsbD 63
          len0 := (len.extractLsb' 0 40).toNat, dims := [] })

/-- A copy of one aligned word within the package that is performed (R77, R79, R222): the word at its destination takes a
value that the source held after some store that the copy may read, nothing else is stored, the copy leaves the queue, and
its tag completes. A copy that waits for a reply stays as it is, and one of a halted die that has not begun waits. -/
def CopyPerformed : Prop :=
  ∀ (s : State) (id : Nat) (k : Copy) (d : CopyDesc), s.copies.find? (·.id == id) = some k → k.kind = .copy d →
    (k.out = true → exec (.copyComplete id) s = .next s) ∧
    (k.out = false → s.halted (k.clus / 16) = true → k.pos = 0 → k.back = none →
      exec (.copyComplete id) s = .next (s.due (.copyComplete id))) ∧
    ∀ (s1 s2 s3 : State) (key key' w t : Nat) (c : Ctx),
      let v : Mover := { agent := .engine id, own := some (k.cid, k.seq), asid := k.asid
                         place := place ((s.region? k.region).getD Region.blank) k.core }
      k.out = false → s.halted (k.clus / 16) = false → copyWaits s k v d = false → d.dims = [] → d.len0 = 8 →
      d.snode = none → d.dnode = none → d.fill = false → k.desc = none → isOrd d.src = true → isOrd d.dst = true →
      d.src.toNat % 8 = 0 → d.dst.toNat % 8 = 0 →
      resolve (engineSees s id k.cid k.seq) k.asid (.ord (homeDie d.src)) d.src 8 .r = (.ok key, s1) →
      engineRead s1 (.engine id) (some (k.cid, k.seq)) key 8 (viaOf s1 k.asid d.src) = (w, s2) →
      (∀ i < 8, heldByXu s2 k.asid (d.dst + BitVec.ofNat 64 i) 1 = false) →
      resolve s2 k.asid (.ord (homeDie d.dst)) d.dst 8 .w = (.ok key', s3) → pinned s3 key' 8 = false →
      Memory.wf s3.mem = true → s.slotOf k.cid = some t → (s.slot t).ctx = some c → k.tag < 64 →
      ∃ (s' : State) (c' : Ctx), exec (.copyComplete id) s = .next s' ∧ Mem.num s'.mem key' 8 = w ∧
        (∀ x, x < key' ∨ key' + 8 ≤ x → Mem.read s'.mem x = Mem.read s3.mem x) ∧ (∀ e ∈ s'.copies, e.id ≠ id) ∧
        (s'.slot t).ctx = some c' ∧ c'.cb.getLsbD k.tag = true ∧ c'.tags.getLsbD k.tag = false ∧ c'.te = c.te ∧ c'.pc = c.pc

end Sys2Proof.Machine

/-- CPY and CPYS check their operands and queue a copy; a copy performed writes its destination alone and completes
its tag. -/
def Obligations.Copies : Prop :=
  CopyInstructions ∧ CopyPerformed

namespace Sys2Proof.Machine

/-! Matrix records. -/

/-- A record of a number in the package's list has completed with a code. -/
def State.completed (s : State) (order code : Nat) : Prop :=
  ∃ m ∈ s.records, m.order = order ∧ m.state = .complete ∧ m.code = code

/-- MENQ (R225, R227), MQRY and MCAN (R234): the checks of the address and of the predecessors, the wait for a tag and for
room, and the record that is queued under the region's next number; the report of a record; a cancel, whose completion is a
step of the device in the same clock. -/
def MatrixInstructions : Prop :=
  ∀ (s : State) (c : Ctx) (o : Ops) (a : Fin 64) (v : Word), s.Issues c → o.a = .r a → c.canWrite a →
    readOpd o.b 0 s = .ok v s →
    let r := s.regionOf c
    let s1 := releaseMark s (.thread c.cid) ⟨2, some s.myCore⟩
    (c.canRelease → v.toNat % 128 ≠ 0 → exec (.menq o) s = s1.traps 0x05 v) ∧
    (∀ (l : List Word) (s2 : State), c.canRelease → v.toNat % 128 = 0 → ownWords v 16 s1 = .ok l s2 →
      let h := l.getD 0 0
      let npred := (h.extractLsb' 42 2).toNat
      let tag := (h.extractLsb' 24 6).toNat
      let preds := [((l.getD 14 0).extractLsb' 0 32).toNat, ((l.getD 14 0).extractLsb' 32 32).toNat].take npred
      let bad : Prop := npred = 3 ∨ ∃ p ∈ preds, r.lastRec < p
      let held : Prop := (h.getLsbD 30 = true ∧ c.tags.getLsbD tag = true) ∨
        r.mrecs ≤ (s.records.filter (fun k => k.region == r.id && k.state != .complete)).length
      (r.mrecs = 0 → exec (.menq o) s = s2.traps 0x08 v) ∧
      (r.mrecs ≠ 0 → bad → exec (.menq o) s = s2.completes (c.putX a 0x800000000000000F)) ∧
      (r.mrecs ≠ 0 → ¬bad → held → exec (.menq o) s = s2.parks .none 0) ∧
      (r.mrecs ≠ 0 → ¬bad → ¬held → ∃ (t : State) (c' : Ctx) (m : MRec),
        exec (.menq o) s = t.completes (c'.putX a (BitVec.ofNat 64 (recId r.nextRec))) ∧
        c' = { c with cb := c'.cb, te := c'.te, tags := c'.tags, done := c'.done } ∧
        (h.getLsbD 30 = false → c' = c) ∧ (h.getLsbD 30 = true → c'.tags.getLsbD tag = true ∧ c'.cb.getLsbD tag = false) ∧
        m ∈ t.records ∧ m.id = recId r.nextRec ∧ m.region = r.id ∧ m.va = v ∧ m.state = .waiting ∧ m.code = 0 ∧ m.cid = c.cid ∧
        (∀ i : Fin 16, m.words[i] = l.getD i.val 0) ∧ t.mem = s2.mem ∧ t.cur = s.cur ∧ t.slots = s2.slots)) ∧
    (∃ w : Word, exec (.mqry o) s = s.completes (c.putX a w) ∧
      (recOf s r.id v.toNat = none ∨ r.keeps v.toNat = false → w = 0) ∧
      ∀ m, recOf s r.id v.toNat = some m → r.keeps v.toNat = true → m.code < 256 → m.pcode < 256 →
        w.extractLsb' 0 40 = (match m.state with
          | .waiting => if recReady s m then 2 else 1
          | .running => 3
          | .complete => 4) ∧
        (w.extractLsb' 40 8).toNat = (match m.roller with
          | some cl => clusIndex cl % 256
          | none => 0xFF) ∧
        (m.state = .complete → (w.extractLsb' 48 8).toNat = m.code ∧ (w.extractLsb' 56 8).toNat = m.pcode)) ∧
    (r.keeps v.toNat = false ∨ recOf s r.id v.toNat = none → exec (.mcan o) s = s.completes (c.putX a 2)) ∧
    ∀ m, r.keeps v.toNat = true → recOf s r.id v.toNat = some m →
      (m.state ≠ .waiting ∨ m.code ≠ 0 → exec (.mcan o) s = s.completes (c.putX a 1)) ∧
      (m.state = .waiting → m.code = 0 → m.isPartner = false → ∃ t : State, exec (.mcan o) s = t.completes (c.putX a 0) ∧
        (∃ k ∈ t.records, k = { m with code := 0x0D, pcode := 0 }) ∧ t.mem = s.mem ∧ t.cur = s.cur ∧ t.slots = s.slots ∧
        t.agenda = s.agenda ++ [.matrixRecordComplete m.region m.id] ∧
        t.bounds = s.bounds ++ [(s.clock, .matrixRecordComplete m.region m.id)])

/-- The Roller's own steps (R81, R113, R228 to R233): the scheduler completes the record in hand that fails its checks and
starts one that passes; a consumed line is unpinned and the next one pinned; a record that has consumed its inputs completes,
hands its sums to its lead, or holds its drain, and pairs and held drains time out: a millisecond is 2,500,000 clocks and ids
of predecessors compare as they stand, by the model's choices (notes/assumptions/52.md and 86.md). -/
def MatrixSteps : Prop :=
  (∀ (s : State) (die : Nat), s.halted die = true → exec (.matrixRecordIssue die) s = .next (s.due (.matrixRecordIssue die))) ∧
  (∀ (s : State) (die : Nat) (m : MRec), s.halted die = false →
    s.records.filter (fun m => m.die == die && m.state == .waiting) = [m] → m.code = 0 → recReady s m = true →
    m.isLead = false → m.isPartner = false → (∀ code, endWaits s m code = false) →
    ∃ t, exec (.matrixRecordIssue die) s = .next t ∧
      (predsDone s m = false → t.completed m.order 0x0A) ∧
      (predsDone s m = true → recCheck s m ≠ 0 → t.completed m.order (recCheck s m)) ∧
      (predsDone s m = true → recCheck s m = 0 → m.rows = 0 → m.cntv = false → t.completed m.order 1) ∧
      (predsDone s m = true → recCheck s m = 0 → m.rows ≠ 0 → m.wld = true → chainOf s m = none → inputsRecalled s m = false →
        rollerFree s m.clus = true → m.clus / 16 = die → ∃ m' ∈ t.records, m'.order = m.order ∧ m'.state = .running ∧
          m'.roller = some m.clus ∧ m'.words = m.words)) ∧
  (∀ (s : State) (region id : Nat) (p : Nat × Nat × Nat) (m : MRec),
    s.pins.find? (fun p => p.1 == region && p.2.1 == id) = some p →
    s.records.find? (fun m => m.region == region && m.id == id) = some m →
    ∃ t, exec (.pinnedLineUnpin region id) s = .next t ∧
      t.pins = s.pins.erase p ++ (m.lines.take 1).map (fun k => (region, id, k)) ∧ t.mem = s.mem) ∧
  (∀ (s : State) (region id : Nat) (m : MRec), recOf s region id = some m →
    s.pins.any (fun p => p.1 == region && p.2.1 == id) = false →
    (m.state = .complete → exec (.matrixRecordComplete region id) s = .next s) ∧
    (m.state ≠ .complete → m.code ≠ 0 → m.code ≠ 1 → m.isPartner = false → endWaits s m m.code = false →
      ∃ t, exec (.matrixRecordComplete region id) s = .next t ∧ t.completed m.order m.code) ∧
    (m.state = .running → m.code = 0 → m.isPartner = true → m.drain = false → exec (.matrixRecordComplete region id) s =
      .next ((putRec s { m with drain := true }).due (.partnerSumsArrival region id))) ∧
    (m.state = .running → m.code = 0 → m.isPartner = false → m.isLead = true → m.sums = none → m.drain = false →
      exec (.matrixRecordComplete region id) s =
        .next ((putRec s { m with drain := true }).timeout 2500000 (.pairTimeout region id))) ∧
    (m.state = .running → m.code = 0 → m.isPartner = false → m.isLead = false → m.sums = none →
      (m.chn = true → m.cntv = false → endWaits s m 1 = false → ∃ t, exec (.matrixRecordComplete region id) s = .next t ∧
        t.completed m.order 1 ∧
        (t.roller (m.roller.getD 0)).drain = some (m.order, m.acc)) ∧
      (m.chn = false → ∀ code s1, drainOut s m m.acc = some (code, s1) → code ≠ 1 ∨ m.cntv = false → s1.records = s.records →
        endWaits s1 m code = false →
        ∃ t, exec (.matrixRecordComplete region id) s = .next t ∧ t.completed m.order code))) ∧
  (∀ (s : State) (region id : Nat) (m l : MRec), recOf s region id = some m → m.state = .running → m.drain = true →
    m.cntv = false → endWaits s m 1 = false → m.order ≠ l.order → recOf s region m.pred1 = some l → l.isLead = true →
    l.state = .running → l.code = 0 →
    (∀ k ∈ s.records, k.order = m.order → k = m) →
    ∃ t, exec (.partnerSumsArrival region id) s = .next t ∧ t.completed m.order 1 ∧
      ∃ l' ∈ t.records, l'.order = l.order ∧ l'.sums = some m.acc) ∧
  (∀ (s : State) (region id : Nat) (l : MRec), recOf s region id = some l →
    (l.sums ≠ none → exec (.pairTimeout region id) s = .next s) ∧
    (l.state = .running → l.drain = true → l.sums = none → l.code = 0 → endWaits s l 9 = false →
      s.records.all (fun p => !(p.region == region && p.isPartner && p.pred1 == id)) = true →
      ∃ t, exec (.pairTimeout region id) s = .next t ∧ t.completed l.order 9)) ∧
  ∀ (s : State) (clus hold : Nat),
    ((s.roller clus).drain.map (·.1) ≠ some hold → exec (.chainHoldTimeout clus hold) s = .next s) ∧
    ((s.roller clus).drain.map (·.1) = some hold → ∃ t, exec (.chainHoldTimeout clus hold) s = .next t ∧
      (t.roller clus).drain = none ∧ t.mem = s.mem)

end Sys2Proof.Machine

/-- MENQ, MQRY and MCAN, and the steps of the Rollers on their records. -/
def Obligations.MatrixRecords : Prop :=
  MatrixInstructions ∧ MatrixSteps

namespace Sys2Proof.Machine

/-! The Stipple. -/

/-- DCFG and DQRY (R237, R238): the checks of their operands, the build handed over, the query handed over; a query of no
elements completes at once. -/
def StippleInstructions : Prop :=
  ∀ (s : State) (c : Ctx) (o : Ops), s.Issues c →
    let s1 (s : State) : State := releaseMark s (.thread c.cid) ⟨2, some s.myCore⟩
    (∀ va, readOpd o.b 0 s = .ok va s →
      (va.toNat % 64 ≠ 0 → exec (.dcfg o) s = s.traps 0x05 va) ∧
      ∀ (l : List Word) (s0 : State), va.toNat % 64 = 0 → ownWords va 8 s = .ok l s0 →
        let n := ((l.getD 1 0).extractLsb' 0 32).toNat
        let bad : Prop := n < 12 ∨ n % 4 ≠ 0 ∨ (l.getD 2 0).toNat % 128 ≠ 0 ∨ l.getD 6 0 ≠ 0 ∨ l.getD 7 0 ≠ 0
        (bad → exec (.dcfg o) s = s0.traps 0x08 va) ∧
        (¬bad → c.canRelease → HandedOver (.dcfg o) s (s1 s0) c (o.a.num % 64) (some va)
          (.index { pts := l.getD 0 0, count := ((l.getD 1 0).extractLsb' 32 32).toNat, pstr := n, idx := l.getD 2 0
                    idxsz := l.getD 3 0 }) .indexBuildComplete)) ∧
    (∀ buf desc, readOpd o.a 1 s = .ok buf s → readOpd o.b 0 s = .ok desc s → c.isFull o.cx = true →
      let p := c.getX o.cx
      let bad : Prop := p.extractLsb' 41 23 ≠ 0 ∨ p.getLsbD 39 = true ∨ p.extractLsb' 32 7 = 0 ∨
        64 < (p.extractLsb' 32 7).toNat ∨ (p.getLsbD 40 = false ∧ (f32.decode (p.extractLsb' 0 32).toNat = .nan ∨
          ((p.extractLsb' 0 32).getLsbD 31 = true ∧ p.extractLsb' 0 31 ≠ 0)))
      let ready : Prop := (∀ i < 5, c.isFull (64 + i) = true ∧ c.canWrite (64 + i)) ∧ c.canRelease
      (c.et ≠ 10 → exec (.dqry o) s = s.traps 0x01 (c.npc - 2)) ∧
      (c.et = 10 → buf.toNat % 256 ≠ 0 → exec (.dqry o) s = s.traps 0x05 buf) ∧
      (c.et = 10 → buf.toNat % 256 = 0 → desc.toNat % 64 ≠ 0 → exec (.dqry o) s = s.traps 0x05 desc) ∧
      (c.et = 10 → buf.toNat % 256 = 0 → desc.toNat % 64 = 0 → bad → exec (.dqry o) s = s.traps 0x08 p) ∧
      (c.et = 10 → buf.toNat % 256 = 0 → desc.toNat % 64 = 0 → ¬bad → ready →
        (c.vl = 0 → exec (.dqry o) s = (s1 s).completes ((c.putV 3 0).putV 4 0)) ∧
        (c.vl ≠ 0 → ∃ (t : State) (q : Query), exec (.dqry o) s = .next t ∧ t.agenda = s.agenda ++ [.stippleQueryReturn c.cid] ∧
          q.buf = buf ∧ q.desc = desc ∧ q.param = p ∧ q.vl = c.vl ∧ q.core = s.myCore ∧
          q.place = descKey (s1 s) (s.regionOf c) s.myCore desc ∧ (t.slot s.cur).ctx = some { c with
            query := some q, stage := 1, run := .away, wait := some ⟨.none, 0, s.clock⟩ } ∧ t.mem = s.mem)))

/-- What a query is answered (R239): at most CAP kept points within the radius, the nearest, in the order of their distances and
equals in that of their indices, and every one within the radius where the count does not reach CAP. -/
def StippleAnswers : Prop :=
  (∀ (pts : List (BitVec 32 × BitVec 32 × BitVec 32 × Nat)) (p : Word) (x y z : Nat),
    let d2 (e : BitVec 32 × BitVec 32 × BitVec 32 × Nat) : Nat :=
      let sq (a b : Nat) : Nat := f32.mul 0 (f32.sub 0 a b) (f32.sub 0 a b)
      f32.add 0 (f32.add 0 (sq e.1.toNat x) (sq e.2.1.toNat y)) (sq e.2.2.1.toNat z)
    let r := (p.extractLsb' 0 32).toNat
    let near (e : BitVec 32 × BitVec 32 × BitVec 32 × Nat) : Prop :=
      f32.decode (d2 e) ≠ .nan ∧ (p.getLsbD 40 = true ∨ f32.le (d2 e) (f32.mul 0 r r) = true)
    let l := (answer pts p x y z).1
    let cap := (p.extractLsb' 32 7).toNat
    let num : Prop := f32.decode x ≠ .nan ∧ f32.decode y ≠ .nan ∧ f32.decode z ≠ .nan
    let before (g e : BitVec 32 × BitVec 32 × BitVec 32 × Nat) : Prop := d2 g < d2 e ∨ (d2 g = d2 e ∧ g.2.2.2 ≤ e.2.2.2)
    l.length ≤ cap ∧ (¬num → l = []) ∧ (num → l.length < cap → ∀ e ∈ pts, near e → e.2.2.2 ∈ l) ∧
    ∃ es : List (BitVec 32 × BitVec 32 × BitVec 32 × Nat), l = es.map (·.2.2.2) ∧ (∀ e ∈ es, e ∈ pts ∧ near e) ∧ es.Pairwise before ∧
      (num → ∀ e ∈ pts, near e → e.2.2.2 ∉ l → ∀ g ∈ es, before g e)) ∧
  (∀ (s : State) (id : Nat) (k : Copy) (d : IndexDesc) (desc : Word) (key : Nat),
    s.copies.find? (·.id == id) = some k → k.kind = .index d → k.desc = some desc →
    desc.toNat % 64 = 0 → ownKey s ((s.region? k.region).getD Region.blank) k.core (desc + 0x28) = some key →
    (k.pos = 0 → s.halted (k.clus / 16) = true → exec (.indexBuildComplete id) s = .next (s.due (.indexBuildComplete id))) ∧
    (k.pos = 0 → s.halted (k.clus / 16) = false → buildWaits s k desc d = false → storePoisoned s (key + 6) 2 = false →
      Memory.wf s.mem = true → ∃ t, exec (.indexBuildComplete id) s = .next t ∧ Mem.num t.mem (key + 6) 2 = 0 ∧
        (∀ x, x < key + 6 ∨ key + 8 ≤ x → Mem.read t.mem x = Mem.read s.mem x) ∧ .indexBuildComplete id ∈ t.agenda)) ∧
  ∀ (s : State) (cid : Nat) (c : Ctx) (q : Query) (x : Index) (s1 s2 : State), s.findCtx cid = some c → c.query = some q →
    let r := s.regionOf c
    let v : Mover := { agent := .engine q.id, own := none, asid := r.asid, place := place r q.core }
    let ans (i : Nat) := answer x.points q.param (lane 32 (c.getV 0) i) (lane 32 (c.getV 1) i) (lane 32 (c.getV 2) i)
    q.place.bind (fun p => s.indexes.find? (·.place == p)) = some x → x.ok = true → q.index = some x.id →
    s.halted (q.core / 256) = false → queryWaits s v q (some x) = false →
    queryCheck v q (some x) (acquireMark s v.agent 2 (seat (q.core / 16))) = (0, s1) →
    writeAnswers v q.buf ((List.range q.vl).map (fun i => (i, (ans i).1))) { s1 with tick := s1.tick + 1 } = some (none, s2) →
    ∃ counts dropped : VWord, exec (.stippleQueryReturn cid) s =
        .next (finishCtx (observe s2 (.thread cid) v.agent) cid (fun c => c.queryDone counts dropped)) ∧
      ∀ i < 32, lane 32 counts i = (if i < q.vl then (ans i).1.length else 0) ∧
        lane 32 dropped i = if i < q.vl then (ans i).2 % 2 ^ 32 else 0

end Sys2Proof.Machine

/-- DCFG and DQRY check and hand over; a query is answered by at most CAP points within the radius, nearest first.
-/
def Obligations.StippleQueries : Prop :=
  StippleInstructions ∧ StippleAnswers

namespace Sys2Proof.Machine

/-! Tasks and regions. -/

/-- POST and SPAWN (R32, R56, R185, R186): the checks that trap, the POST on its way to its home XU, and the record pushed
to the core's deque or the die's spill queue. -/
def PostAndSpawn : Prop :=
  ∀ (s : State) (c : Ctx) (o : Ops) (v : Word), s.Issues c → readOpd o.b 0 s = .ok v s →
    let r := s.regionOf c
    let node := v.extractLsb' 48 16
    let known : Prop := r.tsp ≠ 5 ∧ v.extractLsb' 32 16 = 0 ∧ isPresent s node = true ∧
      (node = s.node → ∀ g, s.grp? r.grpKey = some g → (v.extractLsb' 0 32).toNat < g.count) ∧
      (node = s.node → s.grp? r.grpKey ≠ none)
    let p : PostMsg := { grp := r.grpKey, elem := v, rcb := r.rcbva, region := r.id, node := s.node }
    (¬known → exec (.post o) s = s.traps 0x12 v) ∧
    (known → node = s.node → exec (.post o) s = (s.due (.postArrival p)).completes c) ∧
    (known → node ≠ s.node → exec (.post o) s =
      (fabSend s node s.cur c.inc r.asid (.post p) (.post r.id v)).completes c) ∧
    ∀ a : Fin 64, o.a = .r a → c.canWrite a → (∀ i : Fin 64, 5 ≤ i → i ≤ 8 → c.isFull i.val = true) →
      let rec' : Spawn := { id := s.ids, region := r.id, entry := v, x5 := c.getX 5, x6 := c.getX 6, x7 := c.getX 7, x8 := c.getX 8 }
      let s0 := releaseMark s (.thread c.cid) ⟨2, some s.myCore⟩
      let s1 := s0.fresh.2
      let co := s.core s.myCore
      let spill := r.spill.getD s.myDie []
      let room := r.quota / 4 / 64
      (v.getLsbD 0 = true → exec (.spawn o) s = s.traps 0x05 v) ∧
      (v.getLsbD 0 = false → v.extractLsb' 56 8 ≠ 0 → exec (.spawn o) s = s.traps 0x08 v) ∧
      (v.getLsbD 0 = false → v.extractLsb' 56 8 = 0 → c.canRelease →
        (co.deque.length < 16 → exec (.spawn o) s =
          (s1.setCore s.myCore { co with deque := rec' :: co.deque }).completes (c.putX a 0)) ∧
        (16 ≤ co.deque.length → spill.length < room → exec (.spawn o) s =
          (s1.modRegion r.id (fun q => { q with spill := q.spill.set! s.myDie (spill ++ [rec']) })).completes (c.putX a 1)) ∧
        (16 ≤ co.deque.length → room ≤ spill.length → exec (.spawn o) s = s0.parks .deque 1))

/-- LAUNCH (R19, R187): the thread parks until the device has read the RCB, and then goes on with its result pending. The read
waits while the tree is stilled (R373) or an engine owns a line of the RCB (R79, R96). -/
def LaunchInstruction : Prop :=
  (∀ (s : State) (c : Ctx) (o : Ops) (a : Fin 64) (va : Word), s.Issues c → o.a = .r a → c.canWrite a →
    readOpd o.b 0 s = .ok va s →
    (va.toNat % 256 ≠ 0 → exec (.launch o) s = s.traps 0x05 va) ∧
    (va.toNat % 256 = 0 → c.canRelease → ∃ (t : State) (l : Launch), exec (.launch o) s = .next t ∧
      t.launches = Tab.set s.launches s.ids l ∧ t.agenda = s.agenda ++ [.regionAdmission s.ids] ∧ t.mem = s.mem ∧
      (t.slot s.cur).ctx = some (({ c with stage := 1 } : Ctx).parkAt s.clock .none 0) ∧
      l.rcbva = va ∧ l.rcb = none ∧ l.parent = some (s.regionOf c).id ∧ l.asid = (s.regionOf c).asid ∧
      l.user = (c.level == .user) ∧ l.cid = some c.cid ∧ l.reg = a)) ∧
  (∀ (s : State) (id cid t : Nat) (l : Launch) (p : Region) (c : Ctx), Tab.get? s.launches id = some l → l.rcb = none →
    l.parent.bind s.region? = some p → l.cid = some cid → s.slotOf cid = some t → (s.slot t).ctx = some c →
    (p.still = true ∨ anyOwns s l.asid l.rcbva 256 = true →
      exec (.regionAdmission id) s = .next (s.due (.regionAdmission id))) ∧
    (p.still = false → anyOwns s l.asid l.rcbva 256 = false → c.got = [] →
      let s1 := touchWords s l.asid 32 l.rcbva
      ∃ (s' : State) (l' : Launch), exec (.regionAdmission id) s = .next s' ∧
      s'.launches = Tab.set s1.launches id l' ∧ .regionAdmission id ∈ s'.agenda ∧
      (s'.slot t).ctx = some ((c.awaitReg l.reg.val).complete .seq) ∧
      l' = { l with rcb := l'.rcb, bad := l'.bad } ∧ l'.rcb ≠ none ∧
      (∀ ws, devWords s1 l.asid 32 l.rcbva = .ok ws → l'.bad = false ∧ ∀ v, l'.rcb = some v → ∀ i : Fin 32, v[i] = ws.getD i.val 0) ∧
      (∀ va, devWords s1 l.asid 32 l.rcbva = .error va → l'.bad = true))) ∧
  ∀ (s : State) (cid t : Nat) (reg : Fin 64) (code : Nat) (c : Ctx), s.slotOf cid = some t → (s.slot t).ctx = some c →
    c.got = [] → c.rfq.filter (·.1 == reg) = [] → ∃ (s' : State) (c' : Ctx), exec (.launchResult cid reg code) s = .next s' ∧
      (s'.slot t).ctx = some c' ∧ c'.getX reg = (if reg = 0 then 0 else BitVec.ofNat 64 code) ∧ c'.isFull reg.val = true ∧
      c'.isPend reg.val = false

/-- The admission of a region whose RCB has been read (R19, R316, R317, R320, R321): the depth, the read error, the reserved
fields and the alignment are refused by their codes in this order; a region that passes every check is live with the
fields of its RCB, its parent's where its own word 1 does not override them, and with one level more. A claim table or map that
an engine owns a line of is waited for (R79). -/
def RegionAdmission : Prop :=
  ∀ (s : State) (id : Nat) (l : Launch) (own : Vector Word 32), Tab.get? s.launches id = some l → l.rcb = some own →
    let parent := l.parent.bind s.region?
    let rcb := match parent with
      | some p => inheritRcb own p.rcb
      | none => own
    let s0 : State := { s with launches := Tab.erase s.launches id }
    let asked : Region := { Region.blank with id := s.ids, rcb := rcb, asid := l.asid, rcbva := l.rcbva }
    let root : Region := { asked with live := true, parent := none, cookie := l.cookie }
    let owned : Prop := asked.tsp ≠ 5 ∧ tableOwned s l.asid asked.ctab asked.elems asked.tsp (asked.w 5) (asked.w 6) = true
    let fieldsOk : Prop := (∀ f ∈ rcbReserved, (own.getD f.1 0).toNat / 2 ^ f.2.2 % 2 ^ (f.2.1 + 1 - f.2.2) = 0) ∧
      (own.getD 1 0).extractLsb' 27 5 = 0 ∧ badFields s asked = false
    let aligned : Prop := (asked.w 0).toNat % 2 = 0 ∧ (asked.w 4).toNat % 64 = 0 ∧ (asked.w 12).toNat % 128 = 0 ∧
      (asked.w 14).toNat % 65536 = 0 ∧ (asked.w 17).toNat % 4096 = 0 ∧ (asked.w 19).toNat % 64 = 0 ∧
      (asked.w 25).toNat % 8 = 0 ∧ asked.ofb % 8 = 0
    (owned → exec (.regionAdmission id) s = .next (s.due (.regionAdmission id))) ∧ (¬owned →
    (∀ p cid, parent = some p → l.cid = some cid → ∃ (t : State) (code : Nat), exec (.regionAdmission id) s = .next t ∧
      .launchResult cid l.reg code ∈ t.agenda ∧
      (p.level = 7 → code = 1) ∧
      (p.level ≠ 7 → l.bad = true → code = 2) ∧
      (p.level ≠ 7 → l.bad = false → (own.getD 1 0).extractLsb' 27 5 ≠ 0 ∨ 5 < asked.tsp ∨ asked.mslot = 0 ∨ 4096 < asked.mslot →
        code = 3) ∧
      (p.level ≠ 7 → l.bad = false → fieldsOk → ¬aligned → code = 4) ∧
      (code ≠ 0 → t.regions = s.regions ∧ t.mem = s.mem) ∧
      (code = 0 → ∃ q, t.region? s.ids = some q ∧ q.live = true ∧ q.rcb = rcb ∧ q.asid = l.asid ∧ q.rcbva = l.rcbva ∧
        q.parent = l.parent ∧ q.level = p.level + 1 ∧ q.halted = 0)) ∧
    (∀ i, l.parent = none → l.cid = none → l.entry = some i → refusal s0 l own root none = none →
      ∃ (t : State) (q : Region), exec (.regionAdmission id) s = .next t ∧ t.region? s.ids = some q ∧ q.live = true ∧
        q.rcb = own ∧ q.level = 0 ∧ q.parent = none ∧ t.host.lqhead = s.host.lqhead + 1)) ∧
    (∀ g ∈ rcbGroups, ∀ f ∈ g.2, ∀ parent : Vector Word 32,
      ((inheritRcb own parent).getD f.1 0).toNat / 2 ^ f.2.2 % 2 ^ (f.2.1 + 1 - f.2.2) =
        ((if (own.getD 1 0).getLsbD g.1 then own else parent).getD f.1 0).toNat / 2 ^ f.2.2 % 2 ^ (f.2.1 + 1 - f.2.2))

/-- The completion of a region (R20, R21, R327): one that still has work stays; one that has none is no longer live, its
parent's contexts see it, and a region without a parent sends event 9, as die 0 by the model's choice
(notes/assumptions/103.md; its status there by 114.md). Its counter and LIVE are written once no engine owns their line. -/
def RegionCompletion : Prop :=
  ∀ (s : State) (rid : Nat) (r : Region), s.region? rid = some r → r.id = rid →
    (r.live = false ∨ (r.halted = 0 ∧ regionDone s r = false) → exec (.regionComplete rid) s = .next s) ∧
    let held : Prop := (r.cntva ≠ 0 ∧ heldUp s s.ids r.asid r.cntva 8 = true) ∨
      (r.tsp ≠ 5 ∧ heldUp s s.ids r.asid (r.ctab + 0x28) 8 = true)
    (r.live = true → (r.halted ≠ 0 ∨ regionDone s r = true) → held →
      exec (.regionComplete rid) s = .next (s.due (.regionComplete rid))) ∧
    (r.live = true → (r.halted ≠ 0 ∨ regionDone s r = true) → ¬held →
      ∃ (t : State) (q : Region), exec (.regionComplete rid) s = .next t ∧
      t.region? rid = some q ∧ q.live = false ∧ q.rcb = r.rcb ∧ q.halted = r.halted ∧
      (r.parent = none → r.cntva = 0 → r.tsp = 5 → r.ofv = false →
        let val : Word := BitVec.ofNat 64 (if r.halted ≠ 0 then r.halted else if r.faulted then 1 else 0)
        t = (s.modRegion rid (fun q => { q with live := false })).event
          { type := 9, die := 0, cookie := r.cookie, source := r.rcbva, val })) ∧
    (r.live = true → ∀ k ∈ s.tasks, k.2.region = rid → regionDone s r = false) ∧
    (r.live = true → ∀ q ∈ s.regions, q.2.live = true → q.2.parent = some rid → regionDone s r = false)

end Sys2Proof.Machine

/-- A region is admitted with the fields of its RCB or refused by code, and completes when it has no work. -/
def Obligations.RegionLives : Prop :=
  RegionAdmission ∧ RegionCompletion

namespace Sys2Proof.Machine

/-- The item of a task's binding that TCRD reads (Table 9.7). -/
def boundItem (r : Region) (t : Task) (sel : Word) : Word :=
  let tile := r.tsp = 5 ∧ t.spawned = false
  let elem := r.tsp ≠ 5 ∧ t.spawned = false
  if sel = 0 then (if t.spawned then 0 else t.coord)
  else if sel = 1 then (if tile then (t.coord.extractLsb' 0 20).setWidth 64 else 0)
  else if sel = 2 then (if tile then (t.coord.extractLsb' 20 20).setWidth 64 else 0)
  else if sel = 3 then (if tile then (t.coord.extractLsb' 40 20).setWidth 64 else 0)
  else if sel = 4 then (if elem then (t.coord.extractLsb' 0 32).setWidth 64 else 0)
  else if sel = 5 then (if elem then (t.coord.extractLsb' 48 16).setWidth 64 else 0)
  else if sel = 6 then (if t.again then 1 else 0)
  else if sel = 7 then r.rcbva
  else if sel = 8 then BitVec.ofNat 64 r.level
  else if sel = 9 then (if t.spawned then 1 else 0)
  else 0

/-- The home of a VA (Table 9.9) for a thread of a core. -/
def homeFields (core : Nat) (va w : Word) : Prop :=
  let win := va.extractLsb' 48 8
  let clus := va.extractLsb' 40 8
  let die := core / 256
  let gives (cl cr home : Nat) : Prop := w.extractLsb' 48 8 = win ∧ w.extractLsb' 8 8 = BitVec.ofNat 8 cl ∧
    w.extractLsb' 4 4 = BitVec.ofNat 4 cr ∧ w.getLsbD 3 = decide (home = die) ∧ w.extractLsb' 0 2 = BitVec.ofNat 2 home ∧
    w &&& 0xFF00FFFFFFFF0004 = 0
  if va.extractLsb' 56 8 ≠ 0 then w = 0x8000000000000000
  else if win < 0xF0 then gives 0xFF 0xF (va.extractLsb' 21 2 ^^^ va.extractLsb' 29 2).toNat
  else if win < 0xFD then w = 0x8000000000000000
  else if win = 0xFF then
    if va.extractLsb' 18 30 ≠ 0 then w = 0x8000000000000000 else gives (clusIndex (core / 16)) (core % 16) die
  else if win = 0xFE then
    if va.extractLsb' 22 18 ≠ 0 ∨ (64 ≤ clus.toNat ∧ clus ≠ 0xFF) then w = 0x8000000000000000
    else
      let index := if clus = 0xFF then clusIndex (core / 16) else clus.toNat
      gives index (va.extractLsb' 7 4).toNat (clusOfIndex index / 16)
  else if va.extractLsb' 26 20 ≠ 0 then w = 0x8000000000000000 else gives 0xFF 0xF (va.extractLsb' 46 2).toNat

/-- TCRD, RWAIT and HOMEQ (R188 to R190). RWAIT waits for a child whose LAUNCH awaits its result, by the model's choice
(notes/assumptions/32.md); the status that it gives is that of 114.md. -/
def TaskQueries : Prop :=
  ∀ (s : State) (c : Ctx) (o : Ops) (v : Word) (a : Fin 64), s.Issues c → o.a = .r a → c.canWrite a →
    readOpd o.b 0 s = .ok v s →
    let r := s.regionOf c
    (∀ t, Tab.get? s.tasks c.task = some t → exec (.tcrd o) s = s.completes (c.putX a (boundItem r t v))) ∧
    (s.myCore < 1024 → ∃ w, exec (.homeq o) s = s.completes (c.putX a w) ∧ homeFields s.myCore v w) ∧
    (s.launches.any (fun l => l.2.parent == some r.id && l.2.rcbva == v) = true → exec (.rwait o) s = s.parks .region v) ∧
    (s.launches.any (fun l => l.2.parent == some r.id && l.2.rcbva == v) = false →
      (s.regions.all (fun e => !(e.2.parent == some r.id && e.2.rcbva == v)) = true → exec (.rwait o) s = s.traps 0x08 v) ∧
      ∀ q, childAt s r.id v = some q →
        (q.live = true → q.halted = 0 → exec (.rwait o) s = s.parks .region v) ∧
        (q.live = false ∨ q.halted ≠ 0 → exec (.rwait o) s =
          (acquireMark s (.thread c.cid) 2 (some s.myCore)).completes
            (c.putX a (BitVec.ofNat 64 (if q.halted ≠ 0 then q.halted else if q.faulted then 1 else 0)))))

/-! Claims. -/

/-- The entry of an element of a group. -/
def State.entryIs (s : State) (k : GroupKey) (i : Nat) (e : Entry) : Prop := ∃ g, s.grp? k = some g ∧ g.entry i = e

/-- A claim request at its home entry (R47, R51, Table 3.7): an X request is granted where nothing holds or waits, an S
request where no X holds and nothing waits; the others join the FIFO; and the word in memory is that of the entry. -/
def ClaimRequests : Prop :=
  ∀ (s : State) (r : ClaimReq) (g : Group) (key : Nat), s.grp? r.grp = some g → g.ever = true → r.elem < g.count →
    g.deferred.any (fun q => q.2.elem == r.elem) = false → cacheFull s (entryDie r.grp r.elem) = false →
    devKey s r.grp.asid (entryVa r.grp r.elem) true = some key →
    devKey s r.grp.asid (entryVa r.grp r.elem) false = some key → Memory.wf s.mem = true →
    let e := g.entry r.elem
    let free : Prop := e.xh = false ∧ e.fifo = [] ∧ (r.x = true → e.scnt = 0)
    e.fifo.length < 4096 → e.scnt < 4095 →
    ∃ (t : State) (e' : Entry), exec (.claimRequestArrival r) s = .next t ∧ t.entryIs r.grp r.elem e' ∧
      Mem.num t.mem key 8 = e'.word ∧ (∀ x, x < key ∨ key + 8 ≤ x → Mem.read t.mem x = Mem.read s.mem x) ∧
      (free → (r.node = s.node → .claimGrantArrival r.sweep .granted ∈ t.agenda) ∧
        e' = if r.x then { e with xh := true, held := r :: e.held } else { e with scnt := e.scnt + 1, held := r :: e.held }) ∧
      (¬free → e' = { e with fifo := e.fifo ++ [r] } ∧ t.agenda = s.agenda)

/-- A claim given back (R51): the S requests at the head of the FIFO are granted together up to the first X request, or that
X request alone; one whose entry cannot be read or written ends as a bad neighbour instead (R46). -/
def ClaimReleases : Prop :=
  ∀ (s : State) (r q : ClaimReq) (g : Group), s.grp? r.grp = some g →
    let e := g.entry r.elem
    (e.held = [] → exec (.claimRelease r) s = .next s) ∧
    ∀ (l rest : List ClaimReq), e.held = [q] → q.node = r.node → q.sweep = r.sweep →
      (if q.x then e.xh = true ∧ e.scnt = 0 else e.xh = false ∧ e.scnt = 1) → e.fifo = l ++ rest →
      ∃ (t : State) (e' : Entry), exec (.claimRelease r) s = .next t ∧ t.entryIs r.grp r.elem e' ∧
        (l = [] → rest = [] → e'.xh = false ∧ e'.scnt = 0 ∧ e'.fifo = [] ∧ e'.held = []) ∧
        (∀ p, l = [p] → rest = [] → p.node = s.node → putEntry s r.grp r.elem e = none →
          .claimGrantArrival p.sweep (.badEntry (entryVa r.grp r.elem)) ∈ t.agenda) ∧
        (devKey s r.grp.asid (entryVa r.grp r.elem) true ≠ none → devKey s r.grp.asid (entryVa r.grp r.elem) false ≠ none →
        ((∀ p ∈ l, p.x = false ∧ p.node = s.node) → l ≠ [] → l.length < 4095 → (∀ p ∈ rest.head?, p.x = true) →
          e'.xh = false ∧ e'.scnt = l.length ∧ e'.fifo = rest ∧ ∀ p ∈ l, .claimGrantArrival p.sweep .granted ∈ t.agenda) ∧
        (∀ p, l = [p] → p.x = true → p.node = s.node →
          e'.xh = true ∧ e'.scnt = 0 ∧ e'.fifo = rest ∧ .claimGrantArrival p.sweep .granted ∈ t.agenda))

/-- Sweeps and POSTs (R45, R46, R50, R54 to R57, R60): a pending element runs; its claim set rises by id and holds each id once;
its members are asked for one after the other in that order, and the last grant makes its task ready; a wrong index ends the
sweep; a deferred request is admitted as soon as it can be; a POST makes an idle element pending and a running one run again. -/
def ClaimSweeps : Prop :=
  (∀ (s : State) (die n i : Nat) (k : GroupKey) (g : Group), nextPending s die = some (n, k, i) → s.grp? k = some g →
    g.rad = 0 → i < g.count → i < 2 ^ 32 → isPresent s s.node = true →
    devKey s k.asid (entryVa k i) true ≠ none → devKey s k.asid (entryVa k i) false ≠ none →
    let e := g.entry i
    let id : Word := s.node.setWidth 64 <<< 48 ||| BitVec.ofNat 64 i
    ∃ (t : State) (w : Sweep), exec (.claimSweepStart die) s = .next t ∧ Tab.get? t.sweeps s.ids = some w ∧
      w.set = [(id, true)] ∧ w.region = e.pendRegion ∧ w.elem = i ∧ w.granted = false ∧ w.next = 0 ∧
      t.entryIs k i { e with pend := false, run := true } ∧ .claimRequestArrival ⟨k, i, true, s.node, s.ids⟩ ∈ t.agenda) ∧
  (∀ (s : State) (die : Nat), nextPending s die = none → exec (.claimSweepStart die) s = .next s) ∧
  (∀ (s : State) (g : Group) (e : Word) (l : List (Word × Bool)), claimSet s g e = .ok l →
    l.Pairwise (fun a b => a.1.toNat < b.1.toNat) ∧ l.length ≤ 1024 ∧ (e, true) ∈ l) ∧
  (∀ (s : State) (die n i : Nat) (k : GroupKey) (g : Group) (m : Word × Bool) (l : List (Word × Bool)),
    nextPending s die = some (n, k, i) → s.grp? k = some g →
    let id : Word := BitVec.ofNat 64 (s.node.toNat * 2 ^ 48 + i)
    let s0 := (setEntry s k i { g.entry i with pend := false, run := true }).modGrp k
      (fun g => { g with pending := g.pending.filter (·.1 != n) })
    let s1 := touchWalk s0.fresh.2 g id
    claimSet s1 g id = .ok (m :: l) → m.1.extractLsb' 48 16 = s.node → absentCode s1 s.node = none →
    ∃ (t : State) (w : Sweep), exec (.claimSweepStart die) s = .next t ∧ Tab.get? t.sweeps w.id = some w ∧ w.set = m :: l ∧
      w.next = 0 ∧ w.granted = false ∧
      .claimRequestArrival ⟨k, (m.1.extractLsb' 0 32).toNat, m.2, s.node, w.id⟩ ∈ t.agenda) ∧
  (∀ (s : State) (id : Nat) (w : Sweep) (out : ClaimOutcome), Tab.get? s.sweeps id = some w → w.id = id →
    (w.granted = true → exec (.claimGrantArrival id out) s = .next s) ∧
    (w.granted = false → out = .granted → w.next + 1 = w.set.length → ∃ t, exec (.claimGrantArrival id out) s = .next t ∧
      Tab.get? t.sweeps id = some { w with next := w.next + 1, granted := true } ∧ t.mem = s.mem) ∧
    (w.granted = false → out = .granted → ∀ m, w.set[w.next + 1]? = some m → absentCode s (m.1.extractLsb' 48 16) = none →
      let s1 : State := { s with sweeps := Tab.set s.sweeps id { w with next := w.next + 1 } }
      let q : ClaimReq := ⟨w.grp, (m.1.extractLsb' 0 32).toNat, m.2, s.node, id⟩
      (m.1.extractLsb' 48 16 = s.node → exec (.claimGrantArrival id out) s = .next (s1.due (.claimRequestArrival q))) ∧
      (m.1.extractLsb' 48 16 ≠ s.node → exec (.claimGrantArrival id out) s =
        .next (fabSend s1 (m.1.extractLsb' 48 16) 0 0 w.grp.asid (.claim q) (.sweep id)))) ∧
    (w.granted = false → out ≠ .granted → ∃ t, exec (.claimGrantArrival id out) s = .next t ∧ Tab.get? t.sweeps id = none)) ∧
  (∀ (s : State) (die : Nat), s.groups.all (·.deferred.isEmpty) = true → exec (.deferredRequestAdmit die) s = .next s) ∧
  (∀ (s : State) (die n : Nat) (r : ClaimReq) (g : Group),
    (allDeferred s).filter (fun q => entryDie q.2.grp q.2.elem == die) = [(n, r)] → s.grp? r.grp = some g → r.elem < g.count →
    g.deferred.any (fun q => decide (q.1 < n) && q.2.elem == r.elem) = false → cacheFull s die = false →
    devKey s r.grp.asid (entryVa r.grp r.elem) true ≠ none → devKey s r.grp.asid (entryVa r.grp r.elem) false ≠ none →
    let e := g.entry r.elem
    let free : Prop := e.xh = false ∧ e.fifo = [] ∧ (r.x = true → e.scnt = 0)
    (4096 ≤ e.fifo.length → exec (.deferredRequestAdmit die) s = .next s) ∧
    (e.fifo.length < 4096 → e.scnt < 4095 → ∃ (t : State) (e' : Entry), exec (.deferredRequestAdmit die) s = .next t ∧
      t.entryIs r.grp r.elem e' ∧ (∀ g', t.grp? r.grp = some g' → ∀ q ∈ g'.deferred, q.1 ≠ n) ∧
      (free → (r.node = s.node → .claimGrantArrival r.sweep .granted ∈ t.agenda) ∧
        e' = if r.x then { e with xh := true, held := r :: e.held } else { e with scnt := e.scnt + 1, held := r :: e.held }) ∧
      (¬free → e' = { e with fifo := e.fifo ++ [r] } ∧ t.agenda = s.agenda))) ∧
  ∀ (s : State) (p : PostMsg) (g : Group), s.grp? p.grp = some g → p.node = s.node →
    let i := (p.elem.extractLsb' 0 32).toNat
    let e := g.entry i
    (g.ever = false → g.heldReq.contains (.inr (p, 0)) = false → exec (.postArrival p) s =
      .next (s.modGrp p.grp (fun g => { g with heldReq := g.heldReq ++ [.inr (p, 0)] }))) ∧
    (g.ever = true → g.count ≤ i → exec (.postArrival p) s = .next (checkDone (writeFault s p.region
      { reason := 12, aux := p.elem, val := 1 }) p.region)) ∧
    (g.ever = true → i < g.count → g.live ≠ 0 → ∀ rid, homeRegion s p = some rid →
      ∃ (t : State) (e' : Entry), exec (.postArrival p) s = .next t ∧ t.entryIs p.grp i e' ∧
        (e.pend = true → e' = e) ∧
        (e.pend = false → e.run = false →
          e' = { e with pend := true, run := false, again := false, pendRegion := rid, wasAgain := false }) ∧
        (e.pend = false → e.run = true → e.again = false → e' = { e with again := true, againRegion := rid }))

end Sys2Proof.Machine

/-- Claims are granted, queued and given back in order; sweeps ask in order and make their task ready; POST. -/
def Obligations.NeighbourExclusion : Prop :=
  ClaimRequests ∧ ClaimReleases ∧ ClaimSweeps

namespace Sys2Proof.Machine

/-! Dispatch, saves and scrubs. -/

/-- TASK_DISPATCH (R17, R258, R302, R321, R324): a slot takes the work that the scheduler gives it. A task starts under a fresh
incarnation with the entry and arguments of its work, its frame and its region's values, at an entry whose landing is not bad;
one whose stack page cannot grow is not dispatched; a saved context that its image still describes goes on in the slot. -/
def TaskDispatch : Prop :=
  (∀ (s : State) (t : Nat), workFor s t = none → exec (.taskDispatch t) s = .next s) ∧
  (∀ (s : State) (t : Nat), slotFree s t = false ∨ s.halted (nameDie t) = true → workFor s t = none) ∧
  (∀ (s : State) (t : Nat) (r : Region) (v : Saved) (key : Nat) (img : List Byte) (c : Ctx),
    workFor s t = some (r, .image v) → readImg s v.asid v.img = some (key, img) → imageCtx s v img = some c →
    ∃ (s' : State) (c' : Ctx), exec (.taskDispatch t) s = .next s' ∧ (s'.slot t).ctx = some c' ∧
      (s'.slot t).inc = (s.slot t).inc + 1 ∧ c'.x = c.x ∧ c'.v = c.v ∧ c'.m = c.m ∧ c'.d = c.d ∧ c'.pc = c.pc ∧
      c'.vtype = c.vtype ∧ c'.cb = c.cb ∧ c'.level = c.level ∧ (∀ u ∈ s'.saved, u.ctx.cid ≠ v.ctx.cid)) ∧
  ∀ (s s2 : State) (t k : Nat) (r : Region) (i : Item) (fits : Bool), workFor s t = some (r, i) → (∀ v, i ≠ .image v) →
    stackFor r (nameDie t) i.key = some k →
    let d1 := r.stkb + BitVec.ofNat 64 ((k + 1) * r.stksz) - BitVec.ofNat 64 ((8 * r.d1w + 15) / 16 * 16)
    let n := nameDie t + 4 * (tileTotal r (nameDie t) - r.tiles.getD (nameDie t) 0)
    let entry : Word := match i with
      | .spawn p => p.entry
      | _ => r.w 0
    let cid : Nat := match i with
      | .claimed w => w.id
      | _ => s.ids
    presetSlot s.fresh.2 r cid d1 = (fits, s2) →
    (fits = false → ∃ s', exec (.taskDispatch t) s = .next s' ∧ (s'.slot t).ctx = (s2.slot t).ctx ∧ s'.tasks = s2.tasks ∧
      s'.mem = s2.mem ∧ s'.cores = s2.cores ∧ s'.sweeps = s2.sweeps) ∧
    (fits = true → ∃ (s' : State) (c : Ctx), (s'.slot t).ctx = some c ∧ (s'.slot t).inc = (s2.slot t).inc + 1 ∧
      c.pc = entry ∧ c.cid = cid ∧ c.task = s.ids ∧ c.region = r.id ∧ c.x[2] = d1 ∧ c.x[3] = r.gp ∧ c.d[1] = d1 ∧
      c.wlim = r.wlim ∧ c.v = Vector.replicate 16 0 ∧ c.vtype = 0x3010 ∧ c.cb = 0 ∧ c.loops = [] ∧
      c.level = (if r.sup then .sup else .user) ∧
      (i = .tile → c.x[4] = tileCoord r n ∧ c.x[5] = r.arg ∧ c.x[6] = 0 ∧ c.x[7] = 0 ∧ c.x[8] = 0) ∧
      (∀ w, i = .claimed w → c.x[4] = s.node.setWidth 64 <<< 48 + BitVec.ofNat 64 w.elem ∧ c.x[5] = r.arg ∧ c.x[6] = 0) ∧
      (∀ p, i = .spawn p → c.x[4] = 0 ∧ c.x[5] = p.x5 ∧ c.x[6] = p.x6 ∧ c.x[7] = p.x7 ∧ c.x[8] = p.x8) ∧
      (landingBad s' c (nameCore t) entry = false → exec (.taskDispatch t) s = .next s') ∧
      (s.plfloor = 0 → exec (.taskDispatch t) s = .next s'))

/-- Saves and scrubs (R24, R301, R303, R323, R326): a share interval gives the free slots of a die to its one active queue, and
of an occupied slot it changes nothing but a request to save; a context to be saved stops at its boundary, and its image once
written leaves the slot free; a scrubbed slot is free, and a mismatch takes its core out of the map. -/
def SavesAndScrubs : Prop :=
  (∀ s : State, ∃ t, exec .shareInterval s = .next t ∧ ((s.clock / 4096 + 1) * 4096, Ev.shareInterval) ∈ t.timers ∧
    (∀ u c, (s.slot u).ctx = some c → (t.slot u).owner = (s.slot u).owner ∧
      ∃ c' : Ctx, (t.slot u).ctx = some c' ∧ c' = { c with save := c'.save }) ∧
    ∀ u q, u < 16384 → s.halted (nameDie u) = false → activeQueues s (nameDie u) = [q] → (s.slot u).fixed = false →
      (s.slot u).ctx = none → (s.slot u).scrub = false → (s.slot u).freed ≤ s.clock → (t.slot u).owner.toNat = q) ∧
  (∀ (s : State) (cid u : Nat) (c : Ctx) (q : SaveReq), s.slotOf cid = some u → (s.slot u).ctx = some c → c.save = some q →
    (q.written = true → exec (.preemptionSave cid) s = .next s) ∧
    (q.written = false → c.mig.isSome = true ∨ s.halted (nameDie u) = true → ∃ t, exec (.preemptionSave cid) s = .next t ∧
      t.slots = s.slots ∧ .preemptionSave cid ∈ t.agenda) ∧
    (q.written = false → c.mig = none → s.halted (nameDie u) = false → faultDue { c with yieldTo := none } = true →
      ∃ t, exec (.preemptionSave cid) s = .next t ∧ .preemptionSave cid ∈ t.agenda) ∧
    (q.written = false → c.mig = none → s.halted (nameDie u) = false → faultDue { c with yieldTo := none } = false →
      ∃ t, exec (.preemptionSave cid) s = .next t ∧ (t.slot u).ctx = some { c with save := some { q with written := true } } ∧
        (∀ v, v ≠ u → t.slot v = s.slot v) ∧ t.mem = s.mem ∧ .imageSaveDone cid ∈ t.agenda)) ∧
  (∀ (s : State) (cid u : Nat) (c : Ctx) (q : SaveReq), s.slotOf cid = some u → (s.slot u).ctx = some c → c.save = some q →
    s.halted (nameDie u) = false → anyOwns s (s.regionOf c).asid q.img 4096 = false →
    let s0 := finishYield (disband s u 2) cid
    let c0 : Ctx := { (ctxOf s0 u).forSave (s.launches.any (fun l => l.2.cid == some cid && l.2.rcb.isNone)) with save := none }
    let bytes := imageBytes s0 c0 u q.state s.clock
    (writeImg s0 (s.regionOf c).asid q.img bytes = none → q.parker = none → ∃ t, exec (.imageSaveDone cid) s = .next t ∧
      (t.slot u).ctx = some { c with save := none } ∧ (∀ v, v ≠ u → t.slot v = s.slot v) ∧ t.saved = s.saved ∧ t.mem = s.mem) ∧
    (writeImg s0 (s.regionOf c).asid q.img bytes = none → ∀ p, q.parker = some p → exec (.imageSaveDone cid) s =
      .next (parkResult (s.modCtx cid (fun c => { c with save := none })) p 5)) ∧
    ∀ s1, writeImg s0 (s.regionOf c).asid q.img bytes = some s1 → ∃ (t : State) (v : Saved),
      exec (.imageSaveDone cid) s = .next (match q.parker with
        | some p => parkResult t p 0
        | none => t) ∧
      (t.slot u).ctx = none ∧ (t.slot u).owner = q.queue.getD (s1.slot u).owner ∧ t.saved = s1.saved ++ [v] ∧ v.ctx = c0 ∧
      v.name = u ∧ v.img = q.img ∧ v.state = q.state ∧ v.image = bytes ∧ t.mem = s1.mem) ∧
  ∀ (s : State) (u : Nat) (ok : Bool),
    ((s.slot u).scrub = false → exec (.slotScrubDone u ok) s = .next s) ∧
    ((s.slot u).scrub = true → ok = true → exec (.slotScrubDone u ok) s =
      .next (s.setSlot u { s.slot u with scrub := false, scrubOf := 0, freed := s.clock + 1 })) ∧
    ((s.slot u).scrub = true → ok = false → (∀ i < 16, (s.slot (nameCore u * 16 + i)).ctx = none) →
      ∃ t, exec (.slotScrubDone u ok) s = .next t ∧ (t.core (nameCore u)).present = false ∧ t.mem = s.mem ∧
        ∀ i < 16, slotFree t (nameCore u * 16 + i) = false)

end Sys2Proof.Machine

/-- A slot takes the work of the scheduler with its entry state; saves and scrubs leave slots free. -/
def Obligations.SlotsAndSaves : Prop :=
  TaskDispatch ∧ SavesAndScrubs

namespace Sys2Proof.Machine

/-! Remote operations. -/

/-- A word on a package that a thread of this one may name (R61 to R63, R68): the core's own scratchpad, and the cluster's own
memory by CLUS 0xFF, are reached on no other package. -/
def RemoteVa (s : State) (va : Word) (node : BitVec 16) : Prop :=
  (∃ p, place (s.regionOf s.ctx) s.myCore va 8 = some p) ∧
  (node = s.node ∨ (va.extractLsb' 48 8 ≠ 0xFF ∧ (va.extractLsb' 48 8 ≠ 0xFE ∨ va.extractLsb' 40 8 ≠ 0xFF)))

/-- A remote operation at its issue (R100, R191 to R193): misaligned and forbidden addresses trap, an absent package is
reported by LCODE and cause 0x0E, and otherwise the release is done, the request is sent, the destination of a read is empty
with its result pending, and the thread leaves the rotation. `write` is an RST, which has no destination. -/
def RemoteIssue (i : Instr) (s : State) (c : Ctx) (o : Ops) (va : Word) (node : BitVec 16) (dst : Fin 64) (write : Bool)
    (body : ReqBody) : Prop :=
  (va.toNat % 8 ≠ 0 → exec i s = s.traps 0x05 va) ∧
  (va.toNat % 8 = 0 → ¬RemoteVa s va node → exec i s = s.traps 0x08 va) ∧
  (va.toNat % 8 = 0 → RemoteVa s va node → c.strong = none → c.stores = [] → c.loads = [] → c.outer = [] →
    (∀ code, absentCode s node = some code → exec i s = .next (takeTrap
      (s.setCtx { c with rstat := setBits c.rstat 7 0 code }) { cause := 0x0E, val := va, epc := c.pc })) ∧
    (absentCode s node = none → (o.q.getLsbD 1 = true → c.canRelease) →
      let c' : Ctx := { (if write then c else c.awaitReg dst.val) with
        remote := some ⟨s.myCore, dst, va, write, o.q.getLsbD 0, false, c.isFull dst.val⟩, stage := 1 }
      let s1 := if o.q.getLsbD 1 then releaseMark s (.thread c.cid) ⟨3, some s.myCore⟩ else s
      exec i s = .next ((fabSend (s1.setCtx c') node s.cur c.inc (s.regionOf c).asid body (.thread c.cid)).setCtx
        { c' with run := .away, wait := some ⟨.none, 0, s.clock⟩ })))

/-- RLD, RST and RAMO (R191, R192): what each asks for; RAMO's function stands in the target descriptor, and a compare-and-swap
takes its new value from the register after A. One that names its own package is sent as a request too, by the model's reading
(notes/assumptions/55.md). -/
def RemoteInstructions : Prop :=
  ∀ (s : State) (c : Ctx) (o : Ops) (a : Fin 64) (va : Word), s.Issues c → o.a = .r a → c.got = [] →
    effAddr o false [] s = .ok va s → c.isFull o.cx = true →
    let t := c.getX o.cx
    let node := t.extractLsb' 0 16
    let fn := (t.extractLsb' 16 4).toNat
    (c.canWrite a → RemoteIssue (.rld o) s c o va node a false (.rld va)) ∧
    (c.isFull a = true → RemoteIssue (.rst o) s c o va node a true (.rst va (c.getX a))) ∧
    (fn = 9 → a = 63 → exec (.ramo o) s = s.traps 0x01 (c.npc - 2)) ∧
    (c.isFull a = true → c.canWrite a → fn ≠ 9 → fn < 13 →
      RemoteIssue (.ramo o) s c o va node a false (.ramo fn va (c.getX a) 0)) ∧
    (c.isFull a = true → c.canWrite a → fn = 9 → a ≠ 63 → c.isFull (a.val + 1) = true →
      RemoteIssue (.ramo o) s c o va node a false (.ramo 9 va (c.getX a) (c.getX (a + 1)))) ∧
    (c.isFull a = true → 13 ≤ fn → va.toNat % 8 = 0 → RemoteVa s va node → exec (.ramo o) s = s.traps 0x08 t)

/-- The message of an RFILL of a thread (Table 9.12). -/
def State.message (s : State) (c : Ctx) (d v : Word) : RfillMsg where
  name := d.extractLsb' 16 14
  inc := d.extractLsb' 32 16
  reg := (d.extractLsb' 0 6).toFin
  val := v
  src := if d.extractLsb' 48 16 = s.node then some c.cid else none

/-- RFILL and RSTAT (R194 to R196, Tables 9.12 to 9.14): a fill does its release, waits while sixteen are outstanding, and is
sent and counted; its fate is decided in one
step at the slot that it names; its outcome is counted; RSTAT reads the counts once none is outstanding and clears them. -/
def MessageInstructions : Prop :=
  (∀ (s : State) (c : Ctx) (o : Ops) (d v : Word), s.Issues c → readOpd o.b 0 s = .ok d s → readOpd o.a 1 s = .ok v s →
    let bad : Prop := d.extractLsb' 0 6 = 0 ∨ d.extractLsb' 30 2 ≠ 0 ∨ d.extractLsb' 6 10 ≠ 0
    let node := d.extractLsb' 48 16
    let n := (c.rstat.extractLsb' 40 8).toNat
    let s1 := releaseMark s (.thread c.cid) ⟨3, some s.myCore⟩
    let m := s.message c d v
    (bad → exec (.rfill o) s = s.traps 0x08 d) ∧
    (¬bad → 16 ≤ n → c.canRelease → exec (.rfill o) s = s1.parks .none 0) ∧
    (¬bad → n < 16 → c.canRelease →
      (∀ code, absentCode s node = some code →
        exec (.rfill o) s = s1.completes { c with rstat := countOutcome c.rstat code }) ∧
      (absentCode s node = none → ∃ (t : State) (w : Word), exec (.rfill o) s = t.completes { c with rstat := w } ∧
        (w.extractLsb' 40 8).toNat = n + 1 ∧ (∀ j, j < 40 ∨ 48 ≤ j → w.getLsbD j = c.rstat.getLsbD j) ∧ t.mem = s.mem ∧
        t.slot s.cur = s.slot s.cur ∧ t.cur = s.cur ∧
        if node = s.node then t.agenda = s.agenda ++ [.rfillArrival m]
        else ∃ q ∈ t.fabric.sent ++ t.fabric.waiting, q.dest = node ∧ q.req.body = .rfill m ∧ q.req.cov = covered s1 node ∧
          q.origin = .rfill c.cid))) ∧
  (∀ (s : State) (c : Ctx) (o : Ops), s.Issues c → c.canWrite o.a.x →
    (c.rstat.extractLsb' 40 8 ≠ 0 → exec (.rstat o) s = s.parks .none 0) ∧
    (c.rstat.extractLsb' 40 8 = 0 → exec (.rstat o) s =
      s.completes (({ c with rstat := c.rstat &&& 0xFFFFFF0000FF00FF } : Ctx).putX o.a.x c.rstat))) ∧
  (∀ (s : State) (m : RfillMsg),
    let sl := s.slot m.name.toNat
    let tell (code : Nat) (s : State) : State := match m.src with
      | some cid => s.dueBy (s.clock + 2500000) (.rfillOutcome cid code)
      | none => s
    (sl.ctx = none ∨ sl.inc ≠ m.inc ∨ sl.scrub = true ∨ coreOk s (nameCore m.name.toNat) = false →
      exec (.rfillArrival m) s = .next (tell 1 s)) ∧
    ∀ c, sl.ctx = some c → sl.inc = m.inc → sl.scrub = false → coreOk s (nameCore m.name.toNat) = true →
      let c' := if c.isPend m.reg.val then { c with rfq := c.rfq ++ [(m.reg, m.val)] } else c.putX m.reg m.val
      exec (.rfillArrival m) s = .next (tell 0 (s.setSlot m.name.toNat { sl with ctx := some c' }))) ∧
  ∀ (s : State) (cid u code : Nat) (c : Ctx), s.slotOf cid = some u → (s.slot u).ctx = some c → code < 256 →
    c.rstat.extractLsb' 40 8 ≠ 0 → ∃ (t : State) (w : Word), exec (.rfillOutcome cid code) s = .next t ∧
      (t.slot u).ctx = some { c with rstat := w } ∧ w.extractLsb' 40 8 = c.rstat.extractLsb' 40 8 - 1 ∧
      (code = 0 → ∀ j, j < 40 → w.getLsbD j = c.rstat.getLsbD j) ∧
      (code ≠ 0 → (w.extractLsb' 8 8).toNat = code ∧
        (w.extractLsb' 32 8).toNat = min 255 ((c.rstat.extractLsb' 32 8).toNat + if code = 1 then 1 else 0) ∧
        (w.extractLsb' 24 8).toNat = min 255 ((c.rstat.extractLsb' 24 8).toNat + if code = 1 then 0 else 1))

/-- Requests and replies (R100, R192, R193, R346 to R348): a request on a word of ordinary memory is performed once and its
reply kept; the same request again is answered from there; the reply completes the operation, or makes it issue again and
trap; and a request without a reply is sent again, after 250,000 clocks (100 µs as notes/assumptions/52.md counts them). -/
def RequestsAndReplies : Prop :=
  (∀ (s s1 : State) (r : Request) (va v : Word) (key : Nat), s.fabric.fenced = false →
    Tab.get? s.fabric.joins r.src.toNat = some r.join → s.fabric.lost.contains r.src = false → r.src ≠ s.node →
    s.fabric.replies.find? (fun e => e.1 == r.src && e.2.1 == r.seq) = none → r.cov = [] →
    isOrd va = true → va.toNat % 8 = 0 → va.toNat + 8 ≤ 0x00F0000000000000 → anyOwns s r.asid va 8 = false → Memory.wf s1.mem = true →
    (r.body = .rld va → resolve s r.asid (.ord (homeDie va)) va 8 .r = (.ok key, s1) →
      mixed key 8 (viaOf s1 r.asid va) s1.hist = false → ∃ t, exec (.fabricRequestArrival r) s = .next t ∧ t.mem = s1.mem ∧
        (r.src, r.seq, .word (BitVec.ofNat 64 (Mem.num s1.mem key 8))) ∈ t.fabric.replies) ∧
    (r.body = .rst va v → resolve s r.asid (.ord (homeDie va)) va 8 .w = (.ok key, s1) → heldByXu s r.asid va 8 = false →
      pinned s1 key 8 = false → ∃ t, exec (.fabricRequestArrival r) s = .next t ∧ Mem.num t.mem key 8 = v.toNat ∧
        (∀ x, x < key ∨ key + 8 ≤ x → Mem.read t.mem x = Mem.read s1.mem x) ∧ (r.src, r.seq, .ack) ∈ t.fabric.replies)) ∧
  (∀ (s : State) (r : Request) (e : BitVec 16 × BitVec 32 × Reply), s.fabric.fenced = false →
    Tab.get? s.fabric.joins r.src.toNat = some r.join → s.fabric.lost.contains r.src = false →
    s.fabric.replies.find? (fun e => e.1 == r.src && e.2.1 == r.seq) = some e →
    exec (.fabricRequestArrival r) s = .next (forward s r.src (.reply r.src s.node r.seq e.2.2))) ∧
  (∀ (s : State) (r : Request), s.fabric.fenced = true → r.src ≠ s.node → exec (.fabricRequestArrival r) s = .next s) ∧
  (∀ (s : State) (dest : BitVec 16) (seq : BitVec 32) (q : Sent) (cid u : Nat) (c : Ctx) (op : RemoteOp) (w : Word) (code : Nat),
    s.fabric.sent.find? (fun q => q.dest == dest && q.req.seq == seq) = some q → q.origin = .thread cid →
    s.slotOf cid = some u → (s.slot u).ctx = some c → c.remote = some op → op.frame = false → op.write = false → c.rfq = [] →
    (∃ t, exec (.remoteReply dest seq (.word w)) s = .next t ∧ (t.slot u).ctx =
      some ((({ c with rstat := setBits c.rstat 7 0 0, remote := none } : Ctx).fillX op.dst w).complete .seq)) ∧
    ∃ (t : State) (c' : Ctx), exec (.remoteReply dest seq (.fail code)) s = .next t ∧ (t.slot u).ctx = some c' ∧
      c'.rstat = setBits c.rstat 7 0 code ∧ c'.x = c.x ∧ c'.pc = c.pc ∧ c'.run = .running ∧ c'.remote = none ∧
      (op.dst ≠ 0 → c'.isFull op.dst.val = op.was ∧ c'.isPend op.dst.val = false) ∧
      ∀ (s' : State) (o : Ops), s'.Issues c' → exec (.rld o) s' = s'.traps 0x0E op.va) ∧
  ∀ (s : State) (dest : BitVec 16) (seq : BitVec 32),
    let q := s.fabric.sent.find? (fun q => q.dest == dest && q.req.seq == seq)
    (q = none → exec (.requestRetry dest seq) s = .next s ∧ ∀ r, exec (.remoteReply dest seq r) s = .next s) ∧
    ∀ e, q = some e → exec (.requestRetry dest seq) s =
      .next ((forward s dest (.request dest e.req)).timeout 250000 (.requestRetry dest seq))

end Sys2Proof.Machine

/-- RLD, RST, RAMO, RFILL and RSTAT; a request is performed once and its reply completes the operation. -/
def Obligations.RemoteOperations : Prop :=
  RemoteInstructions ∧ MessageInstructions ∧ RequestsAndReplies

namespace Sys2Proof.Machine

/-- Lost packages (R343, R348, R349): a package declared lost is told of, its requests are answered with code 6 and none of
its own is performed; a package that is cut off fences itself, and answers its own requests so. -/
def LostPackages : Prop :=
  (∀ (s : State) (n : BitVec 16), n = s.node ∨ s.fabric.lost.contains n = true →
    exec (.packageLost n) s = .next s ∧ exec (.lostNoticeArrival n) s = .next s) ∧
  (∀ (s : State) (n : BitVec 16), s.fabric.fenced = true → exec (.packageLost n) s = .next s) ∧
  (∀ (s : State) (n : BitVec 16), n ≠ s.node → s.fabric.lost.contains n = false →
    (s.fabric.fenced = false → ∃ t, exec (.packageLost n) s = .next t ∧ .lostNoticeArrival n ∈ t.agenda ∧
      ∀ m, m ≠ n → m ≠ s.node → isPresent s m = true →
        ∃ q ∈ t.fabric.sent ++ t.fabric.waiting, q.dest = m ∧ q.req.body = .lost n) ∧
    ∃ t, exec (.lostNoticeArrival n) s = .next t ∧ t.fabric.lost.contains n = true ∧ t.fabric.present.contains n = false ∧
      absentCode t n = some 6 ∧ ∀ q ∈ s.fabric.sent, q.dest = n → .remoteReply n q.req.seq (.fail 6) ∈ t.agenda) ∧
  ∀ s : State, ∃ t, exec .packageFence s = .next t ∧ t.fabric.fenced = true ∧ t.fabric.replies = [] ∧ t.mem = s.mem ∧
    t.slots = s.slots ∧ ∀ q ∈ s.fabric.sent, q.dest ≠ s.node → .remoteReply q.dest q.req.seq (.fail 6) ∈ t.agenda

/-- A save asked for while a migration was under way is taken where the migration leaves the context (R342). -/
def Ctx.savedThere (c : Ctx) : Ctx := { c with save := c.save.map (fun q => { q with written := true }) }

/-- Migration (R34, R35, R341, R342): the home die gives the free slot of the lowest name or refuses, and then the access is made
from where the thread stands; the context arrives under a fresh incarnation, and its old slot is free, unless the reserved slot
cannot take it any more. -/
def Migration : Prop :=
  (∀ (s : State) (cid u die : Nat) (c : Ctx), s.slotOf cid = some u → (s.slot u).ctx = some c → c.mig = some (16384 + die) →
    c.cid = cid →
    let still : Prop := c.loads = [] ∧ c.stores = [] ∧ c.strong = none ∧ c.outer = []
    (¬still ∨ s.halted (nameDie u) = true ∨ s.halted die = true → ∃ t, exec (.migrationSlotRequest cid) s = .next t ∧
      t.slots = s.slots ∧ .migrationSlotRequest cid ∈ t.agenda) ∧
    (still → s.halted (nameDie u) = false → s.halted die = false →
      (migSlot s (s.regionOf c) die = none → ∃ t, exec (.migrationSlotRequest cid) s = .next t ∧
        (t.slot u).ctx = some c.stayHere.savedThere) ∧
      ∀ n, migSlot s (s.regionOf c) die = some n → n ≠ u ∧ ∃ t, exec (.migrationSlotRequest cid) s = .next t ∧
        (t.slot n).reserved = some c.region ∧ (t.slot u).ctx = some { c with mig := some n } ∧
        .migrationArrival cid n ∈ t.agenda)) ∧
  (∀ c : Ctx, c.stayHere.gstat.extractLsb' 32 9 = 256 ∧ c.stayHere.mig = none ∧ c.stayHere.run = .running ∧
    c.stayHere.pc = c.pc ∧ c.stayHere.x = c.x ∧ c.stayHere.v = c.v ∧ c.stayHere.m = c.m) ∧
  (∀ (s : State) (r : Region) (die n : Nat), migSlot s r die = some n → slotFree s n = true ∧ nameDie n = die % 4 ∧
    liveCount s r.id die < r.mslot) ∧
  ∀ (s : State) (cid u n : Nat) (c : Ctx), s.slotOf cid = some u → (s.slot u).ctx = some c → c.mig = some n → u ≠ n →
    s.halted (nameDie u) = false → s.halted (nameDie n) = false →
    let room : Prop := coreOk s (nameCore n) = true ∧
      liveCount s (s.regionOf c).id (nameDie n) - 1 < (s.regionOf c).mslot
    (room → ∃ (t : State) (c' : Ctx), exec (.migrationArrival cid n) s = .next t ∧ (t.slot u).ctx = none ∧
      (t.slot n).ctx = some c' ∧ c'.inc = (s.slot n).inc + 1 ∧ (t.slot n).reserved = none ∧ c'.x = c.x ∧ c'.v = c.v ∧
      c'.m = c.m ∧ c'.pc = c.pc ∧ c'.gstat.extractLsb' 32 9 = 256 ∧ c'.mig = none) ∧
    (¬room → ∃ t : State, exec (.migrationArrival cid n) s = .next t ∧ (t.slot u).ctx = some c.stayHere.savedThere ∧
      (t.slot n).reserved = none)

end Sys2Proof.Machine

/-- A lost package is told of and answered for; a thread migrates to the home die under a fresh incarnation or
stays. -/
def Obligations.LostPackagesAndMigration : Prop :=
  LostPackages ∧ Migration

namespace Sys2Proof.Machine

/-! Page 63. -/

/-- A supervisor context outside a gang, which may run page 63 (R290, R291). -/
def Ctx.mayRule (c : Ctx) : Prop := c.level = .sup ∧ c.gstat.getLsbD 0 = false

/-- An identity descriptor that breaks a rule on its own (R308, Table 9.12): another package, a reserved field, or a
register number. -/
def BadIdent (s : State) (desc : Word) : Prop :=
  desc.extractLsb' 48 16 ≠ s.node ∨ desc.extractLsb' 30 2 ≠ 0 ∨ desc.extractLsb' 0 16 ≠ 0

/-- The instruction ends with a killed thread and, where the issuer still stands, a result of 0. -/
def KillsWith (i : Instr) (s : State) (c : Ctx) (a : Fin 64) (q : Ctx) : Prop :=
  let t := kill s q.cid { reason := 3, aux := identWord s s.cur c.inc }
  (∀ c1, (t.slot t.cur).ctx = some c1 → c1.cid = c.cid → exec i s = t.completes (c1.putX a 0)) ∧
  ((t.slot t.cur).ctx = none → exec i s = .next t)

/-- KILL (R308, R315): a descriptor that names no thread gives 1; a live thread of the issuer's ASID is contained with reason 3
and the issuer's identity, in the step of the KILL itself, by the model's choice (notes/assumptions/69.md); of one whose save has
begun, KILL waits for what the save leaves. -/
def KillInstruction : Prop :=
  ∀ (s : State) (c : Ctx) (o : Ops), s.Issues c → c.mayRule → c.isFull o.b.x = true → c.canWrite o.a.x.val →
    let desc := c.getX o.b.x
    (BadIdent s desc → exec (.kill o) s = s.traps 0x08 desc) ∧
    (¬BadIdent s desc → identSlot s desc = none → exec (.kill o) s = s.completes (c.putX o.a.x 1)) ∧
    ∀ (u : Nat) (q : Ctx), ¬BadIdent s desc → identSlot s desc = some u → (s.slot u).ctx = some q →
      ((s.regionOf q).asid ≠ (s.regionOf c).asid → exec (.kill o) s = s.traps 0x08 desc) ∧
      ((s.regionOf q).asid = (s.regionOf c).asid → q.saving = true → exec (.kill o) s = s.parks .none 0) ∧
      ((s.regionOf q).asid = (s.regionOf c).asid → q.saving = false → KillsWith (.kill o) s c o.a.x q)

/-- PARK (R309, R315): the codes of the cases that save nothing; a save that another agent has asked for is waited for;
otherwise the target is asked to save into the image slot, which is reserved, and the issuer parks until the result comes.
-/
def ParkInstruction : Prop :=
  ∀ (s : State) (c : Ctx) (o : Ops), s.Issues c → c.mayRule → c.canWrite o.a.x.val →
    (∀ w, c.answer = some w → exec (.park o) s = s.completes (c.putX o.a.x w)) ∧
    (c.answer = none → c.isFull o.b.x = true → c.isFull o.cx = true →
      let desc := c.getX o.b.x
      let img := c.getX o.cx
      let asid := (s.regionOf c).asid
      (img.toNat % 4096 ≠ 0 → exec (.park o) s = s.traps 0x05 img) ∧
      (img.toNat % 4096 = 0 → BadIdent s desc → exec (.park o) s = s.traps 0x08 desc) ∧
      (img.toNat % 4096 = 0 → ¬BadIdent s desc → identSlot s desc = none →
        exec (.park o) s = s.completes (c.putX o.a.x 1)) ∧
      ∀ (u : Nat) (q : Ctx), img.toNat % 4096 = 0 → ¬BadIdent s desc → identSlot s desc = some u → (s.slot u).ctx = some q →
        (s.regionOf q).asid = asid →
        (u = s.cur → exec (.park o) s = s.completes (c.putX o.a.x 2)) ∧
        (u ≠ s.cur → q.cid ≠ c.cid → q.save ≠ none → exec (.park o) s = s.parks .none 0) ∧
        (u ≠ s.cur → q.save = none →
          let s1 := touchHead s asid img
          devKey s1 asid img true = none ∨ devKey s1 asid img false = none →
          exec (.park o) s = s1.completes (c.putX o.a.x 5)) ∧
        ∀ key key' : Nat, u ≠ s.cur → q.save = none → devKey s asid img true = some key → devKey s asid img false = some key' →
          (Mem.num s.mem key 8 ≠ 0 → exec (.park o) s = s.completes (c.putX o.a.x 4)) ∧
          (Mem.num s.mem key 8 = 0 → s.slotOf q.cid = some u → Memory.wf s.mem = true →
            ∃ t : State, exec (.park o) s = .next t ∧
              (t.slot s.cur).ctx = some (({ c with stage := 1 } : Ctx).parkAt s.clock .none 0) ∧
              (t.slot u).ctx = some { q with save := some ⟨img, 2, some c.cid, none, false, s.clock⟩ } ∧
              t.agenda = s.agenda ++ [.preemptionSave q.cid] ∧
              Mem.num t.mem key 8 = 0xC7E1 * 2 ^ 48 + q.inc.toNat * 2 ^ 32 + u % 16384 * 2 ^ 16))

/-- SCRUB (R311, R360): after the issuer's strong operation on its way and its own accesses to them, the words of its
range, or of the core's lane slices, hold 0, are empty, and are no longer uncorrectable; nothing else in memory changes;
the issuer completes from its park. That the checks of the length hold with bit 63 too is the model's reading
(notes/assumptions/47.md). -/
def ScrubInstruction : Prop :=
  (∀ (s : State) (c : Ctx) (o : Ops), s.Issues c → c.mayRule → c.isFull o.b.x = true → c.isFull o.cx = true →
    let va := c.getX o.b.x
    let w := c.getX o.cx
    let len := (w.extractLsb' 0 40).toNat
    let lanes := w.getLsbD 63
    let zeroes (keys : List Nat) : Prop :=
      let busy : Prop := c.strong ≠ none ∨ keys.any (fun k => pinned s k 8 || c.storesBefore (c.seq + 1) k 8 ||
        c.loadsBefore (c.seq + 1) k 8) = true
      (busy → exec (.scrub o) s = s.parks .none 0) ∧
      (¬busy → Memory.wf s.mem = true → ∃ t : State, exec (.scrub o) s = .next t ∧
        (t.slot s.cur).ctx = some (({ c with stage := 1 } : Ctx).parkAt s.clock .none 0) ∧
        t.agenda = s.agenda ++ [.scrubComplete c.cid] ∧
        (∀ k ∈ keys, Mem.num t.mem k 8 = 0 ∧ k / 8 ∉ t.poison ∧ (tagged k = true → isFull t k = false)) ∧
        (∀ a, (∀ k ∈ keys, a < k ∨ k + 8 ≤ a) → Mem.read t.mem a = Mem.read s.mem a) ∧
        ∀ k, k ∉ keys → isFull t k = isFull s k)
    (lanes = false → va.toNat % 8 ≠ 0 → exec (.scrub o) s = s.traps 0x05 va) ∧
    (lanes = true ∨ va.toNat % 8 = 0 → len % 8 ≠ 0 → exec (.scrub o) s = s.traps 0x05 w) ∧
    (lanes = true ∨ va.toNat % 8 = 0 → len % 8 = 0 → w.extractLsb' 40 23 ≠ 0 → exec (.scrub o) s = s.traps 0x08 w) ∧
    (lanes = true ∨ va.toNat % 8 = 0 → len = 0 → w.extractLsb' 40 23 = 0 → exec (.scrub o) s = s.completes c) ∧
    (w.extractLsb' 40 23 = 0 → lanes = true → len % 8 = 0 → len ≠ 0 →
      zeroes ((List.range 16).flatMap (fun l => (List.range 512).map (fun i => laneKey s.myCore l (8 * i))))) ∧
    (w.extractLsb' 40 23 = 0 → lanes = false → va.toNat % 8 = 0 → len % 8 = 0 →
      (len ≠ 0 → ∀ bad, scrubRange s.myCore va len = .inl bad → exec (.scrub o) s = s.traps 0x08 bad) ∧
      (len ≠ 0 → ∀ keys, scrubRange s.myCore va len = .inr keys → zeroes keys))) ∧
  (∀ (core len : Nat) (va : Word), isOrd va = true → scrubRange core va len = .inl va) ∧
  (∀ (core len : Nat) (va : Word), va.extractLsb' 18 46 = (0xFF : BitVec 46) <<< 30 →
    (va.extractLsb' 0 18).toNat + len ≤ 2 ^ 18 →
    scrubRange core va len = .inr ((List.range (len / 8)).map (fun i => coreKey core (va.extractLsb' 0 18).toNat + 8 * i))) ∧
  ∀ (s : State) (cid u : Nat) (c : Ctx), s.slotOf cid = some u → (s.slot u).ctx = some c →
    exec (.scrubComplete cid) s = .next ((noteSig s u c).setSlot u { s.slot u with ctx := some (c.complete .seq) })

/-- INVVA and INVASID (R313, R334): the issuer parks; at completion no cached translation of the page, or of the ASID on any
die, is left, a walk meets no entry but as it stands, the other cached translations are as before, and the issuer completes. That
all of it acts at the completion is the model's choice (notes/assumptions/82.md). -/
def Invalidations : Prop :=
  (∀ (s : State) (c : Ctx) (o : Ops), s.Issues c → c.mayRule → c.isFull o.b.x = true → c.isFull o.cx = true →
    let parked (i : Instr) (got : List (Nat × Word)) : Prop := ∃ t : State, exec i s = .next t ∧
      (t.slot s.cur).ctx = some (({ c with stage := 1, got } : Ctx).parkAt s.clock .none 0) ∧
      t.agenda = s.agenda ++ [.invalidationComplete c.cid] ∧ t.dies = s.dies ∧ t.mem = s.mem
    parked (.invva o) [(12, c.getX o.cx &&& 0xFFFF), (11, c.getX o.b.x)] ∧
    parked (.invasid o) [(12, c.getX o.b.x &&& 0xFFFF)]) ∧
  (∀ (s : State) (cid u : Nat) (c : Ctx) (asid : BitVec 16) (va : Word), s.slotOf cid = some u → (s.slot u).ctx = some c →
    c.got = [(12, asid.setWidth 64), (11, va)] → ∃ t : State, exec (.invalidationComplete cid) s = .next t ∧
      (t.slot u).ctx = some (c.complete .seq) ∧ t.mem = s.mem ∧
      (∀ d : Fin 4, d.val ≠ homeDie va → t.die d = s.die d) ∧
      (t.die (homeDie va)).tlb = (s.die (homeDie va)).tlb.filter
        (fun e => !(e.1 == asid && va.toNat / 2 ^ e.2.2.1 == e.2.1.toNat / 2 ^ e.2.2.1)) ∧
      tlbFind t (homeDie va) asid va = [] ∧ walks t (homeDie va) asid va = [walk s (homeDie va) asid va]) ∧
  ∀ (s : State) (cid u : Nat) (c : Ctx) (asid : BitVec 16), s.slotOf cid = some u → (s.slot u).ctx = some c →
    c.got = [(12, asid.setWidth 64)] → ∃ t : State, exec (.invalidationComplete cid) s = .next t ∧
      (t.slot u).ctx = some (c.complete .seq) ∧ t.mem = s.mem ∧
      ∀ d : Fin 4, (t.die d).tlb = (s.die d).tlb.filter (fun e => e.1 != asid) ∧ ∀ va, tlbFind t d asid va = [] ∧ walks t d asid va = [walk s d asid va]

end Sys2Proof.Machine

/-- SCRUB clears its range alone; INVVA and INVASID complete with no cached translation of theirs left. -/
def Obligations.ScrubAndInvalidate : Prop :=
  ScrubInstruction ∧ Invalidations

namespace Sys2Proof.Machine

/-- WFE, its timeout and messages (R314): pending event bits are given and cleared at once; with none the thread parks, and a
limit sets a timer; a timeout that has come sets EVT.TO, a message EVT.MB. -/
def EventWaits : Prop :=
  (∀ (s : State) (c : Ctx) (o : Ops), s.Issues c → c.mayRule → c.isFull o.b.x = true → c.canWrite o.a.x.val →
    let n := (c.getX o.b.x).toNat
    (c.evt ≠ 0 → exec (.wfe o) s = s.completes (({ c with evt := 0, wfeStart := none } : Ctx).putX o.a.x c.evt)) ∧
    (c.evt = 0 → n = 0 ∨ c.wfeStart ≠ none → exec (.wfe o) s = s.parks .none 0) ∧
    (c.evt = 0 → n ≠ 0 → c.wfeStart = none → ∃ t : State, exec (.wfe o) s = .next t ∧
      (t.slot s.cur).ctx = some (({ c with wfeStart := some (s.clock + n) } : Ctx).parkAt s.clock .none 0) ∧
      (s.clock + n, Ev.wfeTimeout c.cid) ∈ t.timers)) ∧
  ∀ (s : State) (cid u : Nat) (c : Ctx), s.slotOf cid = some u → (s.slot u).ctx = some c →
    exec (.stewardMessage cid) s = .next (s.setSlot u { s.slot u with ctx := some { c with evt := c.evt ||| 4 } }) ∧
    (∀ n, c.wfeStart = some n → n ≤ s.clock →
      exec (.wfeTimeout cid) s = .next (s.setSlot u { s.slot u with ctx := some { c with evt := c.evt ||| 8 } })) ∧
    ((∀ n, c.wfeStart = some n → s.clock < n) →
      exec (.wfeTimeout cid) s = .next (s.setSlot u { s.slot u with ctx := some c }))

/-- SLOTSET (R312): queue owner, HELD and FIXED of the core's slots that the mask names, under the two write enables; no
context and no other slot changes. -/
def SlotsetInstruction : Prop :=
  ∀ (s : State) (c : Ctx) (o : Ops), s.Issues c → c.mayRule → c.isFull o.b.x = true → c.isFull o.cx = true →
    let mask := c.getX o.b.x
    let w := c.getX o.cx
    (w &&& ~~~(0x33F : Word) ≠ 0 → exec (.slotset o) s = s.traps 0x08 w) ∧
    (w &&& ~~~(0x33F : Word) = 0 → ∃ t : State, exec (.slotset o) s = .next t ∧
      (t.slot s.cur).ctx = some (c.complete .seq) ∧ (∀ u, u ≠ s.cur → (t.slot u).ctx = (s.slot u).ctx) ∧ t.mem = s.mem ∧
      (∀ u, (t.slot u).inc = (s.slot u).inc ∧ (t.slot u).scrub = (s.slot u).scrub ∧ (t.slot u).reserved = (s.slot u).reserved) ∧
      (∀ u, nameCore u ≠ s.myCore ∨ mask.getLsbD (nameSlot u) = false →
        (t.slot u).owner = (s.slot u).owner ∧ (t.slot u).held = (s.slot u).held ∧ (t.slot u).fixed = (s.slot u).fixed) ∧
      ∀ u, nameCore u = s.myCore → mask.getLsbD (nameSlot u) = true →
        (t.slot u).owner = (if w.getLsbD 8 then w.extractLsb' 0 4 else (s.slot u).owner) ∧
        (t.slot u).fixed = (if w.getLsbD 8 then w.getLsbD 5 else (s.slot u).fixed) ∧
        (t.slot u).held = (if w.getLsbD 9 then w.getLsbD 4 else (s.slot u).held))

end Sys2Proof.Machine

/-- WFE gives and clears pending event bits or waits; SLOTSET writes the slots that its mask names. -/
def Obligations.EventsAndSlots : Prop :=
  EventWaits ∧ SlotsetInstruction

namespace Sys2Proof.Machine

/-- RESUME (R310): its codes, and otherwise the saved context in a free slot of its region's queue on the issuing die, under a
fresh incarnation, its image freed; with a mode word of 1 the saved context is killed instead. It waits while an engine owns a
line of the image, a query holds values of the context, its region stands at MSLOT (R325) or its tree is stilled (R373). Code 5
for an image that cannot be read is the model's choice (notes/assumptions/117.md). -/
def ResumeInstruction : Prop :=
  ∀ (s : State) (c : Ctx) (o : Ops), s.Issues c → c.mayRule → c.isFull o.b.x = true → c.canWrite o.a.x.val →
    let va := c.getX o.b.x
    let asid := (s.regionOf c).asid
    let s0 := releaseMark s (.thread c.cid) ⟨2, some s.myCore⟩
    let s1 := touchImg s0 asid va
    let free : Prop := anyOwns s0 asid va 4096 = false
    let fails (i : Instr) (code : Nat) : Prop := exec i s = s1.completes (c.putX o.a.x (BitVec.ofNat 64 (2 ^ 63 + code)))
    (va.toNat % 4096 ≠ 0 → exec (.resume o) s = s.traps 0x05 va) ∧
    (va.toNat % 4096 = 0 → c.canRelease → ¬free → exec (.resume o) s = s0.parks .none 0) ∧
    (va.toNat % 4096 = 0 → c.canRelease → free →
      (readImg s1 asid va = none → fails (.resume o) 5) ∧
      (∀ key img, readImg s1 asid va = some (key, img) →
        (imgWord img 0 = 0 → fails (.resume o) 1) ∧
        (imgWord img 0 ≠ 0 → (imgWord img 0).extractLsb' 8 8 = 0 ∨ (imgWord img 0).extractLsb' 8 8 = 3 → fails (.resume o) 3)) ∧
      ∀ (v : Saved) (key : Nat) (q : Ctx), findImage s1 asid va = .inr (v, key, q) →
        let r := s.regionOf q
        let held : Prop := q.query ≠ none ∨ r.still = true ∨ r.mslot ≤ liveCount s1 r.id s.myDie
        (held → exec (.resume o) s = s1.parks .none 0) ∧
        (¬held → resumeSlots s1 v q = [] → fails (.resume o) 6) ∧
        (¬held → resumeSlots s1 v q ≠ [] → ∃ (t : State) (u : Nat) (q' : Ctx), exec (.resume o) s = .next t ∧
          u ∈ resumeSlots s1 v q ∧ (t.slot s.cur).ctx = some ((c.putX o.a.x (BitVec.ofNat 64 u)).complete .seq) ∧
          (t.slot u).ctx = some q' ∧ q'.inc = (s.slot u).inc + 1 ∧ q'.x = q.x ∧ q'.v = q.v ∧ q'.m = q.m ∧ q'.pc = q.pc ∧
          q'.cid = q.cid ∧ q'.tstat = q.tstat ∧ q'.level = q.level ∧ (∀ e ∈ t.saved, e.ctx.cid ≠ v.ctx.cid) ∧
          (Memory.wf s.mem = true → Mem.num t.mem key 8 = 0))) ∧
    (∀ u v q, u ∈ resumeSlots s1 v q → slotFree s u = true ∧ nameDie u = s.myDie % 4) ∧
    (c.isFull o.cx = true →
      (2 ≤ (c.getX o.cx).toNat → exec (.resumeKill o) s = s.traps 0x08 (c.getX o.cx)) ∧
      (c.getX o.cx = 0 → exec (.resumeKill o) s = exec (.resume o) s) ∧
      ∀ (v : Saved) (key : Nat) (q : Ctx), c.getX o.cx = 1 → va.toNat % 4096 = 0 → c.canRelease → free →
        findImage s1 asid va = .inr (v, key, q) →
        let s2 := s1.store key (toBytes 8 0) .device 0 pkgMark
        let t := kill s2 v.ctx.cid { reason := 3, aux := identWord s s.cur c.inc }
        (∀ c1, (t.slot t.cur).ctx = some c1 → c1.cid = c.cid → exec (.resumeKill o) s = t.completes (c1.putX o.a.x 0)) ∧
        ((t.slot t.cur).ctx = none → exec (.resumeKill o) s = .next t))

end Sys2Proof.Machine

/-- KILL, PARK and RESUME: their result codes, and the thread contained, saved or placed again. -/
def Obligations.ThreadControl : Prop :=
  KillInstruction ∧ ParkInstruction ∧ ResumeInstruction

namespace Sys2Proof.Machine

/-! The end of a thread, YIELD and BSIG. -/

/-- The stores of a task's members that have ended are performed, and none has failed (R18, R31, R98). -/
def State.pastQuiet (s : State) (tid : Nat) : Prop :=
  ∀ e ∈ s.ended, e.2.task = tid → e.2.stores = [] ∧ e.2.strong = none ∧ e.2.outer = [] ∧ e.2.sfaults = []

/-- TEND (R18, R31, R146, R285) where no plumb comparison fails: the last member waits for the task's copies, for its POSTs to
its own element (by the model's reading of R285, notes/assumptions/89.md) and for the stores of its members; then the slot is free, and the task is gone, or has one member fewer, which
waits for nothing. -/
def ThreadEnd : Prop :=
  ∀ (s : State) (c : Ctx) (o : Ops) (k : Task), s.Issues c → (c.block.feed c.feed).bad = false →
    Tab.get? s.tasks c.task = some k →
    let copies := s.copies.any (fun e => e.task == c.task)
    (k.members = 1 → copies = true → exec (.tend o) s = s.parks .tag c.tags) ∧
    (k.members = 1 → copies = false → ownPosts s c.task = true → exec (.tend o) s = s.parks .none 0) ∧
    (k.members = 1 → copies = false → ownPosts s c.task = false → s.pastQuiet c.task → c.sfaults = [] → c.quiet = false →
      exec (.tend o) s = s.parks .none 0) ∧
    (k.members ≠ 1 ∨ (copies = false ∧ ownPosts s c.task = false ∧ s.pastQuiet c.task ∧ c.canRelease) →
      ∃ t : State, exec (.tend o) s = .next t ∧
        (t.slot s.cur).ctx = none ∧ (t.slot s.cur).freed = s.clock + 1 ∧ (t.slot s.cur).inc = (s.slot s.cur).inc ∧
        (∀ q, c.save = some q → (t.slot s.cur).owner = q.queue.getD (s.slot s.cur).owner) ∧
        (k.members = 1 → k.out = [] → Tab.get? t.tasks c.task = none) ∧
        (2 ≤ k.members → (c.save = none → t.mem = s.mem) ∧ ∃ k', Tab.get? t.tasks c.task = some k' ∧
          k'.members = k.members - 1 ∧ k'.region = k.region ∧ k'.coord = k.coord ∧ k'.sweep = k.sweep ∧ k'.stk = k.stk ∧
          k'.killed = k.killed))

/-- YIELD (R147): 0 completes at once; n waits for the n-th offered clock, and then it completes. -/
def YieldInstruction : Prop :=
  (∀ (s : State) (c : Ctx) (o : Ops), s.Issues c →
    (o.imm = 0 → exec (.yield o) s = s.completes c) ∧
    (o.imm ≠ 0 → exec (.yield o) s = .next (s.setCtx
      (({ c with yieldTo := some (s.clock + 16 * o.imm.toNat), stage := 1 } : Ctx).parkAt s.clock .none 0)))) ∧
  ∀ (s : State) (cid u n : Nat) (c : Ctx), s.slotOf cid = some u → (s.slot u).ctx = some c → c.yieldTo = some n →
    exec (.yieldComplete cid) s =
      .next ((noteSig s u c).setSlot u { s.slot u with ctx := some { c.complete .seq with yieldTo := none } })

/-- The mismatch word of a block (Table 23.3). -/
def Blk.mismatch (b : Blk) : Word := b.e.setWidth 64 <<< 16 ||| b.c.setWidth 64

/-- A BSIG word that the thread meets as an instruction (R134, R362 to R364): the block before it, or the one that a BSIG word
before it begins, is compared, and the next block starts with its signature; no instruction is counted. A TEND in mode 2
compares the block that ends with it. A mismatch in mode 2 names the BSIG word, or the TEND, at which it is found. -/
def BlockSignature : Prop :=
  ∀ (s : State) (c : Ctx) (o : Ops) (sig : BitVec 11), s.Issues c →
    let b := c.block
    let mode := c.plumb.extractLsb' 0 2
    let c' : Ctx := { c.takeSig with blk := ⟨0x7FF, sig, true⟩ }
    (b.valid = false ∨ b.c = b.e ∨ mode = 0 → ∃ c2, exec (.bsig sig) s = .next ((noteSig s s.cur c).setCtx c2) ∧
      c2 = { c'.continueAt c.npc with lone := true } ∧ c2.icount = c.icount ∧ c2.x = c.x ∧ c2.v = c.v ∧
      (c.sigMiss = false → c2.plumb = c.plumb) ∧
      (c.inTrap = true ∨ c.loops = [] → c2.pc = c.npc ∧ c2.blk = ⟨0x7FF, sig, true⟩)) ∧
    (b.valid = true → b.c ≠ b.e →
      (mode = 2 → exec (.bsig sig) s = .next (takeTrap s { cause := 0x04, val := b.mismatch, epc := c.npc - 2 })) ∧
      (mode = 1 → ∃ (t : State) (c2 : Ctx), exec (.bsig sig) s = .next t ∧ (t.slot s.cur).ctx = some c2 ∧
        (c2.plumb.extractLsb' 16 16).toNat = min 65535 ((c.takeSig.plumb.extractLsb' 16 16).toNat + 1) ∧ c2.x = c.x ∧
        c2.icount = c.icount ∧ t.mem = s.mem)) ∧
    (mode = 2 → (b.feed c.feed).bad = true → exec (.tend o) s = .next (takeTrap s
      { cause := 0x04, val := (b.feed c.feed).mismatch, epc := if c.sig = none then c.pc else c.pc + 2 }))

end Sys2Proof.Machine

/-- TEND ends a task or a member, YIELD waits for offered clocks, and a BSIG word compares and starts a block. -/
def Obligations.EndYieldAndSignature : Prop :=
  ThreadEnd ∧ YieldInstruction ∧ BlockSignature

namespace Sys2Proof.Machine

/-! Faults of weak accesses, and waits that end. -/

/-- Faults of weak loads (R171, R293, R296, R298): a fault of the load's home is held, and the register stays empty; the oldest
held one is taken at a boundary outside the Trap state, with the load's address in TLPC. -/
def LoadFaults : Prop :=
  (∀ (s s1 : State) (cid id : Nat) (c : Ctx) (l : PLoad) (va : Word) (pk : Option Nat) (b : Bad), s.findCtx cid = some c →
    c.loads.find? (·.id == id) = some l → l.elems = [(0, va, pk)] →
    resolve s (s.regionOf c).asid (match pk with | some k => .arr k | none => .ord (homeDie va)) va l.n .r = (.error b, s1) →
    (∀ g, b = .poison g → exec (.weakLoadFault cid id) s = .next (killBad s1 cid va g)) ∧
    ((∀ g, b ≠ .poison g) → exec (.weakLoadFault cid id) s = .next (s1.modCtx cid (fun c => c.holdFault l va (b == .pool))) ∧
      (c.lfaults.any (fun f => f.seq == l.seq) = false →
        let h := c.holdFault l va (b == .pool)
        ⟨l.seq, l.pc, va, b == .pool, l.dst, l.inputs⟩ ∈ h.lfaults ∧ h.lfaults.length = c.lfaults.length + 1 ∧
        h.loads = c.loads.filter (fun e => e.id != id) ∧ h.x = c.x ∧ h.v = c.v ∧ h.xfe = c.xfe ∧ h.vfe = c.vfe ∧
        (l.dst ≠ .operand → h.isPend l.dst.num = false)))) ∧
  (∀ (s : State) (cid u : Nat) (c : Ctx), s.slotOf cid = some u → (s.slot u).ctx = some c → c.lfaults = [] ∨ c.inTrap = true →
    exec (.heldLoadFaultTrap cid) s = .next s) ∧
  ∀ (s : State) (cid u : Nat) (c : Ctx) (f : LFault) (l : List LFault), s.slotOf cid = some u → (s.slot u).ctx = some c →
    c.lfaults = f :: l → l.length < 256 →
    let c0 : Ctx := { c with lfaults := l }
    let s0 := ({ s with cur := u } : State).setCtx c0
    let e : Exc := { cause := if f.pool then 0x13 else 0x06, val := f.va, epc := c.pc, lpc := some f.pc }
    CanTrap s0 c0 e → ∃ (t : State) (c' : Ctx), exec (.heldLoadFaultTrap cid) s = .next t ∧ t.cur = s.cur ∧
      (t.slot u).ctx = some c' ∧ c'.tepc = c.pc ∧ c'.tlpc = f.pc ∧ c'.tval = f.va ∧
      c'.tcause = (if f.pool then 0x13 else 0x06) ∧ c'.tstat.getLsbD 3 = true ∧ (c'.tstat.extractLsb' 24 8).toNat = l.length ∧
      c'.pc = (s.regionOf c).tvec ∧ c'.level = .sup ∧ c'.x = c.x ∧ c'.lfaults = l ∧ t.mem = s.mem

/-- Faults of weak stores (R81, R98, R171, R211): a store that fails at its home writes nothing there, its fault travels back and
then waits for a release, in program order with the others; one that meets uncorrectable data kills; a pinned line holds it. -/
def StoreFaults : Prop :=
  ∀ (s : State) (cid id : Nat) (c : Ctx) (p : PStore), s.findCtx cid = some c → c.stores.find? (·.id == id) = some p →
    (∀ va pool, p.elems = [] → p.fault = some (va, pool) →
      exec (.weakStoreFault cid id) s = .next (s.modCtx cid (fun c => { c with
        stores := c.stores.filter (fun q => q.id != id),
        sfaults := c.sfaults.filter (fun g => decide (g.seq ≤ p.seq)) ++ [⟨p.seq, va, pool⟩] ++
          c.sfaults.filter (fun g => decide (p.seq < g.seq)) }))) ∧
    (p.elems ≠ [] ∨ p.fault = none → exec (.weakStoreFault cid id) s = .next (s.due (.weakStorePerformed cid id))) ∧
    ∀ (s1 : State) (va : Word) (pk : Option Nat) (bs : List Byte), p.elems = [(va, pk, bs)] →
      c.storesBefore p.seq (locOf va pk) bs.length = false → c.loadsBefore p.seq (locOf va pk) bs.length = false →
      c.strongBefore p.seq (locOf va pk) bs.length = false →
      (pk = none → recalled s cid p.seq (s.regionOf c).asid va bs.length = false) →
      let place : Place := match pk with | some k => .arr k | none => .ord (homeDie va)
      let keep (l : List (Word × Option Nat × List Byte)) (f : Option (Word × Bool)) : State := s1.modCtx cid (fun c => { c with
        stores := c.stores.map (fun q => if q.id = id then { q with elems := l, fault := f } else q) })
      (∀ g, resolve s (s.regionOf c).asid place va bs.length .w = (.error (.poison g), s1) →
        exec (.weakStorePerformed cid id) s = .next (killBad s1 cid va g)) ∧
      (∀ b, (∀ g, b ≠ .poison g) → resolve s (s.regionOf c).asid place va bs.length .w = (.error b, s1) →
        exec (.weakStorePerformed cid id) s =
          .next ((keep [] (some (p.fault.getD (va, b == .pool)))).due (.weakStoreFault cid id))) ∧
      ∀ key, resolve s (s.regionOf c).asid place va bs.length .w = (.ok key, s1) → pinned s1 key bs.length = true →
        exec (.weakStorePerformed cid id) s = .next ((keep p.elems p.fault).due (.weakStorePerformed cid id))

end Sys2Proof.Machine

/-- Faults of addresses at issue, and faults of weak loads and stores at their homes. -/
def Obligations.AccessFaults : Prop :=
  AddressFaults ∧ LoadFaults ∧ StoreFaults

namespace Sys2Proof.Machine

/-- WAIT_LIMIT_EXPIRY (R27): a wait of a counted kind that has lasted WLIM times 256 clocks traps with cause 0x09 and the
object of the wait; before that, with no limit, or under a halt, nothing happens. -/
def WaitLimits : Prop :=
  ∀ (s : State) (cid u : Nat) (c : Ctx) (w : Wait), s.slotOf cid = some u → (s.slot u).ctx = some c → c.wait = some w →
    c.run = .parked →
    let n := (c.wlim.extractLsb' 0 32).toNat
    (w.kind = .none ∨ n = 0 ∨ s.host.dhalt ≠ 0 ∨ s.clock < w.start + n * 256 → exec (.waitLimitExpiry cid) s = .next s) ∧
    (w.kind ≠ .none → n ≠ 0 → s.host.dhalt = 0 → w.start + n * 256 ≤ s.clock →
      CanTrap ({ s with cur := u } : State) c { cause := 0x09, val := w.obj, epc := c.pc } →
      ∃ (t : State) (c' : Ctx), exec (.waitLimitExpiry cid) s = .next t ∧ (t.slot u).ctx = some c' ∧ c'.tcause = 9 ∧
        c'.tval = w.obj ∧ c'.tepc = c.pc ∧ c'.pc = (s.regionOf c).tvec ∧ c'.x = c.x ∧ c'.v = c.v ∧ c'.run = .running ∧
        t.mem = s.mem)

/-- PAGE_GROWTH_FILL (R337, R338): a page whose walk ends at its last level inside a growth window gets a frame of its die's
page pool, set to zero, and its table entry; with no frame left nothing changes. -/
def PageGrowth : Prop :=
  ∀ (s : State) (die : Nat) (asid : BitVec 16) (va : Word),
    ((∀ n, walk s die asid va ≠ .none n) → exec (.pageGrowthFill die asid va) s = .next s) ∧
    (∀ n, walk s die asid va = .none n → (n ≠ 3 ∧ n ≠ 4) ∨ growthRegion s asid va = none ∨ asidRoot s die asid = none →
      exec (.pageGrowthFill die asid va) s = .next s) ∧
    (∀ r, growthRegion s asid va = some r → r.asid = asid ∧ r.live = true ∧ r.stkb.toNat ≤ va.toNat ∧
      va.toNat < r.stkb.toNat + r.nstk * r.stksz) ∧
    ∀ (r : Region) (root key : Nat), walk s die asid va = .none 4 → growthRegion s asid va = some r →
      asidRoot s die asid = some root → devKey s r.asid (r.pool + BitVec.ofNat 64 (64 * die + 8)) true = some key →
      devKey s r.asid (r.pool + BitVec.ofNat 64 (64 * die + 8)) false = some key →
      let left := Mem.num s.mem key 8
      (left = 0 → exec (.pageGrowthFill die asid va) s = .next s) ∧
      (∀ (b : Bad) (s1 : State), takeFrame s r die = (.error b, s1) → exec (.pageGrowthFill die asid va) s = .next s1) ∧
      ∀ (f : Nat) (s1 : State), takeFrame s r die = (.ok f, s1) → Memory.wf s.mem = true →
        let t3 := bits (memPa s die (bits (memPa s die (root + 8 * walkIndex va 1)) 36 8 * 2 ^ 8 + 8 * walkIndex va 2)) 36 8 * 2 ^ 8
        let e4 := ordKey die (bits (memPa s1 die (t3 + 8 * walkIndex va 3)) 36 8 * 2 ^ 8 + 8 * walkIndex va 4)
        left ≠ 0 ∧ f % 65536 = 0 ∧ f < 2 ^ 37 ∧ Mem.num s1.mem key 8 = left - 1 ∧
        ∃ t : State, exec (.pageGrowthFill die asid va) s = .next t ∧ Mem.num t.mem e4 8 = f + 0x2F ∧
          (∀ a, ordKey die f ≤ a → a < ordKey die f + 65536 → a < e4 ∨ e4 + 8 ≤ a → Mem.read t.mem a = 0) ∧
          ∀ a, a < ordKey die f ∨ ordKey die f + 65536 ≤ a → a < e4 ∨ e4 + 8 ≤ a → Mem.read t.mem a = Mem.read s1.mem a

end Sys2Proof.Machine

/-- A counted wait that has lasted its limit traps; a page of a growth window gets a zeroed frame. -/
def Obligations.WaitLimitsAndPageGrowth : Prop :=
  WaitLimits ∧ PageGrowth

namespace Sys2Proof.Machine

/-! The links of the Scaffold ports. -/

/-- A flit slot received (R348, R350 to R352, R354, Table 22.3): every slot advances the receiver's counter; a corrupt slot is
answered with a NAK; a flit out of order is discarded, but for the switch that an intact key-switch flit makes; one in order is
accepted once, and what its last flit completes is acted on. The switch that link training has completed is not made again
(notes/assumptions/51.md). -/
def FlitSlots : Prop :=
  ∀ (s : State) (p : Fin 8) (f : Flit),
    let q := s.port p
    (q.link ≠ .up → exec (.flitSlotReceive p f) s = .next s) ∧
    (q.link = .up → f.intact = false → ∃ t : State, exec (.flitSlotReceive p f) s = .next t ∧
      (t.port p).rxc = q.rxc + 1 ∧ (t.port p).rnext = q.rnext ∧ (t.port p).replay = q.replay ∧ (t.port p).rseq = q.rseq ∧
      (t.port p).link = .up ∧ t.fabric = s.fabric ∧ t.mem = s.mem ∧ (q.hold = true → (t.port p).nakDue = true) ∧
      ((t.port p).nakDue = true ∨ ∃ x ∈ (t.port p).line, x.nak = true ∧ x.rack = q.rnext - 1)) ∧
    (q.link = .up → f.intact = true → ∃ t : State, exec (.flitSlotReceive p f) s = .next t ∧ t.mem = s.mem ∧
      ((∀ g, f.payload ≠ .keySwitch g) → (t.port p).rxc = q.rxc + 1) ∧
      (f.payload = .idle ∨ f.rseq ≠ q.rnext → (t.port p).rnext = q.rnext ∧ t.fabric = s.fabric) ∧
      (f.payload ≠ .idle → f.rseq = q.rnext → (t.port p).rnext = q.rnext + 1 ∧
        (f.len ≤ 56 → s.fabric.fenced = false →
          (∀ r, f.payload = .request s.node r ∨ (f.payload = .more ∧ q.part = some (.request s.node r)) →
            .fabricRequestArrival r ∈ t.agenda) ∧
          (∀ src seq r, f.payload = .reply s.node src seq r ∨ (f.payload = .more ∧ q.part = some (.reply s.node src seq r)) →
            .remoteReply src seq r ∈ t.agenda)) ∧
        (56 < f.len → ∀ d r, f.payload = .request d r → (t.port p).part = some f.payload) ∧
        (∀ a, f.payload = .control a → (t.port p).peer = a ∧
          (a = true → q.arm = true → (t.port p).replay.length < 256 → .keySwitchSend p ∈ t.agenda)) ∧
        ∀ g, f.payload = .keySwitch g → q.early ≠ some f.rseq →
          (q.redo = true → (t.port p).rxKey = q.rxKey ∧ (t.port p).rxGen = q.rxGen ∧ (t.port p).rxc = q.rxc + 1 ∧
            (t.port p).redo = false) ∧
          (q.redo = false → (q.arm = true → q.sgen = g → (t.port p).rxKey = q.staged ∧ (t.port p).rxGen = g ∧ (t.port p).rxc = 0) ∧
          (q.arm = false ∨ q.sgen ≠ g → q.agen = g → q.arm = false ∨ q.rxGen ≠ g →
            (t.port p).rxKey = q.key ∧ (t.port p).rxGen = g ∧ (t.port p).rxc = 0) ∧
          (q.arm = false ∨ q.sgen ≠ g → q.agen ≠ g ∨ (q.arm = true ∧ q.rxGen = g) → (t.port p).link = .down))) ∧
      (∀ g, f.payload = .keySwitch g → f.rseq ≠ q.rnext → (f.rseq - q.rnext).toNat < 256 → q.early ≠ some f.rseq →
        q.redo = false → q.arm = true → q.sgen = g →
        (t.port p).rxKey = q.staged ∧ (t.port p).rxGen = g ∧ (t.port p).rxc = 0 ∧ (t.port p).early = some f.rseq) ∧
      (f.payload = .idle → q.queue = [] → ∀ (l r : List (BitVec 12 × Wire)) (b : Wire),
        q.replay = l ++ (f.rack, b) :: r → (∀ e ∈ l, e.1 ≠ f.rack) → (t.port p).replay = r) ∧
      (f.nak = true → if 64 ≤ q.naks + 1 then .linkRetrain p ∈ t.agenda else .nakReplay p ∈ t.agenda) ∧
      (f.nak = false → f.payload = .idle → (t.port p).naks = 0))

/-- NAK_REPLAY (R351, R352, R356): the unacknowledged flits stay as they are and each takes a later counter value, up to
2^48 − 2; a link that is not up, or in HOLD, replays nothing. -/
def Replays : Prop :=
  ∀ (s : State) (p : Fin 8),
    let q := s.port p
    (q.link ≠ .up ∨ q.hold = true → exec (.nakReplay p) s = .next s) ∧
    (q.link = .up → q.hold = false → ∃ t : State, exec (.nakReplay p) s = .next t ∧ (t.port p).replay = q.replay ∧
      (t.port p).rseq = q.rseq ∧ (t.port p).key = q.key ∧ t.fabric = s.fabric ∧ t.mem = s.mem ∧
      (q.txc ≤ 2 ^ 48 - 2 → (t.port p).txc ≤ 2 ^ 48 - 2 ∧
        ((t.port p).txc = 2 ^ 48 - 2 ∨ q.txc + q.replay.length ≤ (t.port p).txc)))

end Sys2Proof.Machine

/-- Flits are accepted once and in order; a replay keeps them under later counter values. -/
def Obligations.FlitsAndReplays : Prop :=
  FlitSlots ∧ Replays

namespace Sys2Proof.Machine

/-- A timeout of so many clocks, stated in µs or ms, stands: it is acted on up to a microsecond late (R4). -/
def State.waits (t : State) (now n : Nat) (e : Ev) : Prop :=
  ∃ k, now + n ≤ k ∧ k ≤ now + n + 2500 ∧ (k, e) ∈ t.timers

/-- Links that retrain, go down, are held down and come up (R346, R351, R352, R355, R357): where both ends name the key that
they used, its counters go on, at the next multiple of 2^20 above every value used, and an end that states a lower value is
refused, as is an equal one; a switch whose flit was lost is completed, and its flit is ignored when it is replayed; where the
peer has been reset both start anew under the bootstrap key. A port trains once its die has set up its memory (R380). The
cases of a training are the model's reading (notes/assumptions/51.md), and so are the times in clocks
(notes/assumptions/52.md). -/
def LinkStates : Prop :=
  (∀ (s : State) (p : Fin 8),
    let q := s.port p
    ((q.link ≠ .up → exec (.linkRetrain p) s = .next s) ∧
      (q.link = .up → ∃ t : State, exec (.linkRetrain p) s = .next t ∧
        t.port p = { q with link := .retraining, naks := 0, nakDue := false } ∧
        t.waits s.clock 250000 (.linkDown p))) ∧
    ((q.link ≠ .retraining → exec (.linkDown p) s = .next s) ∧
      (q.link = .retraining → ∃ t : State, exec (.linkDown p) s = .next t ∧ t.port p =
        { q with link := .down, replay := [], naks := 0, nakDue := false, hold := false, part := none, early := none, redo := false })) ∧
    (exec (.lctlDown p q.down) s = .next s ∧
      (q.down = false → ∃ t : State, exec (.lctlDown p true) s = .next t ∧ (t.port p).link = .down ∧ (t.port p).down = true ∧
        (t.port p).key = q.key ∧ (t.port p).agen = q.agen ∧ (t.port p).txc = q.txc) ∧
      (q.down = true → ∃ t : State, exec (.lctlDown p false) s = .next t ∧ (t.port p).link = .retraining ∧
        (t.port p).down = false ∧ (t.port p).key = q.key ∧ (t.port p).agen = q.agen ∧ (t.port p).txc = q.txc))) ∧
  ∀ (s : State) (p : Fin 8) (v : BitVec 48) (g : BitVec 8) (n : Nat),
    let q := s.port p
    let fresh : Prop := g = 0 ∧ (q.rxGen ≠ 0 ∨ v = 0)
    let same : Prop := ¬fresh ∧ g = q.rxGen
    let lost : Prop := ¬fresh ∧ g ≠ q.rxGen
    let staged : Prop := q.arm = true ∧ q.sgen = g
    let comesUp (t : State) : Prop := exec (.linkUp p v g) s = .next t ∧ (t.port p).link = .up ∧ t.mem = s.mem ∧
      (inExtents s s.node = true → t.fabric.joined = true ∧
        t.fabric.join = if s.fabric.joined then s.fabric.join else s.fabric.join + 1)
    let goesOn (t : State) : Prop := (t.port p).agen = q.agen ∧ (t.port p).key = q.key ∧
      (q.txc ≤ 2 ^ 48 - 2 → q.txc ≤ (t.port p).txc ∧ (q.met = true → q.txc < 2 ^ 48 - 2 → q.txc < (t.port p).txc ∧
        (q.queue = [] → s.fabric.transit = [] → q.arm = false ∨ q.replay ≠ [] →
          (t.port p).txc = min (2 ^ 20 * (q.txc / 2 ^ 20 + 1)) (2 ^ 48 - 2))))
    let anew (t : State) (r : Nat) : Prop := (t.port p).agen = 0 ∧ (t.port p).key = 0 ∧ (t.port p).rxKey = 0 ∧
      (t.port p).rxGen = 0 ∧ (t.port p).rxc = r ∧ (q.agen ≠ 0 → q.queue = [] → q.replay = [] → s.fabric.transit = [] →
        q.arm = false → (t.port p).txc = 0)
    let trains : Prop := 2 ≤ s.host.booted.getD (portDie p) 0
    (neighbour s p.val = none ∨ q.down = true ∨ q.link = .up ∨ ¬trains → exec (.linkUp p v g) s = .next s) ∧
    (neighbour s p.val = some n → q.down = false → q.link ≠ .up → trains →
      (same → v.toNat ≤ q.rxc → ∃ t : State, exec (.linkUp p v g) s = .next t ∧ (t.port p).link = .down) ∧
      (same → q.rxc < v.toNat → ∃ t : State, comesUp t ∧ goesOn t ∧ (t.port p).rxKey = q.rxKey ∧ (t.port p).rxGen = g ∧
        (t.port p).rxc = v.toNat) ∧
      (fresh → ∃ t : State, comesUp t ∧ anew t v.toNat) ∧
      (lost → staged → ∃ t : State, comesUp t ∧ goesOn t ∧ (t.port p).rxKey = q.staged ∧ (t.port p).rxGen = g ∧
        (t.port p).rxc = v.toNat ∧ (t.port p).redo = (q.link != .down)) ∧
      (lost → ¬staged → q.agen = g → ∃ t : State, comesUp t ∧ goesOn t ∧ (t.port p).rxKey = q.key ∧ (t.port p).rxGen = g ∧
        (t.port p).rxc = v.toNat ∧ (t.port p).redo = (q.link != .down)) ∧
      (lost → ¬staged → q.agen ≠ g → q.agen = 0 → ∃ t : State, comesUp t ∧ anew t 0) ∧
      (lost → ¬staged → q.agen ≠ g → q.agen ≠ 0 → ∃ t : State, exec (.linkUp p v g) s = .next t ∧ (t.port p).link = .down))

/-- Keys (R353 to R356, Table 22.4): four words load a staged key, the lowest first; a port is armed only with a generation
other than 0; the switch takes the staged key with counter 0; KEY_LOW tells the steward; HOLD takes the link out of every
route, and down after 100 ms, counted in clocks (notes/assumptions/52.md). -/
def LinkKeys : Prop :=
  (∀ (s : State) (p : Fin 8) (w : Word),
    let q := s.port p
    ∃ t : State, exec (.lkeyWrite p w) s = .next t ∧ t.agenda = s.agenda ∧
      t.port p = { q with keyWords := if q.keyWords.length < 4 then q.keyWords ++ [w] else [w] }) ∧
  (∀ (q : Port) (a b c d : Word), q.keyWords = [a, b, c, d] → q.staged = d ++ c ++ b ++ a) ∧
  (∀ (s : State) (p : Fin 8) (b : Bool),
    let q := s.port p
    ∃ t : State, exec (.lctlArm p b) s = .next t ∧ (t.port p).arm = (b && q.sgen != 0) ∧ (t.port p).key = q.key ∧
      (t.port p).agen = q.agen ∧ (q.arm = (b && q.sgen != 0) → t = s)) ∧
  (∀ (s : State) (p : Fin 8),
    let q := s.port p
    (q.arm = false ∨ q.peer = false ∨ q.link ≠ .up ∨ 256 ≤ q.replay.length → exec (.keySwitchSend p) s = .next s) ∧
    (q.arm = true → q.peer = true → q.link = .up → q.replay.length < 256 → ∃ t : State, exec (.keySwitchSend p) s = .next t ∧
      (t.port p).key = q.staged ∧ (t.port p).agen = q.sgen ∧ (t.port p).arm = false ∧ (t.port p).peer = false ∧
      (t.port p).keyWords = [] ∧ (t.port p).hold = false ∧
      (∃ x ∈ (t.port p).line, x.key = q.key ∧ x.gen = q.agen ∧ x.counter = q.txc ∧ x.flit.payload = .keySwitch q.sgen) ∧
      (q.queue = [] → s.fabric.transit = [] → (t.port p).txc = 0 ∧
        (t.port p).replay = q.replay ++ [(q.rseq, ⟨Config.channel 4, 0, .keySwitch q.sgen⟩)] ∧ (t.port p).rseq = q.rseq + 1))) ∧
  (∀ (s : State) (p : Fin 8),
    let q := s.port p
    (∃ t : State, exec (.keyLow p) s = .next t ∧ t.port p = { q with klow := true } ∧ (t.die (portDie p)).keyIrq = true ∧
      t.mem = s.mem) ∧
    (∃ t : State, exec (.linkHold p) s = .next t ∧ t.port p = { q with hold := true, holdStart := s.clock } ∧
      usable t p.val = false ∧ t.waits s.clock 250000000 (.holdTimeout p s.clock)) ∧
    ∀ n : Nat, (q.hold = true → q.holdStart = n → ∃ t : State, exec (.holdTimeout p n) s = .next t ∧ (t.port p).link = .down ∧
        (t.port p).key = q.key) ∧
      (q.hold = false ∨ q.holdStart ≠ n → exec (.holdTimeout p n) s = .next s))

end Sys2Proof.Machine

/-- Links retrain, go down and come up with counters that never repeat; keys are staged, armed and switched. -/
def Obligations.LinksAndKeys : Prop :=
  LinkStates ∧ LinkKeys

namespace Sys2Proof.Machine

/-! Control registers written as steps of their own. -/

/-- Register writes of the issuing context (R26, R153, R198, R290, R361, Tables 2.4, 10.1, 23.2): the written field alone
changes; VTYPE waits for no instruction here where no load holds it; a register above the context's level traps. -/
def ContextRegisterWrites : Prop :=
  ∀ (s : State) (c : Ctx) (w : Word), s.Issues c →
    (∃ c', exec (.fstatWrite w) s = .next (s.setCtx c') ∧ c' = { c with xfe := c'.xfe } ∧ ∀ n < 64, c'.xfe.getLsbD n =
      if n = 0 then true else if c.pend.x.getLsbD n then c.xfe.getLsbD n else w.getLsbD n) ∧
    (c.vtypeFree → ∃ c', exec (.vtypeWrite w) s = .next (s.setCtx c') ∧ c' = { c with vtype := c'.vtype } ∧
      c'.vtype.extractLsb' 12 4 = (if w.extractLsb' 12 4 < 13 then w.extractLsb' 12 4 else c.vtype.extractLsb' 12 4) ∧
      (c'.vtype.extractLsb' 0 8).toNat =
        min (w.extractLsb' 0 8).toNat (1024 / etWidth (c'.vtype.extractLsb' 12 4).toNat)) ∧
    (∃ c', exec (.plumbWrite w) s = .next (s.setCtx c') ∧ c' = { c with plumb := c'.plumb } ∧
      c'.plumb.extractLsb' 16 16 = w.extractLsb' 16 16 ∧
      (c'.plumb.extractLsb' 0 2).toNat = (if w.extractLsb' 0 2 = 3 then (c.plumb.extractLsb' 0 2).toNat
        else max (w.extractLsb' 0 2).toNat s.plfloor.toNat)) ∧
    (∀ n, 0x400 ≤ n ∨ (0x100 ≤ n ∧ c.level = .user) → exec (.csrWrite .thread n w) s = s.traps 0x0C c.pc) ∧
    (exec (.csrWrite .thread 0x000 w) s = exec (.vtypeWrite w) s ∧ exec (.csrWrite .thread 0x005 w) s = exec (.fstatWrite w) s ∧
      exec (.csrWrite .thread 0x00A w) s = exec (.plumbWrite w) s ∧
      exec (.csrWrite .thread 0x001 w) s = .next (s.setCtx { c with cb := w }) ∧
      exec (.csrWrite .thread 0x002 w) s = .next (s.setCtx { c with te := w }) ∧
      exec (.csrWrite .thread 0x003 w) s = .next (s.setCtx { c with wlim := w &&& 0xFFFFFFFF }) ∧
      (c.level = .sup → exec (.csrWrite .thread 0x101 w) s = .next (s.setCtx { c with tepc := w }) ∧
        exec (.csrWrite .thread 0x10A w) s = .next (s.setCtx { c with evt := c.evt &&& ~~~w })))

/-- Firmware settings (R353 to R355, R367, R384, Tables 22.4, 25.3): ASIDTB of the steward's own die; FABRIC, until the package
has joined, SCANPRI and PLFLOOR by die 0 alone; link registers by the port's die alone; every other write is ignored. -/
def StewardRegisterWrites : Prop :=
  ∀ (s : State) (d : Fin 4) (w : Word),
    let put (n : Nat) := exec (.csrWrite (.steward d) n w) s
    (∃ t : State, put 0x400 = .next t ∧ (t.die d).asidtb = w &&& 0x1FFFF00000 ∧ (∀ e : Fin 4, e ≠ d → t.die e = s.die e) ∧
      (t.die d).tlb = (s.die d).tlb ∧ t.fabric = s.fabric ∧ t.ports = s.ports) ∧
    (s.fabric.joined = true → exec (.fabricWrite w) s = .next s) ∧
    (s.fabric.joined = false → exec (.fabricWrite w) s =
      .next { s with fabric := { s.fabric with reg := w &&& 0xFF0007FF } }) ∧
    put 0x401 = (if d = 0 then exec (.fabricWrite w) s else .next s) ∧
    put 0x402 = (if d = 0 then .next { s with scanpri := w.extractLsb' 0 4 } else .next s) ∧
    put 0x403 = (if d = 0 ∧ w.extractLsb' 0 2 ≠ 3 then .next { s with plfloor := w.extractLsb' 0 2 } else .next s) ∧
    (∀ n, n < 0x400 ∨ (0x403 < n ∧ n < 0x480) ∨ 0x4A0 ≤ n → put n = .next s) ∧
    ∀ (p : Fin 8),
      let at' (k : Nat) : Nat := 0x480 + 4 * p.val + k
      (portDie p ≠ d.val → ∀ k < 4, put (at' k) = .next s) ∧
      (portDie p = d.val →
        (∃ t : State, put (at' 0) = .next t ∧ (t.port p).sgen = w.extractLsb' 8 8 ∧ (t.port p).down = w.getLsbD 1 ∧
          (t.port p).arm = (w.getLsbD 0 && w.extractLsb' 8 8 != 0) ∧ (t.port p).key = (s.port p).key ∧
          (t.port p).agen = (s.port p).agen) ∧
        (w.getLsbD 1 = true → ∃ t : State, put (at' 1) = .next t ∧ t.port p = { s.port p with klow := false }) ∧
        (w.getLsbD 1 = false → put (at' 1) = .next s) ∧ put (at' 2) = .next s ∧ put (at' 3) = exec (.lkeyWrite p w) s)

/-- What a steward reads (R5, R6, R353, R368, Tables 22.4, 23.5, 25.3): the package settings on every die, the core map of its
own die bit by bit, the link registers of its own ports with LKEY as 0, and 0 in every other number. -/
def StewardRegisterReads : Prop :=
  ∀ (s : State) (d : Fin 4),
    let get := stewardRead s d
    get 0x400 = (s.die d).asidtb ∧ get 0x401 = s.fabric.reg ∧ get 0x402 = s.scanpri.setWidth 64 ∧
    get 0x403 = s.plfloor.setWidth 64 ∧
    (∀ k < 4, ∀ n < 64, (get (0x440 + k)).getLsbD n = (s.core (coreOfPhys d (64 * k + n))).present) ∧
    (∀ n, n < 0x400 ∨ (0x403 < n ∧ n < 0x440) ∨ (0x443 < n ∧ n < 0x480) ∨ 0x4A0 ≤ n → get n = 0) ∧
    ∀ p : Fin 8,
      let q := s.port p
      let at' (k : Nat) : Nat := 0x480 + 4 * p.val + k
      (portDie p ≠ d.val → ∀ k < 4, get (at' k) = 0) ∧
      (portDie p = d.val →
        (get (at' 0)).extractLsb' 8 8 = q.sgen ∧ (get (at' 0)).getLsbD 1 = q.down ∧ (get (at' 0)).getLsbD 0 = q.arm ∧
        (get (at' 1)).extractLsb' 8 8 = q.agen ∧ (get (at' 1)).getLsbD 0 = decide (q.link = .up) ∧
        (get (at' 1)).getLsbD 1 = q.klow ∧ (get (at' 1)).getLsbD 2 = q.hold ∧
        (q.txc < 2 ^ 48 → (get (at' 2)).toNat = q.txc) ∧ get (at' 3) = 0)

end Sys2Proof.Machine

/-- A register write changes the written field alone; machine registers are written and read by their own steward.
-/
def Obligations.RegistersOfContextAndFirmware : Prop :=
  ContextRegisterWrites ∧ StewardRegisterWrites ∧ StewardRegisterReads

namespace Sys2Proof.Machine

/-! The host. -/

/-- No context waits to be killed at the end of a debug halt (R300). -/
def State.undoomed (s : State) : Prop := ∀ e ∈ s.slots, ∀ c, e.2.ctx = some c → c.doom = none

/-- No entry of the launch queue is in admission (R319). -/
def State.queueIdle (s : State) : Prop := ∀ e ∈ s.launches, e.2.entry = none

/-- OWNER (R379, Table 25.1): after boot the first master that writes its code owns the package; the owner hands over through
NEXT, or releases; at a change DBGEN clears and every debug halt ends; nothing else moves OWN. Of writes by both masters in
one clock the host's is taken, and the BMC's is not. -/
def Ownership : Prop :=
  ∀ (s : State) (m : Master) (w : Word),
    let me : BitVec 2 := match m with | .host => 1 | .bmc => 2
    let v := w.extractLsb' 0 2
    let booted : Prop := ∀ d : Fin 4, s.host.bootst[d] = 1
    let taken : Prop := m = .host ∨ s.host.hostAt ≠ s.clock + 1
    let s' : State := match m with
      | .host => { s with host := { s.host with hostAt := s.clock + 1 } }
      | .bmc => s
    let becomes (o : BitVec 2) : Prop := ∃ t : State, exec (.ownerWrite m w) s = .next t ∧ t.host.own = o ∧
      t.host.dbgen = false ∧ (s.host.next = me → s.host.own ≠ me → t.host.next = 0) ∧
      (s.undoomed → t.host.dhalt = 0 ∧ t.mem = s.mem ∧ t.host.hostAt = s'.host.hostAt)
    (¬taken → exec (.ownerWrite m w) s = .next s ∧ exec (.nextWrite m w) s = .next s ∧
      exec (.hostRegisterWrite m 0 w) s = .next s) ∧
    (taken → (s.host.own = me → v = 0 → becomes 0) ∧
    (s.host.own ≠ me → v = me → s.host.next = me → becomes me) ∧
    (s.host.own = 0 → v = me → booted → becomes me) ∧
    ((s.host.own = me ∧ v ≠ 0) ∨ (s.host.own ≠ me ∧ v ≠ me) ∨
        (s.host.own ≠ me ∧ s.host.next ≠ me ∧ (s.host.own ≠ 0 ∨ ¬booted)) → exec (.ownerWrite m w) s = .next s') ∧
    (s.host.own = me → w.extractLsb' 8 2 ≠ 3 →
      exec (.nextWrite m w) s = .next { s' with host := { s'.host with next := w.extractLsb' 8 2 } }) ∧
    (s.host.own ≠ me ∨ w.extractLsb' 8 2 = 3 → exec (.nextWrite m w) s = .next s'))

/-- The register block (R378, R383, R385, Table 25.1): a write by another master than the owner only sets VIOL; the owner's
write changes its register's writable fields; a command waits in the mailbox, and a 17th sets VIOL. That the low 12 bits of a
base that is not aligned are dropped is the model's choice (notes/assumptions/53.md). -/
def HostRegisters : Prop :=
  ∀ (s : State) (m : Master) (w : Word),
    let me : BitVec 2 := match m with | .host => 1 | .bmc => 2
    let h := s.host
    let put (off : Nat) := exec (.hostRegisterWrite m off w) s
    let gives (h' : HostRegs) : Host.Outcome State Fault Refusal := .next { s with host := h' }
    (h.own ≠ me → (∀ off, off ≠ 0 → put off = gives { h with viol := true }) ∧
      exec (.mboxWrite m w) s = gives { h with viol := true } ∧ exec (.dhaltWrite m w) s = gives { h with viol := true }) ∧
    (h.own ≠ 1 → ∀ tail, exec (.launchDoorbell tail) s = gives { h with viol := true }) ∧
    (h.own = me →
      (w.extractLsb' 0 2 ≠ 0 → m = .host ∨ h.hostAt ≠ s.clock + 1 → put 0 = gives { h with
        hostAt := if m = .host then s.clock + 1 else h.hostAt, dbgen := w.getLsbD 6, viol := h.viol && !w.getLsbD 7,
        next := if w.extractLsb' 8 2 = 3 then h.next else w.extractLsb' 8 2 }) ∧
      put 0x008 = gives { h with lqbase := w &&& ~~~(0xFFF : Word) } ∧
      put 0x028 = gives { h with eqbase := w &&& ~~~(0xFFF : Word) } ∧
      (∀ k, 4 ≤ k → k ≤ 16 → w.extractLsb' 0 32 = BitVec.ofNat 32 (2 ^ k) →
        put 0x010 = gives { h with lqsize := 2 ^ k } ∧ put 0x030 = gives { h with eqsize := 2 ^ k }) ∧
      ((∀ k, 4 ≤ k → k ≤ 16 → w.extractLsb' 0 32 ≠ BitVec.ofNat 32 (2 ^ k)) → put 0x010 = .next s ∧ put 0x030 = .next s) ∧
      put 0x060 = gives { h with irqv := w } ∧
      (∃ t : State, put 0x038 = .next t ∧ t.host = { h with eqhead := w.extractLsb' 0 32 } ∧ t.hostMem = s.hostMem) ∧
      (m = .host → put 0x020 = exec (.launchDoorbell (w.extractLsb' 0 32)) s) ∧ put 0x048 = exec (.mboxWrite m w) s ∧
      put 0x068 = exec (.dhaltWrite m w) s ∧
      (∀ off, off ∈ [0x018, 0x040, 0x050, 0x058] ∨ off % 8 ≠ 0 ∨ 0x068 < off → put off = .next s) ∧
      (h.dbgen = false → exec (.dhaltWrite m w) s = .next s) ∧
      (h.dbgen = true → s.undoomed → ∃ t : State, exec (.dhaltWrite m w) s = .next t ∧ t.host.dhalt = w.extractLsb' 0 4 ∧
        t.mem = s.mem ∧ t.clock = s.clock) ∧
      (16 ≤ h.mbox.length → exec (.mboxWrite m w) s = gives { h with viol := true }) ∧
      (h.mbox ≠ [] → h.mbox.length < 16 → exec (.mboxWrite m w) s = gives { h with mbox := h.mbox ++ [w] }) ∧
      (h.mbox = [] → ∃ t : State, exec (.mboxWrite m w) s = .next t ∧ t.mem = s.mem ∧
        (∀ ev, w.toNat % 64 = 0 → cmdStep (Mem.read s.hostMem w.toNat).toNat = some ev →
          t.host.mbox = [w] ∧ t.agenda = s.agenda ++ [ev] ∧ t.hostMem = s.hostMem) ∧
        (w.toNat % 64 ≠ 0 ∨ cmdStep (Mem.read s.hostMem w.toNat).toNat = none → t.host.mbox = [] ∧ t.agenda = s.agenda ∧
          (Memory.wf s.hostMem = true → Mem.num t.hostMem w.toNat 8 / 2 ^ 63 = 1 ∧
            Mem.num t.hostMem w.toNat 8 / 2 ^ 40 % 256 = 1)))) ∧
    ∀ tail, h.own = 1 → ∃ t : State, exec (.launchDoorbell tail) s = .next t ∧ t.host = { h with lqtail := tail } ∧
      t.mem = s.mem ∧ (h.lqhead ≠ tail → s.queueIdle → .launchQueueEntry ∈ t.agenda)

/-- The SMBus port (R385, Table 25.4): an access by the BMC to a register of the block, at the address 0x58 + ADDR, with a right
PEC byte, the right command and the right byte count; a write with a wrong PEC is ignored and its last byte not acknowledged;
every register reads as Table 25.1 gives it, and another offset as 0, with the PEC behind the bytes. What the PEC is and covers
is presumed (notes/assumptions/111.md). -/
def SmbusPort : Prop :=
  ∀ (s : State) (b : SmbusBytes) (o1 o2 : Byte) (d : List Byte),
    let off := o1.toNat + 256 * o2.toNat
    let known : Prop := off % 8 = 0 ∧ off ≤ 0x068
    let h := s.host
    let forUs : Prop := b.addr = smbusAddr
    let right : Prop := forUs ∧ b.pec = smbusPec (smbusSent b)
    let acks (a : Bool) : State := { s with smbusAck := a }
    smbusAddr.toNat = 0x58 + Config.addrStrap.toNat ∧ smbusPec (d ++ [smbusPec d]) = 0 ∧
    (¬right → exec (.smbusRegisterWrite b) s = .next (acks false)) ∧
    (right → b.cmd ≠ 0x40 ∨ b.bytes.length ≠ 10 → exec (.smbusRegisterWrite b) s = .next (acks true)) ∧
    (¬forUs → exec (.smbusRegisterRead b) s = .next (acks false)) ∧
    (forUs → b.cmd ≠ 0x41 ∨ b.bytes.length ≠ 2 → exec (.smbusRegisterRead b) s = .next (acks true)) ∧
    (right → b.cmd = 0x40 → b.bytes = o1 :: o2 :: d → d.length = 8 →
      (known → ∀ w, leBytes 8 w = d → exec (.smbusRegisterWrite b) s = exec (.hostRegisterWrite .bmc off w) (acks true)) ∧
      (¬known → exec (.smbusRegisterWrite b) s = .next (acks true))) ∧
    (forUs → b.cmd = 0x41 → b.bytes = [o1, o2] →
      let reads (w : Word) : Prop := exec (.smbusRegisterRead b) s = .next { acks true with
        hostReply := some (leBytes 8 w ++ [smbusPec (smbusSent b ++ addrByte b.addr true :: 8 :: leBytes 8 w)]) }
      (¬known → reads 0) ∧
      (off = 0 → reads (h.next.setWidth 64 <<< 8 ||| (if h.viol then 0x80 else 0) ||| (if h.dbgen then 0x40 else 0) |||
        h.own.setWidth 64)) ∧
      ∀ e ∈ [(0x008, h.lqbase), (0x010, BitVec.ofNat 64 h.lqsize), (0x018, h.lqhead.setWidth 64), (0x020, h.lqtail.setWidth 64),
          (0x028, h.eqbase), (0x030, BitVec.ofNat 64 h.eqsize), (0x038, h.eqhead.setWidth 64), (0x040, h.eqtail.setWidth 64),
          (0x048, 0), (0x050, BitVec.ofNat 64 h.mbox.length),
          (0x058, (h.bootst[3] ++ h.bootst[2] ++ h.bootst[1] ++ h.bootst[0] : BitVec 32).setWidth 64), (0x060, h.irqv),
          (0x068, h.dhalt.setWidth 64)], off = e.1 → reads e.2)

end Sys2Proof.Machine

/-- OWNER, the register block of the host and the SMBus port: who may write what, and what is read. -/
def Obligations.HostControl : Prop :=
  Ownership ∧ HostRegisters ∧ SmbusPort

namespace Sys2Proof.Machine

/-- The launch queue (R319, R320): the entry at LQHEAD is taken once booted and with none before it in admission; one that is
malformed ends with code 10 and DONE in its third word. -/
def LaunchQueue : Prop :=
  ∀ s : State,
    let h := s.host
    let base := h.lqbase.toNat + 32 * (h.lqhead.toNat % h.lqsize)
    let w (k : Nat) : Word := BitVec.ofNat 64 (Mem.num s.hostMem (base + 8 * k) 8)
    let asid := (w 1).extractLsb' 0 16
    let ready : Prop := h.lqhead ≠ h.lqtail ∧ h.lqsize ≠ 0 ∧ (∀ d : Fin 4, h.bootst[d] = 1) ∧ s.queueIdle
    let good : Prop := (w 0).toNat % 256 = 0 ∧ (w 1).extractLsb' 16 16 = 0 ∧ w 3 = 0 ∧ ∃ d < 4, asidRoot s d asid ≠ none
    (h.lqhead = h.lqtail ∨ h.lqsize = 0 ∨ (∃ d : Fin 4, h.bootst[d] ≠ 1) → exec .launchQueueEntry s = .next s) ∧
    (ready → good → ∃ (t : State) (l : Launch), exec .launchQueueEntry s = .next t ∧ t.agenda = s.agenda ++ [.regionAdmission s.ids] ∧
      Tab.get? t.launches s.ids = some l ∧ l.asid = asid ∧ l.rcbva = w 0 ∧ l.cookie = (w 1).extractLsb' 32 32 ∧
      l.entry = some h.lqhead.toNat ∧ l.parent = none ∧ l.rcb = none ∧ t.host = h) ∧
    (ready → ¬good → ∃ t : State, exec .launchQueueEntry s = .next t ∧ t.host = { h with lqhead := h.lqhead + 1 } ∧
      t.launches = s.launches ∧ (Memory.wf s.hostMem = true → Mem.num t.hostMem (base + 16) 8 = 2 ^ 63 + 10 ∧
        ∀ a, a < base + 16 ∨ base + 24 ≤ a → Mem.read t.hostMem a = Mem.read s.hostMem a))

end Sys2Proof.Machine

/-- POST, SPAWN, LAUNCH, TCRD, RWAIT and HOMEQ, and the launch queue of the host. -/
def Obligations.TasksAndLaunches : Prop :=
  PostAndSpawn ∧ LaunchInstruction ∧ TaskQueries ∧ LaunchQueue

namespace Sys2Proof.Machine

/-- Accesses by the host (R378): a request is checked whole and one that fails changes nothing, but that uncorrectable data is
reported (R359); then its pieces, each within one aligned word (notes/assumptions/68.md), are strong accesses at system scope
that wait for lines an engine owns and for pinned ones; every register is read, and another offset as 0. -/
def HostAccesses : Prop :=
  (∀ (va : Word) (n : Nat), ((hostPieces (n + 1) va n).map (·.2)).sum = n ∧
    ∀ p ∈ hostPieces (n + 1) va n, 0 < p.2 ∧ p.1.toNat % 8 + p.2 ≤ 8) ∧
  (∀ (s s1 : State) (asid : BitVec 16) (va : Word) (n : Nat),
    (∀ b, hostKeys asid .r (hostPieces (n + 1) va n) s = (.error b, s1) →
      ∃ t : State, exec (.hostAccess (.load asid va n)) s = .next t ∧ t.hostReply = none ∧ t.mem = s.mem ∧
        ((∀ g, b ≠ .poison g) → t = { s with hostReply := none })) ∧
    ∀ l, hostKeys asid .r (hostPieces (n + 1) va n) s = (.ok l, s1) →
      exec (.hostAccess (.load asid va n)) s = exec (.hostAccess (.get asid l [])) s1) ∧
  (∀ (s s1 : State) (asid : BitVec 16) (va : Word) (bs : List Byte),
    (∀ b, hostKeys asid .w (hostPieces (bs.length + 1) va bs.length) s = (.error b, s1) →
      ∃ t : State, exec (.hostAccess (.store asid va bs)) s = .next t ∧ t.hostReply = none ∧ t.mem = s.mem ∧
        ((∀ g, b ≠ .poison g) → t = { s with hostReply := none })) ∧
    (∀ key, 0 < bs.length → va.toNat % 8 + bs.length ≤ 8 →
      hostKeys asid .w (hostPieces (bs.length + 1) va bs.length) s = (.ok [(va, key, bs.length)], s1) →
      exec (.hostAccess (.store asid va bs)) s = exec (.hostAccess (.put asid [(va, key, bs)])) s1)) ∧
  (∀ (s : State) (asid : BitVec 16) (va : Word) (key n : Nat) (l : List (Word × Nat × Nat)) (got : List Byte),
    (anyOwns s asid va n = true → exec (.hostAccess (.get asid ((va, key, n) :: l) got)) s =
      .next (s.due (.hostAccess (.get asid ((va, key, n) :: l) got)))) ∧
    (anyOwns s asid va n = false → poisoned s key n = false → mixed key n (viaOf s asid va) s.hist = false →
      ∃ t : State, t.mem = s.mem ∧ exec (.hostAccess (.get asid ((va, key, n) :: l) got)) s =
        .next (if l = [] then { t with hostReply := some (got ++ Mem.readN s.mem key n) }
          else t.due (.hostAccess (.get asid l (got ++ Mem.readN s.mem key n))))) ∧
    (anyOwns s asid va n = false → poisoned s key n = true → ∃ t : State, t.mem = s.mem ∧ t.hostReply = none ∧
      exec (.hostAccess (.get asid ((va, key, n) :: l) got)) s = .next t)) ∧
  (∀ (s : State) (asid : BitVec 16) (va : Word) (key : Nat) (bs : List Byte) (l : List (Word × Nat × List Byte)),
    let waits := anyOwns s asid va bs.length || pinned s key bs.length
    (waits = true → exec (.hostAccess (.put asid ((va, key, bs) :: l))) s =
      .next (s.due (.hostAccess (.put asid ((va, key, bs) :: l))))) ∧
    (waits = false → storePoisoned s key bs.length = false →
      exec (.hostAccess (.put asid ((va, key, bs) :: l))) s =
        .next (let t := s.store key bs .host 0 (some ⟨3, none⟩) (viaOf s asid va)
          if l = [] then { t with hostReply := some [] } else t.due (.hostAccess (.put asid l)))) ∧
    (waits = false → storePoisoned s key bs.length = true → ∃ t : State, t.mem = s.mem ∧ t.hostReply = none ∧
      exec (.hostAccess (.put asid ((va, key, bs) :: l))) s = .next t)) ∧
  ∀ (s : State) (off : Nat), exec (.hostAccess (.reg off)) s =
    .next { s with hostReply := some (toBytes 8 (if off % 8 = 0 ∧ off ≤ 0x068 then (readReg s off).toNat else 0)) }

/-- Events (R365, R378, Table 23.4): one that finds room is written at EQTAIL; with none its die holds it, in arrival order; held
ones go to the ring as it empties, as many as find room, the oldest of all dies first. -/
def EventRing : Prop :=
  (∀ (s : State) (e : Event),
    let room : Prop := s.host.eqtail - s.host.eqhead ≠ BitVec.ofNat 32 s.host.eqsize
    s.host.eqsize < 2 ^ 32 →
    ((s.die e.die).held = [] → room → (s.event e).host = { s.host with eqtail := s.host.eqtail + 1 } ∧
      (s.event e).dies = s.dies ∧ (Memory.wf s.hostMem = true →
        Mem.readN (s.event e).hostMem (s.host.eqbase.toNat + 32 * (s.host.eqtail.toNat % s.host.eqsize)) 32 = e.bytes)) ∧
    ((s.die e.die).held ≠ [] ∨ ¬room → (s.die e.die).held.length < 256 → (s.event e).host = s.host ∧
      (∃ k, ((s.event e).die e.die).held = (s.die e.die).held ++ [{ e with seq := k }] ∧
        ∀ d : Fin 4, ∀ x ∈ (s.die d).held, x.seq < k) ∧ .eventQueueDrain ∈ (s.event e).agenda) ∧
    e.bytes.length = 32) ∧
  (∀ s : State, eqFull s.host = true → ∃ t : State, exec .eventQueueDrain s = .next t ∧ t.host = s.host ∧ t.mem = s.mem ∧
    t.hostMem = s.hostMem ∧ ∀ d : Fin 4, (t.die d).held = (s.die d).held) ∧
  (∀ (s : State) (k n : Nat) (all : List Event),
    let h := s.host
    let helds (t : State) : List Event := (List.finRange 4).flatMap (fun d => (t.die d.val).held)
    h.eqsize = 2 ^ k → k ≤ 16 → (h.eqtail - h.eqhead).toNat + n = h.eqsize →
    all.Perm (helds s) → all.Pairwise (fun x y => x.seq < y.seq) →
    (∀ d : Fin 4, (s.die d).held.Pairwise (fun x y => x.seq < y.seq)) →
    ∃ t : State, exec .eventQueueDrain s = .next t ∧ t.mem = s.mem ∧ (helds t).Perm (all.drop n) ∧
      t.host = { h with eqtail := h.eqtail + BitVec.ofNat 32 (min n all.length) } ∧
      (∀ d : Fin 4, (t.die d).held <:+ (s.die d).held) ∧
      (Memory.wf s.hostMem = true → ∀ (i : Nat) (e : Event), i < n → all[i]? = some e →
        Mem.readN t.hostMem (h.eqbase.toNat + 32 * ((h.eqtail + BitVec.ofNat 32 i).toNat % h.eqsize)) 32 = e.bytes)) ∧
  ∀ (s : State) (d : Fin 4) (e : Event), (s.die d).held = [e] → (∀ k : Fin 4, k ≠ d → (s.die k).held = []) →
    eqFull s.host = false → ∃ t : State, exec .eventQueueDrain s = .next t ∧ (∀ k : Fin 4, (t.die k).held = []) ∧
      t.host = { s.host with eqtail := s.host.eqtail + 1 } ∧ t.mem = s.mem ∧ (Memory.wf s.hostMem = true →
        Mem.readN t.hostMem (s.host.eqbase.toNat + 32 * (s.host.eqtail.toNat % s.host.eqsize)) 32 = e.bytes)

end Sys2Proof.Machine

/-- A request of the host that fails its checks changes nothing, and its pieces are strong; events go to the ring in
order. -/
def Obligations.HostAccessesAndEvents : Prop :=
  HostAccesses ∧ EventRing

namespace Sys2Proof.Machine

/-! The seal engine. -/

/-- The words of the command at a host address (Table 24.2). -/
def State.cmdW (s : State) (a : Word) (k : Nat) : Word := BitVec.ofNat 64 (Mem.num s.hostMem (a.toNat + 8 * k) 8)

/-- The one command in the mailbox has an operation code, and keeps the rules of its reserved fields or not. -/
def State.commandAt (s : State) (a : Word) (op : Nat) (good : Bool) : Prop :=
  s.host.mbox = [a] ∧ Memory.wf s.hostMem = true ∧ (s.cmdW a 0).extractLsb' 0 8 = BitVec.ofNat 8 op ∧
  (good = true ↔ (s.cmdW a 0).extractLsb' 48 15 = 0 ∧ (s.cmdW a 0).extractLsb' 32 8 = 0 ∧ s.cmdW a 7 = 0 ∧
    ((s.cmdW a 0).extractLsb' 8 8).toNat < 32)

/-- Such a command, at a time when no engine owns a line of the memory that it names (R79, R96). -/
def State.commandIs (s : State) (a : Word) (op : Nat) (good : Bool) : Prop :=
  s.commandAt a op good ∧ asidOwned s ((s.cmdW a 0).extractLsb' 16 16) = false

/-- The command ends (R370): the mailbox is empty, and its block holds RESULT and DONE beside what it held. -/
def EndsCommand (i : Instr) (s : State) (a : Word) (result : Nat) (p : State → Prop) : Prop :=
  ∃ t : State, exec i s = .next t ∧ t.host.mbox = [] ∧ t.cmdW a 0 =
    (s.cmdW a 0 &&& 0x7FFF00FFFFFFFFFF) ||| 0x8000000000000000 ||| (BitVec.ofNat 64 result <<< 40) ∧ p t

/-- MEASURE, OPEN, CLOSE and IDENT (R371, R372, Table 24.3): a command that breaks the form ends with result 1; otherwise the
measurement is written and kept, a free slot takes the lineage at counter 0, a slot is freed, or the certificates are
written. A command waits while an engine owns a line of its ASID (R79, R96). A measurement is dropped with its ASID's last table
(notes/assumptions/67.md), and what a signature, a hash or a key is, is presumed (notes/assumptions/12.md). -/
def SealCommands : Prop :=
  ∀ (s : State) (a : Word),
    let s0 := dropMeas s
    let asid := (s.cmdW a 0).extractLsb' 16 16
    let slot := ((s.cmdW a 0).extractLsb' 8 8).toNat
    (∀ i ∈ [Instr.measure, .openLineage, .sealAndContinue, .sealAndStop, .restore, .closeLineage, .ident],
      s.host.mbox = [] → exec i s = .next s) ∧
    (∀ e ∈ [(Instr.measure, 1), (.openLineage, 2), (.sealAndContinue, 3), (.sealAndStop, 4), (.restore, 5), (.closeLineage, 6),
        (.ident, 7)], s.commandAt a e.2 false →
      EndsCommand e.1 s a 1 (fun t => t.lineage = s0.lineage ∧ t.mem = s.mem ∧ t.regions = s.regions)) ∧
    (∀ e ∈ [(Instr.measure, 1, Ev.measure), (.openLineage, 2, .openLineage), (.sealAndContinue, 3, .sealAndContinue),
        (.sealAndStop, 4, .sealAndStop), (.restore, 5, .restore), (.closeLineage, 6, .closeLineage), (.ident, 7, .ident)],
      s.commandAt a e.2.1 true → asidOwned s asid = true → exec e.1 s = .next (s0.due e.2.2)) ∧
    (∀ e ∈ s0.lineage.meas, e ∈ s.lineage.meas ∧ hasTables s e.1 = true) ∧
    (s.commandIs a 1 true →
      (measInput s0 asid (s.cmdW a 1) (s.cmdW a 2) = none → EndsCommand .measure s a 1 (fun t => t.lineage = s0.lineage)) ∧
      ∀ l, measInput s0 asid (s.cmdW a 1) (s.cmdW a 2) = some l →
        let m := shake256 l
        (putBytes s0 false asid (s.cmdW a 3) (toBytes 64 m.toNat) = none →
          EndsCommand .measure s a 1 (fun t => t.lineage = s0.lineage)) ∧
        ∀ s1, putBytes s0 false asid (s.cmdW a 3) (toBytes 64 m.toNat) = some s1 →
          EndsCommand .measure s a 0 (fun t => measOf t asid = some m ∧ t.mem = s1.mem)) ∧
    (s.commandIs a 2 true → ∀ w0 w1, devWords s0 asid 2 (s.cmdW a 1) = .ok [w0, w1] →
      (∀ m, lslot s0 slot = none → measOf s0 asid = some m →
        EndsCommand .openLineage s a 0 (fun t => lslot t slot = some ⟨w1 ++ w0, asid, m, 0⟩ ∧
          ∀ k, k ≠ slot → lslot t k = lslot s k)) ∧
      (lslot s0 slot ≠ none ∨ measOf s0 asid = none → EndsCommand .openLineage s a 2 (fun t => t.lineage = s0.lineage))) ∧
    (s.commandIs a 2 true → ∀ e, devWords s0 asid 2 (s.cmdW a 1) = .error e →
      EndsCommand .openLineage s a 1 (fun t => t.lineage = s0.lineage)) ∧
    (s.commandIs a 6 true →
      (∀ l, lslot s slot = some l → l.asid = asid → EndsCommand .closeLineage s a 0 (fun t => lslot t slot = none ∧
        t.lineage.records = s.lineage.records ∧ ∀ k, k ≠ slot → lslot t k = lslot s k)) ∧
      ((∀ l, lslot s slot = some l → l.asid ≠ asid) → EndsCommand .closeLineage s a 2 (fun t => t.lineage = s0.lineage))) ∧
    (s.commandIs a 7 true →
      let l := identCert Config.serial ++ kemCert
      (putBytes s0 false asid (s.cmdW a 1) l = none → EndsCommand .ident s a 1 (fun t => t.lineage = s0.lineage)) ∧
      ∀ s1, putBytes s0 false asid (s.cmdW a 1) l = some s1 → EndsCommand .ident s a 0 (fun t => t.mem = s1.mem ∧
        t.cmdW a 5 = BitVec.ofNat 64 l.length ∧ t.cmdW a 6 = BitVec.ofNat 64 (2 ^ 20 - s.lineage.leaf)))

/-- MEASURE, OPEN, CLOSE and IDENT always complete (R370 to R372), and so do the steps of counter advances (R374): a
command at the head of the mailbox leaves it unless an engine owns a line of its memory, and no context, region or signature,
and but for a counter advance that arrives no counter record, changes. -/
def CommandsComplete : Prop :=
  ∀ s : State,
    let still (t : State) : Prop := t.slots = s.slots ∧ t.saved = s.saved ∧ t.regions = s.regions ∧ t.tasks = s.tasks ∧
      t.clock = s.clock ∧ t.lineage.leaf = s.lineage.leaf
    (∀ e ∈ [(Instr.measure, 1), (.openLineage, 2), (.closeLineage, 6), (.ident, 7)], ∃ t : State, exec e.1 s = .next t ∧ still t ∧
      t.lineage.job = s.lineage.job ∧ t.lineage.records = s.lineage.records ∧ t.lineage.pending = s.lineage.pending ∧
      ∀ a l, s.host.mbox = a :: l → (s.cmdW a 0).extractLsb' 0 8 = BitVec.ofNat 8 e.2 →
        asidOwned s ((s.cmdW a 0).extractLsb' 16 16) = false → t.host.mbox <:+ l) ∧
    (∀ a, ∃ t : State, exec (.counterAdvanceArrival a) s = .next t ∧ still t ∧ t.mem = s.mem ∧ t.host = s.host ∧
      t.lineage.job = s.lineage.job ∧
      t.lineage.lslots = s.lineage.lslots ∧ t.lineage.pending = s.lineage.pending ∧ t.lineage.records.length ≤ max 1024
        s.lineage.records.length ∧ ∀ id r, s.lineage.record id = some r → ∃ q, t.lineage.record id = some q ∧ r.counter ≤ q.counter) ∧
    (∀ peer id c full, ∃ t : State, exec (.counterAdvanceAck peer id c full) s = .next t ∧ still t ∧ t.mem = s.mem ∧
      t.host = s.host ∧ t.lineage.lslots = s.lineage.lslots ∧ t.lineage.records = s.lineage.records ∧
      (full = false → t.lineage.job = s.lineage.job) ∧ ∀ e ∈ t.lineage.pending, e ∈ s.lineage.pending) ∧
    ∀ peer id, ∃ t : State, exec (.counterAdvanceResend peer id) s = .next t ∧ still t ∧ t.mem = s.mem ∧ t.host = s.host ∧
      t.lineage.job = s.lineage.job ∧ t.lineage.lslots = s.lineage.lslots ∧ t.lineage.pending = s.lineage.pending

/-- The checks of a SEAL (R373 step 1, Table 24.3), in their order, with the ranges readable and the buffer writable among the
first; each changes nothing, and one that passes begins to still the tree. -/
def SealChecks : Prop :=
  ∀ (s : State) (a : Word),
    let s0 := dropMeas s
    let asid := (s.cmdW a 0).extractLsb' 16 16
    let slot := ((s.cmdW a 0).extractLsb' 8 8).toNat
    ∀ e ∈ [(Instr.sealAndContinue, 3, Ev.sealAndContinue), (.sealAndStop, 4, .sealAndStop)], s.commandIs a e.2.1 true →
      s.lineage.job = none →
      let fails (n : Nat) : Prop := EndsCommand e.1 s a n (fun t => t.lineage = s0.lineage ∧ t.regions = s.regions ∧
        t.mem = s.mem)
      (countedList s0 asid (s.cmdW a 2) 0 64 2 = none ∨ peerCerts s0 asid (s.cmdW a 3) = none → fails 1) ∧
      ∀ l cs, countedList s0 asid (s.cmdW a 2) 0 64 2 = some l → peerCerts s0 asid (s.cmdW a 3) = some cs →
        let reach : Prop := (∀ p ∈ pairsOf l, bytesAt s0 true asid p.1 p.2 ≠ none) ∧
          canWrite s0 asid (s.cmdW a 4) (s.cmdW a 5).toNat = true
        (¬reach → fails 1) ∧ (reach → (lslot s slot = none → fails 2) ∧
        ∀ ln, lslot s slot = some ln →
          (ln.asid ≠ asid ∨ measOf s0 asid ≠ some ln.meas → fails 2) ∧
          (ln.asid = asid → measOf s0 asid = some ln.meas →
            (ln.counter = BitVec.allOnes 40 → fails 3) ∧
            (ln.counter ≠ BitVec.allOnes 40 → 2 ^ 20 < s.lineage.leaf + 2 → fails 4) ∧
            (ln.counter ≠ BitVec.allOnes 40 → s.lineage.leaf + 2 ≤ 2 ^ 20 →
              (cs.all kemCertOk = false → fails 5) ∧
              (cs.all kemCertOk = true → 64 < s.lineage.pending.length + cs.length → fails 7) ∧
              (cs.all kemCertOk = true → s.lineage.pending.length + cs.length ≤ 64 →
                (rootAt s0 asid (s.cmdW a 1) = none → fails 8) ∧
                ∀ r, rootAt s0 asid (s.cmdW a 1) = some r → s.sweeps = [] → ∃ t : State, exec e.1 s = .next t ∧
                  t.lineage = { s0.lineage with job := some ⟨r.id, cs, .stilling, [], 0, []⟩ } ∧ t.agenda = s.agenda ++ [e.2.2] ∧
                  t.mem = s.mem ∧ ∀ k q, t.region? k = some q → inTree s r.id k = true → q.still = true))))

/-- A SEAL that goes on (R373 steps 2 to 7, Table 24.3), one step of the device each: the tree is stilled; its image is
written, signed with the next leaf index, and committed as the counter rises by one; the advance is signed with another
leaf and is pending for each peer; with every peer's acknowledgement, or once it ends without, the tree goes on. A SEAL
that fails before the commit leaves the counter as it was. A package that is a peer of its own sets its record with the commit
(Table 24.7). How long the command waits is free (notes/assumptions/28.md), the hash of a wrap is over a payload tag of 0
(notes/assumptions/30.md), and the cryptography is presumed (notes/assumptions/12.md). -/
def Sealing : Prop :=
  ∀ (s : State) (a : Word) (j : SealJob),
    let s0 := dropMeas s
    let asid := (s.cmdW a 0).extractLsb' 16 16
    let slot := ((s.cmdW a 0).extractLsb' 8 8).toNat
    let ends : Seal := { s0.lineage with job := none }
    s.lineage.job = some j →
    ∀ e ∈ [(Instr.sealAndContinue, 3, Ev.sealAndContinue), (.sealAndStop, 4, .sealAndStop)], s.commandIs a e.2.1 true →
      let goes (t : State) (k : SealJob) : Prop := exec e.1 s = .next t ∧ t.lineage.job = some k ∧ e.2.2 ∈ t.agenda ∧
        t.lineage.records = s.lineage.records ∧ t.regions = s.regions
      (j.phase = .stilling →
        ((∀ r, s.region? j.root = some r → r.live = false) → EndsCommand e.1 s a 8 (fun t => t.lineage = ends ∧ t.mem = s.mem)) ∧
        (∀ r, s.region? j.root = some r → r.live = true →
          (treeStill s0 j.root = false → ∀ s1, saveTree s0 (treeSlots s0 j.root) = some s1 → exec e.1 s = .next (s1.due e.2.2)) ∧
          (treeStill s0 j.root = false → saveTree s0 (treeSlots s0 j.root) = none →
            EndsCommand e.1 s a 9 (fun t => t.lineage = ends ∧ t.mem = s.mem)) ∧
          (treeStill s0 j.root = true → ∀ l ln pay, countedList s0 asid (s.cmdW a 2) 0 64 2 = some l → lslot s slot = some ln →
            payloadOf s0 j.root asid (pairsOf l) = some pay →
            let n := j.certs.length
            let total := 0x100 + 0x680 * n + (pay.length + 15) / 16 * 16 + 2820
            let body := sealBody ⟨n, total, ln.id, ln.counter + 1, asid, Config.serial, ln.meas, pay.length,
              BitVec.ofNat 96 (Config.freshKey (s.tick + 1)).toNat, 0⟩ j.certs pay s.tick
            ((s.cmdW a 5).toNat < total → EndsCommand e.1 s a 6 (fun t => t.lineage = ends ∧
              t.cmdW a 5 = BitVec.ofNat 64 total ∧ t.mem = s.mem)) ∧
            (total ≤ (s.cmdW a 5).toNat → putBytes s0 false asid (s.cmdW a 4) body = none →
              EndsCommand e.1 s a 1 (fun t => t.lineage = ends)) ∧
            (total ≤ (s.cmdW a 5).toNat → ∀ s1, putBytes s0 false asid (s.cmdW a 4) body = some s1 →
              ∃ t : State, goes t { j with phase := .written, body, total } ∧ t.mem = s1.mem ∧
                t.lineage.lslots = s.lineage.lslots ∧ t.lineage.leaf = s.lineage.leaf)))) ∧
      (j.phase = .written →
        let sig := (identPair Config.serial).sign s.lineage.leaf j.body
        ∀ s1, putBytes { s0 with lineage := { s0.lineage with leaf := s.lineage.leaf + 1 } } false asid
            (s.cmdW a 4 + BitVec.ofNat 64 j.body.length) sig = some s1 →
          ∃ t : State, goes t { j with phase := .signed, body := [] } ∧ t.mem = s1.mem ∧
            t.lineage.lslots = s.lineage.lslots ∧ t.lineage.leaf = s.lineage.leaf + 1) ∧
      (j.phase = .signed → ∀ ln, lslot s slot = some ln → slot < 32 →
        let commits (t : State) : Prop := lslot t slot = some { ln with counter := ln.counter + 1 } ∧ t.mem = s.mem ∧
          t.lineage.leaf = s.lineage.leaf
        let own (t : State) (full : List (BitVec 128)) : Prop := commits t ∧ exec e.1 s = .next t ∧ e.2.2 ∈ t.agenda ∧
          t.lineage.job = some { j with phase := .committed, full } ∧ t.regions = s.regions
        (Config.serial ∉ j.peers → ∃ t : State, goes t { j with phase := .committed } ∧ commits t) ∧
        (Config.serial ∈ j.peers →
          (∀ r, s.lineage.record ln.id = some r → ∃ (t : State) (q : LineRec), own t [] ∧ t.lineage.record ln.id = some q ∧
            q.counter.toNat = max r.counter.toNat (ln.counter + 1).toNat ∧ q.taken = r.taken) ∧
          (s.lineage.record ln.id = none → s.lineage.records.length < 1024 → ∃ t : State, own t [] ∧
            t.lineage.record ln.id = some ⟨ln.id, ln.counter + 1, none⟩) ∧
          (s.lineage.record ln.id = none → 1024 ≤ s.lineage.records.length → ∃ t : State, own t [Config.serial] ∧
            t.lineage.records = s.lineage.records))) ∧
      (j.phase = .committed → ∀ ln, lslot s slot = some ln →
        let told := j.peers.filter (fun p => p != Config.serial || j.full.contains p)
        ∃ (t : State) (adv : Advance),
        goes t { j with phase := .sent } ∧ adv.lineage = ln.id ∧ adv.counter = ln.counter ∧ adv.meas = ln.meas ∧
        adv.serial = Config.serial ∧ adv.cert = identCert Config.serial ∧
        adv.sig = (identPair Config.serial).sign s.lineage.leaf (toBytes 16 ln.id.toNat ++ toBytes 8 ln.counter.toNat ++
          toBytes 64 ln.meas.toNat ++ adv.cert) ∧
        t.lineage.leaf = s.lineage.leaf + 1 ∧ t.lineage.pending = s.lineage.pending ++ told.map (fun p => (p, adv)) ∧
        t.mem = s.mem ∧ ∀ p ∈ told, .counterAdvanceResend p ln.id ∈ t.agenda) ∧
      (j.phase = .sent → ∀ ln, lslot s slot = some ln →
        let has (p : BitVec 128) : Prop := p ∈ j.full ∨
          ∀ q ∈ s.lineage.pending, ¬(q.1 = p ∧ q.2.lineage = ln.id ∧ q.2.counter = ln.counter)
        let acked : Prop := ∀ p ∈ j.peers, has p
        (acked → e.2.1 = 3 → EndsCommand e.1 s a 0 (fun t => t.lineage = ends ∧ t.cmdW a 5 = BitVec.ofNat 64 j.total ∧
          t.cmdW a 6 = BitVec.ofNat 64 (2 ^ j.peers.length - 1) ∧ t.mem = s.mem)) ∧
        (acked → e.2.1 = 4 → ∃ t : State, exec e.1 s = .next t ∧ t.lineage.job = none) ∧
        (¬acked → ∃ t : State, exec e.1 s = .next t ∧ ((t.lineage.job = none ∧ (e.2.1 = 3 →
            ∀ k p, k < 64 → j.peers[k]? = some p → ((t.cmdW a 6).getLsbD k = true ↔ has p))) ∨
          (e.2.2 ∈ t.agenda ∧ t.lineage = s0.lineage ∧ t.mem = s.mem ∧ t.regions = s.regions))))

/-- The bytes of an image that its signature covers, and the form that MAGIC, VER, NWRAP and TOTAL give it. -/
def imageLen (img : List Byte) : Nat := 0x100 + 0x680 * numAt img 1 1 + (numAt img 0x80 8 + 15) / 16 * 16

def ImageForm (img : List Byte) : Prop :=
  numAt img 4 4 = 0x5345414C ∧ numAt img 2 2 = 1 ∧ 1 ≤ numAt img 1 1 ∧ numAt img 1 1 ≤ 8 ∧
  numAt img 8 8 = imageLen img + 2820 ∧ imageLen img + 2820 ≤ img.length

/-- SIG and the certificate chain of SOURCE hold. -/
def ImageSigned (img : List Byte) : Prop :=
  serialOk (BitVec.ofNat 128 (numAt img 0x30 16)) = true ∧ xmssVerify (identKey (BitVec.ofNat 128 (numAt img 0x30 16)))
    (img.take (imageLen img)) ((img.drop (imageLen img)).take 2820) = true

/-- The first wrap for this package. -/
def wrapOf (img : List Byte) : Option Nat :=
  (List.range (numAt img 1 1)).find? (fun k => BitVec.ofNat 128 (numAt img (0x100 + 0x680 * k) 16) == Config.serial)

/-- An image that passes the checks 20 to 24 of Table 24.6, with its record and its wrap. -/
def ImageOk (s : State) (asid : BitVec 16) (img : List Byte) (r : LineRec) (k : Nat) : Prop :=
  ImageForm img ∧ ImageSigned img ∧ wrapOf img = some k ∧ measOf s asid = some (BitVec.ofNat 512 (numAt img 0x40 64)) ∧
  s.lineage.record (BitVec.ofNat 128 (numAt img 0x10 16)) = some r

/-- RESTORE (R376, Table 24.6): the ten checks in their order, each of which changes nothing; an image of the recorded counter
that has not been taken is taken once, and a free slot goes on from its counter. The cryptography is presumed
(notes/assumptions/12.md), and the payload tag counts as 0 in what it covers (notes/assumptions/30.md). -/
def Restoring : Prop :=
  (∀ (s : State) (asid : BitVec 16) (img : List Byte),
    let refused (n : Nat) : Prop := restoreCheck s asid img = .inl n
    (¬ImageForm img → refused 20) ∧ (ImageForm img → ¬ImageSigned img → refused 21) ∧
    (ImageForm img → ImageSigned img → (wrapOf img = none → refused 22) ∧
      ∀ k, wrapOf img = some k →
        (measOf s asid ≠ some (BitVec.ofNat 512 (numAt img 0x40 64)) → refused 23) ∧
        (measOf s asid = some (BitVec.ofNat 512 (numAt img 0x40 64)) →
          s.lineage.record (BitVec.ofNat 128 (numAt img 0x10 16)) = none → refused 24)) ∧
    ∀ r k, ImageOk s asid img r k →
      let c := numAt img 0x20 5
      (c < r.counter.toNat → refused 25) ∧
      (r.counter.toNat < c → refused 26) ∧
      (c = r.counter.toNat → r.taken = some r.counter → refused 27) ∧
      (c = r.counter.toNat → r.taken ≠ some r.counter → openImage img k = none → refused 28) ∧
      (c = r.counter.toNat → r.taken ≠ some r.counter → ∀ pay, openImage img k = some pay →
        let recs := parseRecs (pay.length + 1) pay
        let fits : Prop := (∃ e ∈ s.lineage.lslots.toList, e = none) ∧ roomFor s asid recs = true ∧ framesFit s recs = true ∧
          ∀ p ∈ recs, rangeMapped s asid p = true
        (¬fits → refused 29) ∧ (fits → restoreCheck s asid img = .inr recs))) ∧
  ∀ (s : State) (a : Word), s.commandIs a 5 true →
    let s0 := dropMeas s
    let asid := (s.cmdW a 0).extractLsb' 16 16
    (bytesAt s0 false asid (s.cmdW a 1) (s.cmdW a 2).toNat = none → EndsCommand .restore s a 1 (fun t => t.lineage = s0.lineage)) ∧
    ∀ img, bytesAt s0 false asid (s.cmdW a 1) (s.cmdW a 2).toNat = some img →
      (∀ n, restoreCheck s0 asid img = .inl n → EndsCommand .restore s a n (fun t => t.lineage = s0.lineage ∧ t.mem = s.mem ∧
        t.regions = s.regions ∧ t.saved = s.saved ∧ t.tasks = s.tasks)) ∧
      ∀ recs, restoreCheck s0 asid img = .inr recs → ∃ t : State, exec .restore s = .next t ∧
        (∀ r ∈ t.lineage.records, r.id = BitVec.ofNat 128 (numAt img 0x10 16) →
          r.taken = some (BitVec.ofNat 40 (numAt img 0x20 5))) ∧
        t.lineage.pending = s.lineage.pending ∧ t.lineage.leaf = s.lineage.leaf ∧
        ∃ k < 32, lslot s k = none ∧ lslot t k = some ⟨BitVec.ofNat 128 (numAt img 0x10 16), asid,
          BitVec.ofNat 512 (numAt img 0x40 64), BitVec.ofNat 40 (numAt img 0x20 5)⟩

end Sys2Proof.Machine

/-- SEAL and RESTORE: checks in their order that change nothing, and one image taken once at its counter. -/
def Obligations.SealAndRestore : Prop :=
  SealChecks ∧ Sealing ∧ Restoring

namespace Sys2Proof.Machine

/-- Counter advances (R374): a verified one raises the record or makes it, where the table has room; an acknowledgement of
at least its counter removes a pending one, and one that says *full* is kept for the SEAL in progress; a pending one is sent
again to a peer that is present, and tried again every 100 µs while it is not (notes/assumptions/73.md). The NODE of a peer is a
free map (notes/assumptions/29.md). -/
def CounterAdvances : Prop :=
  (∀ (s : State) (a : Advance),
    let ok := identOk a.cert && xmssVerify ((a.cert.drop 0x30).take 68) (toBytes 16 a.lineage.toNat ++
      toBytes 8 a.counter.toNat ++ toBytes 64 a.meas.toNat ++ a.cert) a.sig
    let rec' := s.lineage.record a.lineage
    (ok = false → exec (.counterAdvanceArrival a) s = .next s) ∧
    (ok = true → rec' = none → 1024 ≤ s.lineage.records.length → exec (.counterAdvanceArrival a) s = .next s) ∧
    (ok = true → rec' = none → s.lineage.records.length < 1024 → exec (.counterAdvanceArrival a) s =
      .next { s with lineage := { s.lineage with records := s.lineage.records ++ [⟨a.lineage, a.counter, none⟩] } }) ∧
    (ok = true → ∀ r, rec' = some r → ∃ (t : State) (r' : LineRec), exec (.counterAdvanceArrival a) s = .next t ∧
      t.lineage.record a.lineage = some r' ∧ r'.counter.toNat = max r.counter.toNat a.counter.toNat ∧ r'.taken = r.taken ∧
      ∀ id, id ≠ a.lineage → t.lineage.record id = s.lineage.record id)) ∧
  (∀ (s : State) (peer id : BitVec 128) (c : BitVec 40), exec (.counterAdvanceAck peer id c true) s =
      .next { s with lineage := { s.lineage with job := s.lineage.job.map (fun j => { j with full := peer :: j.full }) } } ∧
    ∃ t : State, exec (.counterAdvanceAck peer id c false) s = .next t ∧ ∀ e, e ∈ t.lineage.pending ↔
      e ∈ s.lineage.pending ∧ ¬(e.1 = peer ∧ e.2.lineage = id ∧ e.2.counter ≤ c)) ∧
  ∀ (s : State) (peer id : BitVec 128),
    let l := s.lineage.pending.filter (fun e => e.1 == peer && e.2.lineage == id)
    (l = [] → exec (.counterAdvanceResend peer id) s = .next s) ∧
    (∀ a n full s1, l = [(peer, a)] → peer = Config.serial → takeAdvance s a = (some (n, full), s1) →
      exec (.counterAdvanceResend peer id) s = .next (s1.due (.counterAdvanceAck peer a.lineage n full))) ∧
    (∀ a, l = [(peer, a)] → peer ≠ Config.serial → Config.peerNode peer = none →
      exec (.counterAdvanceResend peer id) s = .next s) ∧
    ∀ a n, l = [(peer, a)] → peer ≠ Config.serial → Config.peerNode peer = some n →
      (absentCode s n ≠ none → ∃ t : State, exec (.counterAdvanceResend peer id) s = .next t ∧ t.fabric = s.fabric ∧
        t.waits s.clock 250000 (.counterAdvanceResend peer a.lineage)) ∧
      (absentCode s n = none → ∃ t : State, exec (.counterAdvanceResend peer id) s = .next t ∧
        ∃ q ∈ t.fabric.sent ++ t.fabric.waiting, q.dest = n ∧ q.req.body = .advance a)

end Sys2Proof.Machine

/-- MEASURE, OPEN, CLOSE and IDENT, and the counter advances of peers. -/
def Obligations.SealCommandsAndCounters : Prop :=
  SealCommands ∧ CommandsComplete ∧ CounterAdvances

namespace Sys2Proof.Machine

/-! Reset, power and errors. -/

/-- What a reset leaves (R346, R368, R377, R380): what non-volatile memory holds is kept, and all else is as after reset. -/
def ResetTo (s t : State) (p : Power) : Prop :=
  t.power = p ∧ t.host = {} ∧ t.clock = 0 ∧ t.slots = [] ∧
  t.tasks = [] ∧ t.saved = [] ∧ t.regions = [] ∧ t.groups = [] ∧ t.sweeps = [] ∧ t.launches = [] ∧ t.copies = [] ∧
  t.records = [] ∧ t.indexes = [] ∧ t.frames = [] ∧ t.barriers = [] ∧ t.mem = [] ∧ t.full = [] ∧ t.poison = [] ∧
  t.hist = [] ∧ t.agenda = [] ∧ t.bounds = [] ∧ t.timers = [(4096, .shareInterval)] ∧ t.thermtrip = false ∧ t.scanpri = 15 ∧
  t.plfloor = 0 ∧ t.dies = Vector.replicate 4 {} ∧ t.ports = Vector.replicate 8 {} ∧ t.fabric = { join := s.fabric.join } ∧
  t.lineage.lslots = s.lineage.lslots ∧ t.lineage.records = s.lineage.records ∧
  t.lineage.pending = s.lineage.pending ∧ t.lineage.leaf = s.lineage.leaf ∧ t.lineage.meas = [] ∧
  t.lineage.job = none ∧ ∀ k, (t.core k).present = (s.core k).present ∧ (t.core k).deque = []

end Sys2Proof.Machine

/-- Package reset, loss of power, FREEZE and the thermal trip (R346, R368, R377, R380 to R382): the steps of each die's
firmware in their order, an image that the fuses do not allow or memory that cannot be set up ending them; a die is ready once its
ports have been trained, but for those at which nobody answers (notes/assumptions/116.md); the fourth die that is ready joins the
package to the fabric; the stopped clocks change nothing. The model's own are: what reads as 0 and what is kept
(notes/assumptions/4.md, 83.md), when the package joins (72.md), that FREEZE and the trip act at once (69.md), and that a stopped
machine's step is a fault (92.md). -/
def Obligations.ResetAndPower : Prop :=
  (∀ s : State, (s.cores.map (fun e => e.1)).Nodup →
    (∃ t : State, exec (.packageReset .start) s = .next t ∧ ResetTo s t .on) ∧
    ∃ t : State, exec .powerLoss s = .next t ∧ ResetTo s t .off) ∧
  (∀ (s : State) (d : Fin 4),
    let at' (k : Nat) : Prop := s.host.booted[d] = k ∧ s.host.bootst[d] = 0
    let others (t : State) : Prop := ∀ e : Fin 4, e ≠ d → t.host.bootst[e] = s.host.bootst[e]
    (∀ key version image sig,
      let ok : Prop := shake256 key = Config.firmwareHash ∧ Config.firmwareMin ≤ version ∧
        xmssVerify key image sig = true
      (¬at' 0 → exec (.packageReset (.verify d key version image sig)) s = .next s) ∧
      (at' 0 → ∃ t : State, exec (.packageReset (.verify d key version image sig)) s = .next t ∧ others t ∧ t.mem = s.mem ∧
        (ok → t.host.bootst[d] = 0 ∧ t.host.booted[d] = 1) ∧ (¬ok → t.host.bootst[d] = 2))) ∧
    (∀ ok, ¬at' 1 → exec (.packageReset (.clear d ok)) s = .next s) ∧
    (at' 1 → (∃ t : State, exec (.packageReset (.clear d false)) s = .next t ∧ others t ∧ t.host.bootst[d] = 3 ∧ t.mem = s.mem) ∧
      ∃ t : State, exec (.packageReset (.clear d true)) s = .next t ∧ others t ∧ t.host.bootst[d] = 0 ∧ t.host.booted[d] = 2 ∧
        ∀ k, (2 ^ 40 ≤ k ∧ dieOfKey k = d.val → Mem.read t.mem k = 0 ∧ isFull t k = false) ∧
          (¬(2 ^ 40 ≤ k ∧ dieOfKey k = d.val) → Mem.read t.mem k = Mem.read s.mem k ∧ isFull t k = isFull s k)) ∧
    ∀ silent : List (Fin 8),
    let trained : Prop := ∀ p : Fin 8, portDie p = d.val → neighbour s p.val ≠ none → (s.port p).met = true ∨ p ∈ silent
    (¬at' 2 ∨ ¬trained → exec (.packageReset (.ready d silent)) s = .next s) ∧
    (at' 2 → trained → ∃ t : State, exec (.packageReset (.ready d silent)) s = .next t ∧ others t ∧ t.host.bootst[d] = 1 ∧ t.mem = s.mem ∧
      (t.fabric.joined = true ↔ s.fabric.joined = true ∨
        ((∀ e : Fin 4, e ≠ d → s.host.bootst[e] = 1) ∧ inExtents s s.node = true)) ∧
      (t.fabric.joined ≠ s.fabric.joined → t.fabric.join = s.fabric.join + 1))) ∧
  ∀ s : State,
    (s.power = .on → exec .freeze s = .next { s with power := .frozen } ∧
      exec .thermalTrip s = .next { s with power := .frozen, thermtrip := true }) ∧
    (s.power ≠ .on → exec .freeze s = .next s ∧ exec .thermalTrip s = .next s) ∧
    ((∀ b, .packageReset b ∉ s.agenda) → (s.power = .frozen → step s = .fault .frozen) ∧
      (s.power = .off → step s = .fault .powerOff))

namespace Sys2Proof.Machine

/-- In-field scan and the core map (R366, R368): a core whose slots have been free for a share interval is held and
scanned for 200 µs once the work of its last threads has drained; its slots are given back with its shared registers at
zero; a core that fails, or is retired, takes no context. The drain is over within 20 µs (R366 step 2). -/
def Scans : Prop :=
  (∀ (s : State) (k : Nat),
    let free : Prop := (s.core k).scan = none ∧ ∀ i < 16, (s.slot (k * 16 + i)).ctx = none ∧
      (s.slot (k * 16 + i)).scrub = false ∧ (s.slot (k * 16 + i)).reserved = none ∧ (s.slot (k * 16 + i)).freed + 4096 ≤ s.clock
    let waiting : Prop := ∃ e ∈ s.timers, ∃ b, e.2 = .scanEnd k b
    let pattern (t : State) : Prop := ∃ b, (t.clock + 500000, Ev.scanEnd k b) ∈ t.timers
    (¬free → (s.core k).scan = none ∨ waiting → exec (.scanStart k) s = .next s) ∧
    (free → ∃ t : State, exec (.scanStart k) s = .next t ∧ (t.core k).scan = some s.clock ∧ t.clock = s.clock ∧
      (t.core k).icache = [] ∧ (∀ i < 16, (t.slot (k * 16 + i)).held = true ∧
        (t.slot (k * 16 + i)).owner = (s.slot (k * 16 + i)).owner) ∧ t.mem = s.mem ∧
      (coreBusy s k = true → .scanStart k ∈ t.agenda ∧ (s.clock + 50000, .scanStart k) ∈ t.bounds) ∧ (coreBusy s k = false → pattern t)) ∧
    ((s.core k).scan ≠ none → ¬waiting →
      (coreBusy s k = true → exec (.scanStart k) s =
        .next (s.dueBy (max ((s.core k).scan.getD s.clock + 50000) (s.clock + 1)) (.scanStart k))) ∧
      (coreBusy s k = false → ∃ t : State, exec (.scanStart k) s = .next t ∧ pattern t ∧ t.mem = s.mem ∧ t.slots = s.slots))) ∧
  (∀ (s : State) (k : Nat) (b : Bool),
    ((s.core k).scan = none → exec (.scanEnd k b) s = .next s) ∧
    ((s.core k).scan ≠ none → (∀ i < 16, (s.slot (k * 16 + i)).ctx = none) → ∃ t : State, exec (.scanEnd k b) s = .next t ∧
      (t.core k).scan = none ∧ (t.core k).s = Vector.replicate 8 0 ∧ (t.core k).icache = [] ∧
      (t.core k).present = (b && (s.core k).present) ∧ t.mem = s.mem ∧
      ∀ i < 16, (t.slot (k * 16 + i)).held = false ∧ (t.slot (k * 16 + i)).owner = (s.slot (k * 16 + i)).owner ∧
        (b = false → slotFree t (k * 16 + i) = false))) ∧
  ∀ (s : State) (k : Nat),
    ((s.core k).present = false → exec (.coreRetirement k) s = .next s) ∧
    ((s.core k).present = true → (∀ i < 16, (s.slot (k * 16 + i)).ctx = none) → ∃ t : State,
      exec (.coreRetirement k) s = .next t ∧ (t.core k).present = false ∧ t.mem = s.mem ∧
      ∀ i < 16, slotFree t (k * 16 + i) = false)

/-- Errors of arrays (R358 to R360, Table 23.1): a corrected error is told of, and a cached copy with a parity error goes, a
line of instructions or a leaf (notes/assumptions/49.md); an uncorrectable granule stays so, with the die's error interrupt; a
slot's register file kills its thread; the patrol tells of what it finds. A granule that a strong read is on its way to turns bad
behind that read (notes/assumptions/113.md). -/
def ArrayErrors : Prop :=
  (∀ (s : State) (array unit die : Nat) (addr : Word), ∃ t : State, exec (.correctedError array unit die addr) s = .next t ∧
    t.mem = s.mem ∧ t.slots = s.slots ∧ t.poison = s.poison ∧ s.agenda <+: t.agenda ∧
    (array = 5 → ∀ e ∈ (t.core (coreOfPhys die unit)).icache, e ∈ (s.core (coreOfPhys die unit)).icache ∧
      e.va.toNat / 128 ≠ addr.toNat / 128) ∧
    (array = 12 → die < 4 → ∀ e ∈ (t.die die).tlb, e ∈ (s.die die).tlb ∧
      e.2.1.toNat / 2 ^ e.2.2.1 ≠ addr.toNat / 2 ^ e.2.2.1)) ∧
  (∀ (s : State) (array die key : Nat), readUnderWay s (key / 8) = true →
    exec (.uncorrectableError (.data array die key)) s = .next (s.due (.uncorrectableError (.data array die key)))) ∧
  (∀ (s : State) (array die key : Nat), readUnderWay s (key / 8) = false →
    ∃ t : State, exec (.uncorrectableError (.data array die key)) s = .next t ∧
    t.mem = s.mem ∧ t.slots = s.slots ∧ (t.die die).errIrq = true ∧ key / 8 ∈ t.poison ∧
    ∀ g, g ≠ key / 8 → (g ∈ t.poison ↔ g ∈ s.poison)) ∧
  (∀ (s : State) (u : Nat),
    let t := noteError s 10 (physCore (nameCore u)) (nameDie u) 0
    ((s.slot u).ctx = none → exec (.uncorrectableError (.regs u)) s = .next t) ∧
    (∀ c, (s.slot u).ctx = some c → exec (.uncorrectableError (.regs u)) s =
      .next (kill t c.cid { reason := 1, cause := 0x0D, epc := c.pc, lpc := c.pc })) ∧
    (t.die (nameDie u)).errIrq = true ∧ t.slots = s.slots ∧ t.mem = s.mem) ∧
  (∀ (s : State) (die : Nat), (∀ e ∈ s.regions, holdsUnit s e.2 die = false) →
    ∃ t : State, exec (.uncorrectableError (.unit die)) s = .next t ∧ (t.die die).errIrq = true ∧ t.slots = s.slots ∧
      t.regions = s.regions) ∧
  ∀ (s : State) (die addr : Nat) (flipped : Bool),
    let bad := poisoned s (ordKey die (addr % 2 ^ 37 / 128 * 128)) 128
    (bad = false → flipped = false → exec (.patrolRead die addr flipped) s = .next s) ∧
    ∃ t : State, exec (.patrolRead die addr flipped) s = .next t ∧ t.mem = s.mem ∧ t.slots = s.slots ∧ t.poison = s.poison ∧
      (bad = true → (t.die die).errIrq = true)

end Sys2Proof.Machine

/-- Scans hold and give back cores; corrected and uncorrectable errors have the outcomes of their table. -/
def Obligations.ScansAndArrayErrors : Prop :=
  Scans ∧ ArrayErrors

namespace Sys2Proof.Machine

/-! Encoding. -/

end Sys2Proof.Machine

/-- Words written out from Tables 7.1 to 7.6 decode to the instructions they stand for (R118 to R129; the first eight are those of
Table 7.4). -/
def Obligations.DecodeWords : Prop :=
  ∀ e ∈ ([([0x15FF], .addi { q := 0, a := .r 5, b := .r 0, c := none, imm := -1 }),
      ([0x65FF], .bnez { q := 0, a := .r 5, b := .r 0, c := none, imm := -1 }),
      ([0xF870, 0xF515, 0x0409], .beq { q := 0, a := .r 20, b := .r 0, c := some 21, imm := 9 }),
      ([0xF003, 0x15E8], .addi { q := 0, a := .r 5, b := .r 0, c := none, imm := 1000 }),
      ([0xF001, 0xF08D, 0xF056, 0x2378], .movi { q := 0, a := .r 3, b := .r 0, c := none, imm := 0x12345678 }),
      ([0xF568, 0x0145], .add { q := 0, a := .r 20, b := .r 21, c := some 40, imm := 0 }),
      ([0xF810, 0xF500, 0xF00C, 0x0449], .ldw { q := 0, a := .r 20, b := .r 9, c := some 0, imm := 12 }),
      ([0xFD05, 0x0170], .add { q := 0, a := .r 7, b := .f 2 5, c := none, imm := 0 }),
      ([0x3A94], .ld { q := 0, a := .r 10, b := .r 9, c := none, imm := 32 }),
      ([0xD100], .tend { q := 0, a := .r 0, b := .r 0, c := none, imm := 0 }),
      ([0xF81D, 0x0B12], .lds { q := 13, a := .r 1, b := .r 2, c := none, imm := 0 }),
      ([0xF863, 0x0012], .fadd { q := 3, a := .r 1, b := .r 2, c := none, imm := 0 }),
      ([0xFBF0, 0x0001], .eret { q := 0, a := .r 0, b := .r 1, c := none, imm := 0 }),
      ([0xFBF0, 0x0212], .kill { q := 0, a := .r 1, b := .r 2, c := none, imm := 0 }),
      ([0xE74D], .bsig 0x74D), ([0xE802], .pool 2)] : List (List Half × Instr)),
    decode e.1 = .ok e.2 e.1.length

/-- Decoding and encoding agree on every instruction that the opcode map holds: every operand, at every value that a legal prefix
chain can hold, is read back, and the whole of the words is used (R118 to R129). -/
def Obligations.EncodeDecode : Prop :=
  ∀ i : Instr, i.wf = true → encode i ≠ [] → decode (encode i) = .ok i (encode i).length

/-- Undefined halfwords and illegal chains (R123, R130), each with the halfword that it names: 0x0000 and 0xFFFF anywhere, a fifth
prefix, a second PAGE or REG, a third FRAME, an IMM run before another prefix, and a BSIG or POOL word behind a prefix. -/
def Obligations.IllegalChains : Prop :=
  ∀ (rest : List Half) (w p q : Half) (ps : List Half),
    let kind (k : Nat) (h : Half) : Prop := h.toNat / 1024 = 60 + k ∧ h ≠ 0xFFFF
    (decode (0x0000 :: rest) = .undefined 0 ∧ decode (0xFFFF :: rest) = .undefined 0) ∧
    ((∃ k < 4, kind k p) → w = 0x0000 ∨ w = 0xFFFF ∨ w.toNat / 4096 = 14 → decode (p :: w :: rest) = .undefined 1) ∧
    (ps.length = 4 → (∀ h ∈ ps, kind 0 h) → (∃ k < 4, kind k w) → decode (ps ++ w :: rest) = .undefined 4) ∧
    (∀ k, k = 1 ∨ k = 2 → kind k p → kind k w → decode (p :: w :: rest) = .undefined 1) ∧
    (kind 3 p → kind 3 q → kind 3 w → decode (p :: q :: w :: rest) = .undefined 2) ∧
    (kind 0 p → kind 1 w ∨ kind 2 w → decode (p :: w :: rest) = .undefined 1)

/-- A step runs the decoded instruction (R22, R118, R119): where the next turn is that of a thread that runs, in no gang and with
nothing else due, and the halfwords at its pc decode, the step is `exec` of that instruction, with the address of the next one
known, and then the end of a wait that has lasted too long. The halfwords are those of memory at the translated address. -/
def Obligations.StepRunsDecoded : Prop :=
  (∀ (s s1 : State) (k t n : Nat) (c : Ctx) (i : Instr) (hs : List Half) (err : Option Bad), s.power = .on → s.agenda = [] →
    sweepsDue s = [] → nextOffer s = some (k, t) → nextTake s = none → (∀ e ∈ s.timers, k < e.1) → ((atClock s k).slot t).ctx = some c →
    c.inGang = false → c.run = .running → c.yieldTo = none → c.lfaults = [] →
    fetchFrom c (nameCore t) c.pc 6 [] { atClock s k with last := some t, cur := t } = (hs, err, s1) → decode hs = .ok i n →
    (∀ g, i ≠ .bsig g) →
    step s = andThen (exec i (({ s1 with cur := t } : State).mod (fun q =>
      { q with npc := c.pc + BitVec.ofNat 64 (2 * n), feed := instrRecord i, sig := none }))) (expire t)) ∧
  (∀ (s s1 : State) (c : Ctx) (core key : Nat) (va : Word), va.toNat < 0x00F0000000000000 →
    resolve s (s.regionOf c).asid (.ord (homeDie va)) va 2 .x = (.ok key, s1) → s1.hist = [] → (s1.core core).icache = [] →
    ∃ s2 : State, fetchHalf s c core va = (.ok (BitVec.ofNat 16 (Mem.num s1.mem key 2)), s2) ∧ s2.mem = s1.mem ∧
      s2.slots = s1.slots ∧ s2.cur = s1.cur) ∧
  ∀ (s : State) (t : Nat) (c : Ctx), (s.slot t).ctx = some c → c.wait = none → expire t s = .next s

namespace Sys2Proof.Machine

/-! Reset and invariants. -/

end Sys2Proof.Machine

/-- The package right after reset (R69, R70, R330, R380, Tables 22.4, 25.1, 25.3): every clock runs, no context and no work stands
in it, explicit levels hold 0 and empty tags, and the settings, link and host registers have the values of their tables. That
ordinary memory holds 0 is the model's choice (notes/assumptions/4.md), and so is the 0 of the registers s0 to s7 and of the
port's own counters (notes/assumptions/5.md). -/
def Obligations.ResetState : Prop :=
  let s := State.reset
  s.power = .on ∧ s.clock = 0 ∧ s.thermtrip = false ∧ (∀ a, Mem.read s.mem a = 0) ∧ (∀ k, isFull s k = false) ∧
  (∀ t, (s.slot t).ctx = none ∧ (s.slot t).held = false ∧ (s.slot t).fixed = false ∧ (s.slot t).inc = 0) ∧
  (∀ k, (s.core k).deque = [] ∧ (s.core k).s = Vector.replicate 8 0) ∧ s.regions = [] ∧ s.tasks = [] ∧ s.saved = [] ∧
  s.scanpri = 15 ∧ s.plfloor = 0 ∧ s.fabric.reg = 0 ∧ (∀ d : Fin 4, (s.die d).asidtb = 0) ∧
  (∀ p, (s.port p).sgen = 0 ∧ (s.port p).down = false ∧ (s.port p).arm = false ∧ (s.port p).agen = 0 ∧ (s.port p).key = 0 ∧
    (s.port p).peer = false ∧ (s.port p).hold = false ∧ (s.port p).klow = false ∧ (s.port p).link = .down ∧
    (s.port p).txc = 0 ∧ (s.port p).keyWords = []) ∧
  (∀ off, off ≤ 0x068 → readReg s off = 0) ∧ (∀ n, Tab.getD s.fabric.seqs n 0 = 0) ∧
  (∀ cl (e : Fin 64), (s.ftab cl)[e].live = false ∧ (s.ftab cl)[e].gen = 0) ∧
  s.memOk

/-- Every step keeps the canonical form of the package's memory and of the host's: equal memories are equal data, and reading what
was stored gives it (an invariant of the model's own; log 4 says what a byte that nothing has written reads as). -/
def Obligations.StepsKeepMemory : Prop := Kept State.memOk

/-- The frame of the scalar register instructions in register form (R23, R138, R140 to R143, R155 to R157): whether it completes or
parks on an operand, no memory, no other context and no other register of its context changes, and it takes no trap. -/
def Obligations.RegisterInstructionFrame : Prop :=
  ∀ (s t : State) (c : Ctx) (o : Ops) (a b : Fin 64), s.Issues c → o.a = .r a → o.b = .r b →
    ∀ i ∈ [Instr.mov o, .add o, .sub o, .and o, .or o, .xor o, .andn o, .shl o, .shr o, .sha o, .rol o, .slt o, .sltu o, .seq o,
        .min o, .max o, .addi o, .movi o, .mul o, .mulh o, .mulhu o, .div o, .divu o, .rem o, .remu o, .minu o, .maxu o, .clz o,
        .ctz o, .popc o, .abs o, .neg o, .bfx o, .bfi o, .fadd o, .fsub o, .fmul o, .fdiv o, .fsqrt o, .fmin o, .fmax o, .fabs o,
        .fneg o, .fsgnj o, .fma o, .fms o, .fnma o, .feq o, .flt o, .fle o, .fclass o, .fcvti o, .fcvtu o, .icvtf o, .ucvtf o,
        .fcvtf o],
      exec i s = .next t → ∃ c', (t = s.setCtx c' ∨ t = (noteSig s s.cur c).setCtx c') ∧ t.mem = s.mem ∧ (∀ u, u ≠ s.cur →
      t.slot u = s.slot u) ∧
        (∀ n : Fin 64, n ≠ a → c'.x[n] = c.x[n] ∧ c'.xfe.getLsbD n = c.xfe.getLsbD n) ∧ c'.v = c.v ∧ c'.vfe = c.vfe ∧
        c'.m = c.m ∧ c'.mfe = c.mfe ∧ c'.pend = c.pend ∧ c'.d = c.d ∧ c'.j = c.j ∧ c'.o = c.o ∧ c'.vtype = c.vtype ∧
        c'.cb = c.cb ∧ c'.te = c.te ∧ c'.wlim = c.wlim ∧ c'.rstat = c.rstat ∧ c'.plumb = c.plumb ∧ c'.tstat = c.tstat ∧
        c'.tepc = c.tepc ∧ c'.tcause = c.tcause ∧ c'.tval = c.tval ∧ c'.tlpc = c.tlpc ∧ c'.tscr = c.tscr ∧ c'.evt = c.evt ∧
        c'.level = c.level ∧ c'.tags = c.tags ∧ c'.loads = c.loads ∧ c'.stores = c.stores ∧ c'.strong = c.strong
end

