-- ==== Sys2Proof/Laws/Tab.lean ====
section
/-! SUPPORT. Reading a sparse table after it is written. -/

namespace Sys2Proof.Machine

theorem Tab.get?_nil {α : Type} (k : Nat) : Tab.get? ([] : Tab α) k = none := rfl

theorem Tab.get?_cons {α : Type} (e : Nat × α) (t : Tab α) (k : Nat) :
    Tab.get? (e :: t) k = if e.1 = k then some e.2 else Tab.get? t k := by
  by_cases h : e.1 = k <;> simp [Tab.get?, List.find?_cons, h]

@[simp] theorem Tab.get?_set_self {α : Type} (t : Tab α) (k : Nat) (v : α) : Tab.get? (Tab.set t k v) k = some v := by
  induction t with
  | nil => simp [Tab.set, Tab.get?_cons]
  | cons e t ih =>
    simp only [Tab.set]
    split
    · simp [Tab.get?_cons]
    · split
      · simp [Tab.get?_cons]
      · rename_i h
        simp [Tab.get?_cons, ih, Ne.symm h]

theorem Tab.get?_set_ne {α : Type} (t : Tab α) {k j : Nat} (v : α) (h : k ≠ j) :
    Tab.get? (Tab.set t k v) j = Tab.get? t j := by
  induction t with
  | nil => simp [Tab.set, Tab.get?_cons, h, Tab.get?_nil]
  | cons e t ih =>
    simp only [Tab.set]
    split
    · simp [Tab.get?_cons, h]
    · split
      · rename_i h' ; subst h'; simp [Tab.get?_cons, h]
      · simp [Tab.get?_cons, ih]

@[simp] theorem Tab.set_set {α : Type} (t : Tab α) (k : Nat) (v w : α) :
    Tab.set (Tab.set t k v) k w = Tab.set t k w := by
  induction t with
  | nil => simp [Tab.set]
  | cons e t ih =>
    simp only [Tab.set]
    split
    · simp [Tab.set]
    · split
      · simp [Tab.set]
      · simp [Tab.set, *]

@[simp] theorem Tab.getD_set_self {α : Type} (t : Tab α) (k : Nat) (v d : α) : Tab.getD (Tab.set t k v) k d = v := by
  simp [Tab.getD]

theorem Tab.getD_set_ne {α : Type} (t : Tab α) {k j : Nat} (v d : α) (h : k ≠ j) :
    Tab.getD (Tab.set t k v) j d = Tab.getD t j d := by
  simp [Tab.getD, Tab.get?_set_ne t v h]

end Sys2Proof.Machine
end

