-- ==== Sys2Proof/Laws/State.lean ====
section
/-! SUPPORT. What each update of a state and of a context does to each field. -/

namespace Sys2Proof.Machine

/-! setSlot -/

@[simp] theorem State.setSlot_clock (s : State) (t : Nat) (v : Slot) : (s.setSlot t v).clock = s.clock := rfl
@[simp] theorem State.setSlot_agenda (s : State) (t : Nat) (v : Slot) : (s.setSlot t v).agenda = s.agenda := rfl
@[simp] theorem State.setSlot_timers (s : State) (t : Nat) (v : Slot) : (s.setSlot t v).timers = s.timers := rfl
@[simp] theorem State.setSlot_tick (s : State) (t : Nat) (v : Slot) : (s.setSlot t v).tick = s.tick := rfl
@[simp] theorem State.setSlot_cur (s : State) (t : Nat) (v : Slot) : (s.setSlot t v).cur = s.cur := rfl
@[simp] theorem State.setSlot_last (s : State) (t : Nat) (v : Slot) : (s.setSlot t v).last = s.last := rfl
@[simp] theorem State.setSlot_ids (s : State) (t : Nat) (v : Slot) : (s.setSlot t v).ids = s.ids := rfl
@[simp] theorem State.setSlot_power (s : State) (t : Nat) (v : Slot) : (s.setSlot t v).power = s.power := rfl
@[simp] theorem State.setSlot_thermtrip (s : State) (t : Nat) (v : Slot) : (s.setSlot t v).thermtrip = s.thermtrip := rfl
@[simp] theorem State.setSlot_tasks (s : State) (t : Nat) (v : Slot) : (s.setSlot t v).tasks = s.tasks := rfl
@[simp] theorem State.setSlot_saved (s : State) (t : Nat) (v : Slot) : (s.setSlot t v).saved = s.saved := rfl
@[simp] theorem State.setSlot_cores (s : State) (t : Nat) (v : Slot) : (s.setSlot t v).cores = s.cores := rfl
@[simp] theorem State.setSlot_frames (s : State) (t : Nat) (v : Slot) : (s.setSlot t v).frames = s.frames := rfl
@[simp] theorem State.setSlot_barriers (s : State) (t : Nat) (v : Slot) : (s.setSlot t v).barriers = s.barriers := rfl
@[simp] theorem State.setSlot_rollers (s : State) (t : Nat) (v : Slot) : (s.setSlot t v).rollers = s.rollers := rfl
@[simp] theorem State.setSlot_copies (s : State) (t : Nat) (v : Slot) : (s.setSlot t v).copies = s.copies := rfl
@[simp] theorem State.setSlot_records (s : State) (t : Nat) (v : Slot) : (s.setSlot t v).records = s.records := rfl
@[simp] theorem State.setSlot_indexes (s : State) (t : Nat) (v : Slot) : (s.setSlot t v).indexes = s.indexes := rfl
@[simp] theorem State.setSlot_pins (s : State) (t : Nat) (v : Slot) : (s.setSlot t v).pins = s.pins := rfl
@[simp] theorem State.setSlot_dies (s : State) (t : Nat) (v : Slot) : (s.setSlot t v).dies = s.dies := rfl
@[simp] theorem State.setSlot_mem (s : State) (t : Nat) (v : Slot) : (s.setSlot t v).mem = s.mem := rfl
@[simp] theorem State.setSlot_full (s : State) (t : Nat) (v : Slot) : (s.setSlot t v).full = s.full := rfl
@[simp] theorem State.setSlot_poison (s : State) (t : Nat) (v : Slot) : (s.setSlot t v).poison = s.poison := rfl
@[simp] theorem State.setSlot_hist (s : State) (t : Nat) (v : Slot) : (s.setSlot t v).hist = s.hist := rfl
@[simp] theorem State.setSlot_hostMem (s : State) (t : Nat) (v : Slot) : (s.setSlot t v).hostMem = s.hostMem := rfl
@[simp] theorem State.setSlot_regions (s : State) (t : Nat) (v : Slot) : (s.setSlot t v).regions = s.regions := rfl
@[simp] theorem State.setSlot_launches (s : State) (t : Nat) (v : Slot) : (s.setSlot t v).launches = s.launches := rfl
@[simp] theorem State.setSlot_groups (s : State) (t : Nat) (v : Slot) : (s.setSlot t v).groups = s.groups := rfl
@[simp] theorem State.setSlot_sweeps (s : State) (t : Nat) (v : Slot) : (s.setSlot t v).sweeps = s.sweeps := rfl
@[simp] theorem State.setSlot_host (s : State) (t : Nat) (v : Slot) : (s.setSlot t v).host = s.host := rfl
@[simp] theorem State.setSlot_fabric (s : State) (t : Nat) (v : Slot) : (s.setSlot t v).fabric = s.fabric := rfl
@[simp] theorem State.setSlot_ports (s : State) (t : Nat) (v : Slot) : (s.setSlot t v).ports = s.ports := rfl
@[simp] theorem State.setSlot_scanpri (s : State) (t : Nat) (v : Slot) : (s.setSlot t v).scanpri = s.scanpri := rfl
@[simp] theorem State.setSlot_plfloor (s : State) (t : Nat) (v : Slot) : (s.setSlot t v).plfloor = s.plfloor := rfl
@[simp] theorem State.setSlot_lineage (s : State) (t : Nat) (v : Slot) : (s.setSlot t v).lineage = s.lineage := rfl
@[simp] theorem State.setSlot_hostReply (s : State) (t : Nat) (v : Slot) : (s.setSlot t v).hostReply = s.hostReply := rfl
@[simp] theorem State.setSlot_owed (s : State) (t : Nat) (v : Slot) : (s.setSlot t v).owed = s.owed := rfl
@[simp] theorem State.setSlot_smbusAck (s : State) (t : Nat) (v : Slot) : (s.setSlot t v).smbusAck = s.smbusAck := rfl
@[simp] theorem State.setSlot_bounds (s : State) (t : Nat) (v : Slot) : (s.setSlot t v).bounds = s.bounds := rfl
@[simp] theorem State.setSlot_ended (s : State) (t : Nat) (v : Slot) : (s.setSlot t v).ended = s.ended := rfl

/-! setCtx -/

@[simp] theorem State.setCtx_clock (s : State) (c : Ctx) : (s.setCtx c).clock = s.clock := rfl
@[simp] theorem State.setCtx_agenda (s : State) (c : Ctx) : (s.setCtx c).agenda = s.agenda := rfl
@[simp] theorem State.setCtx_timers (s : State) (c : Ctx) : (s.setCtx c).timers = s.timers := rfl
@[simp] theorem State.setCtx_tick (s : State) (c : Ctx) : (s.setCtx c).tick = s.tick := rfl
@[simp] theorem State.setCtx_cur (s : State) (c : Ctx) : (s.setCtx c).cur = s.cur := rfl
@[simp] theorem State.setCtx_last (s : State) (c : Ctx) : (s.setCtx c).last = s.last := rfl
@[simp] theorem State.setCtx_ids (s : State) (c : Ctx) : (s.setCtx c).ids = s.ids := rfl
@[simp] theorem State.setCtx_power (s : State) (c : Ctx) : (s.setCtx c).power = s.power := rfl
@[simp] theorem State.setCtx_thermtrip (s : State) (c : Ctx) : (s.setCtx c).thermtrip = s.thermtrip := rfl
@[simp] theorem State.setCtx_tasks (s : State) (c : Ctx) : (s.setCtx c).tasks = s.tasks := rfl
@[simp] theorem State.setCtx_saved (s : State) (c : Ctx) : (s.setCtx c).saved = s.saved := rfl
@[simp] theorem State.setCtx_cores (s : State) (c : Ctx) : (s.setCtx c).cores = s.cores := rfl
@[simp] theorem State.setCtx_frames (s : State) (c : Ctx) : (s.setCtx c).frames = s.frames := rfl
@[simp] theorem State.setCtx_barriers (s : State) (c : Ctx) : (s.setCtx c).barriers = s.barriers := rfl
@[simp] theorem State.setCtx_rollers (s : State) (c : Ctx) : (s.setCtx c).rollers = s.rollers := rfl
@[simp] theorem State.setCtx_copies (s : State) (c : Ctx) : (s.setCtx c).copies = s.copies := rfl
@[simp] theorem State.setCtx_records (s : State) (c : Ctx) : (s.setCtx c).records = s.records := rfl
@[simp] theorem State.setCtx_indexes (s : State) (c : Ctx) : (s.setCtx c).indexes = s.indexes := rfl
@[simp] theorem State.setCtx_pins (s : State) (c : Ctx) : (s.setCtx c).pins = s.pins := rfl
@[simp] theorem State.setCtx_dies (s : State) (c : Ctx) : (s.setCtx c).dies = s.dies := rfl
@[simp] theorem State.setCtx_mem (s : State) (c : Ctx) : (s.setCtx c).mem = s.mem := rfl
@[simp] theorem State.setCtx_full (s : State) (c : Ctx) : (s.setCtx c).full = s.full := rfl
@[simp] theorem State.setCtx_poison (s : State) (c : Ctx) : (s.setCtx c).poison = s.poison := rfl
@[simp] theorem State.setCtx_hist (s : State) (c : Ctx) : (s.setCtx c).hist = s.hist := rfl
@[simp] theorem State.setCtx_hostMem (s : State) (c : Ctx) : (s.setCtx c).hostMem = s.hostMem := rfl
@[simp] theorem State.setCtx_regions (s : State) (c : Ctx) : (s.setCtx c).regions = s.regions := rfl
@[simp] theorem State.setCtx_launches (s : State) (c : Ctx) : (s.setCtx c).launches = s.launches := rfl
@[simp] theorem State.setCtx_groups (s : State) (c : Ctx) : (s.setCtx c).groups = s.groups := rfl
@[simp] theorem State.setCtx_sweeps (s : State) (c : Ctx) : (s.setCtx c).sweeps = s.sweeps := rfl
@[simp] theorem State.setCtx_host (s : State) (c : Ctx) : (s.setCtx c).host = s.host := rfl
@[simp] theorem State.setCtx_fabric (s : State) (c : Ctx) : (s.setCtx c).fabric = s.fabric := rfl
@[simp] theorem State.setCtx_ports (s : State) (c : Ctx) : (s.setCtx c).ports = s.ports := rfl
@[simp] theorem State.setCtx_scanpri (s : State) (c : Ctx) : (s.setCtx c).scanpri = s.scanpri := rfl
@[simp] theorem State.setCtx_plfloor (s : State) (c : Ctx) : (s.setCtx c).plfloor = s.plfloor := rfl
@[simp] theorem State.setCtx_lineage (s : State) (c : Ctx) : (s.setCtx c).lineage = s.lineage := rfl
@[simp] theorem State.setCtx_hostReply (s : State) (c : Ctx) : (s.setCtx c).hostReply = s.hostReply := rfl
@[simp] theorem State.setCtx_owed (s : State) (c : Ctx) : (s.setCtx c).owed = s.owed := rfl
@[simp] theorem State.setCtx_smbusAck (s : State) (c : Ctx) : (s.setCtx c).smbusAck = s.smbusAck := rfl
@[simp] theorem State.setCtx_bounds (s : State) (c : Ctx) : (s.setCtx c).bounds = s.bounds := rfl
@[simp] theorem State.setCtx_ended (s : State) (c : Ctx) : (s.setCtx c).ended = s.ended := rfl

/-! mod -/

@[simp] theorem State.mod_clock (s : State) (f : Ctx → Ctx) : (s.mod f).clock = s.clock := rfl
@[simp] theorem State.mod_agenda (s : State) (f : Ctx → Ctx) : (s.mod f).agenda = s.agenda := rfl
@[simp] theorem State.mod_timers (s : State) (f : Ctx → Ctx) : (s.mod f).timers = s.timers := rfl
@[simp] theorem State.mod_tick (s : State) (f : Ctx → Ctx) : (s.mod f).tick = s.tick := rfl
@[simp] theorem State.mod_cur (s : State) (f : Ctx → Ctx) : (s.mod f).cur = s.cur := rfl
@[simp] theorem State.mod_last (s : State) (f : Ctx → Ctx) : (s.mod f).last = s.last := rfl
@[simp] theorem State.mod_ids (s : State) (f : Ctx → Ctx) : (s.mod f).ids = s.ids := rfl
@[simp] theorem State.mod_power (s : State) (f : Ctx → Ctx) : (s.mod f).power = s.power := rfl
@[simp] theorem State.mod_thermtrip (s : State) (f : Ctx → Ctx) : (s.mod f).thermtrip = s.thermtrip := rfl
@[simp] theorem State.mod_tasks (s : State) (f : Ctx → Ctx) : (s.mod f).tasks = s.tasks := rfl
@[simp] theorem State.mod_saved (s : State) (f : Ctx → Ctx) : (s.mod f).saved = s.saved := rfl
@[simp] theorem State.mod_cores (s : State) (f : Ctx → Ctx) : (s.mod f).cores = s.cores := rfl
@[simp] theorem State.mod_frames (s : State) (f : Ctx → Ctx) : (s.mod f).frames = s.frames := rfl
@[simp] theorem State.mod_barriers (s : State) (f : Ctx → Ctx) : (s.mod f).barriers = s.barriers := rfl
@[simp] theorem State.mod_rollers (s : State) (f : Ctx → Ctx) : (s.mod f).rollers = s.rollers := rfl
@[simp] theorem State.mod_copies (s : State) (f : Ctx → Ctx) : (s.mod f).copies = s.copies := rfl
@[simp] theorem State.mod_records (s : State) (f : Ctx → Ctx) : (s.mod f).records = s.records := rfl
@[simp] theorem State.mod_indexes (s : State) (f : Ctx → Ctx) : (s.mod f).indexes = s.indexes := rfl
@[simp] theorem State.mod_pins (s : State) (f : Ctx → Ctx) : (s.mod f).pins = s.pins := rfl
@[simp] theorem State.mod_dies (s : State) (f : Ctx → Ctx) : (s.mod f).dies = s.dies := rfl
@[simp] theorem State.mod_mem (s : State) (f : Ctx → Ctx) : (s.mod f).mem = s.mem := rfl
@[simp] theorem State.mod_full (s : State) (f : Ctx → Ctx) : (s.mod f).full = s.full := rfl
@[simp] theorem State.mod_poison (s : State) (f : Ctx → Ctx) : (s.mod f).poison = s.poison := rfl
@[simp] theorem State.mod_hist (s : State) (f : Ctx → Ctx) : (s.mod f).hist = s.hist := rfl
@[simp] theorem State.mod_hostMem (s : State) (f : Ctx → Ctx) : (s.mod f).hostMem = s.hostMem := rfl
@[simp] theorem State.mod_regions (s : State) (f : Ctx → Ctx) : (s.mod f).regions = s.regions := rfl
@[simp] theorem State.mod_launches (s : State) (f : Ctx → Ctx) : (s.mod f).launches = s.launches := rfl
@[simp] theorem State.mod_groups (s : State) (f : Ctx → Ctx) : (s.mod f).groups = s.groups := rfl
@[simp] theorem State.mod_sweeps (s : State) (f : Ctx → Ctx) : (s.mod f).sweeps = s.sweeps := rfl
@[simp] theorem State.mod_host (s : State) (f : Ctx → Ctx) : (s.mod f).host = s.host := rfl
@[simp] theorem State.mod_fabric (s : State) (f : Ctx → Ctx) : (s.mod f).fabric = s.fabric := rfl
@[simp] theorem State.mod_ports (s : State) (f : Ctx → Ctx) : (s.mod f).ports = s.ports := rfl
@[simp] theorem State.mod_scanpri (s : State) (f : Ctx → Ctx) : (s.mod f).scanpri = s.scanpri := rfl
@[simp] theorem State.mod_plfloor (s : State) (f : Ctx → Ctx) : (s.mod f).plfloor = s.plfloor := rfl
@[simp] theorem State.mod_lineage (s : State) (f : Ctx → Ctx) : (s.mod f).lineage = s.lineage := rfl
@[simp] theorem State.mod_hostReply (s : State) (f : Ctx → Ctx) : (s.mod f).hostReply = s.hostReply := rfl
@[simp] theorem State.mod_owed (s : State) (f : Ctx → Ctx) : (s.mod f).owed = s.owed := rfl
@[simp] theorem State.mod_smbusAck (s : State) (f : Ctx → Ctx) : (s.mod f).smbusAck = s.smbusAck := rfl
@[simp] theorem State.mod_bounds (s : State) (f : Ctx → Ctx) : (s.mod f).bounds = s.bounds := rfl
@[simp] theorem State.mod_ended (s : State) (f : Ctx → Ctx) : (s.mod f).ended = s.ended := rfl

/-! setCore -/

@[simp] theorem State.setCore_clock (s : State) (k : Nat) (v : CoreSt) : (s.setCore k v).clock = s.clock := rfl
@[simp] theorem State.setCore_agenda (s : State) (k : Nat) (v : CoreSt) : (s.setCore k v).agenda = s.agenda := rfl
@[simp] theorem State.setCore_timers (s : State) (k : Nat) (v : CoreSt) : (s.setCore k v).timers = s.timers := rfl
@[simp] theorem State.setCore_tick (s : State) (k : Nat) (v : CoreSt) : (s.setCore k v).tick = s.tick := rfl
@[simp] theorem State.setCore_cur (s : State) (k : Nat) (v : CoreSt) : (s.setCore k v).cur = s.cur := rfl
@[simp] theorem State.setCore_last (s : State) (k : Nat) (v : CoreSt) : (s.setCore k v).last = s.last := rfl
@[simp] theorem State.setCore_ids (s : State) (k : Nat) (v : CoreSt) : (s.setCore k v).ids = s.ids := rfl
@[simp] theorem State.setCore_power (s : State) (k : Nat) (v : CoreSt) : (s.setCore k v).power = s.power := rfl
@[simp] theorem State.setCore_thermtrip (s : State) (k : Nat) (v : CoreSt) : (s.setCore k v).thermtrip = s.thermtrip := rfl
@[simp] theorem State.setCore_slots (s : State) (k : Nat) (v : CoreSt) : (s.setCore k v).slots = s.slots := rfl
@[simp] theorem State.setCore_tasks (s : State) (k : Nat) (v : CoreSt) : (s.setCore k v).tasks = s.tasks := rfl
@[simp] theorem State.setCore_saved (s : State) (k : Nat) (v : CoreSt) : (s.setCore k v).saved = s.saved := rfl
@[simp] theorem State.setCore_frames (s : State) (k : Nat) (v : CoreSt) : (s.setCore k v).frames = s.frames := rfl
@[simp] theorem State.setCore_barriers (s : State) (k : Nat) (v : CoreSt) : (s.setCore k v).barriers = s.barriers := rfl
@[simp] theorem State.setCore_rollers (s : State) (k : Nat) (v : CoreSt) : (s.setCore k v).rollers = s.rollers := rfl
@[simp] theorem State.setCore_copies (s : State) (k : Nat) (v : CoreSt) : (s.setCore k v).copies = s.copies := rfl
@[simp] theorem State.setCore_records (s : State) (k : Nat) (v : CoreSt) : (s.setCore k v).records = s.records := rfl
@[simp] theorem State.setCore_indexes (s : State) (k : Nat) (v : CoreSt) : (s.setCore k v).indexes = s.indexes := rfl
@[simp] theorem State.setCore_pins (s : State) (k : Nat) (v : CoreSt) : (s.setCore k v).pins = s.pins := rfl
@[simp] theorem State.setCore_dies (s : State) (k : Nat) (v : CoreSt) : (s.setCore k v).dies = s.dies := rfl
@[simp] theorem State.setCore_mem (s : State) (k : Nat) (v : CoreSt) : (s.setCore k v).mem = s.mem := rfl
@[simp] theorem State.setCore_full (s : State) (k : Nat) (v : CoreSt) : (s.setCore k v).full = s.full := rfl
@[simp] theorem State.setCore_poison (s : State) (k : Nat) (v : CoreSt) : (s.setCore k v).poison = s.poison := rfl
@[simp] theorem State.setCore_hist (s : State) (k : Nat) (v : CoreSt) : (s.setCore k v).hist = s.hist := rfl
@[simp] theorem State.setCore_hostMem (s : State) (k : Nat) (v : CoreSt) : (s.setCore k v).hostMem = s.hostMem := rfl
@[simp] theorem State.setCore_regions (s : State) (k : Nat) (v : CoreSt) : (s.setCore k v).regions = s.regions := rfl
@[simp] theorem State.setCore_launches (s : State) (k : Nat) (v : CoreSt) : (s.setCore k v).launches = s.launches := rfl
@[simp] theorem State.setCore_groups (s : State) (k : Nat) (v : CoreSt) : (s.setCore k v).groups = s.groups := rfl
@[simp] theorem State.setCore_sweeps (s : State) (k : Nat) (v : CoreSt) : (s.setCore k v).sweeps = s.sweeps := rfl
@[simp] theorem State.setCore_host (s : State) (k : Nat) (v : CoreSt) : (s.setCore k v).host = s.host := rfl
@[simp] theorem State.setCore_fabric (s : State) (k : Nat) (v : CoreSt) : (s.setCore k v).fabric = s.fabric := rfl
@[simp] theorem State.setCore_ports (s : State) (k : Nat) (v : CoreSt) : (s.setCore k v).ports = s.ports := rfl
@[simp] theorem State.setCore_scanpri (s : State) (k : Nat) (v : CoreSt) : (s.setCore k v).scanpri = s.scanpri := rfl
@[simp] theorem State.setCore_plfloor (s : State) (k : Nat) (v : CoreSt) : (s.setCore k v).plfloor = s.plfloor := rfl
@[simp] theorem State.setCore_lineage (s : State) (k : Nat) (v : CoreSt) : (s.setCore k v).lineage = s.lineage := rfl
@[simp] theorem State.setCore_hostReply (s : State) (k : Nat) (v : CoreSt) : (s.setCore k v).hostReply = s.hostReply := rfl
@[simp] theorem State.setCore_owed (s : State) (k : Nat) (v : CoreSt) : (s.setCore k v).owed = s.owed := rfl
@[simp] theorem State.setCore_smbusAck (s : State) (k : Nat) (v : CoreSt) : (s.setCore k v).smbusAck = s.smbusAck := rfl
@[simp] theorem State.setCore_bounds (s : State) (k : Nat) (v : CoreSt) : (s.setCore k v).bounds = s.bounds := rfl
@[simp] theorem State.setCore_ended (s : State) (k : Nat) (v : CoreSt) : (s.setCore k v).ended = s.ended := rfl

/-! setFtab -/

@[simp] theorem State.setFtab_clock (s : State) (k : Nat) (v : Vector FrameEnt 64) : (s.setFtab k v).clock = s.clock := rfl
@[simp] theorem State.setFtab_agenda (s : State) (k : Nat) (v : Vector FrameEnt 64) : (s.setFtab k v).agenda = s.agenda := rfl
@[simp] theorem State.setFtab_timers (s : State) (k : Nat) (v : Vector FrameEnt 64) : (s.setFtab k v).timers = s.timers := rfl
@[simp] theorem State.setFtab_tick (s : State) (k : Nat) (v : Vector FrameEnt 64) : (s.setFtab k v).tick = s.tick := rfl
@[simp] theorem State.setFtab_cur (s : State) (k : Nat) (v : Vector FrameEnt 64) : (s.setFtab k v).cur = s.cur := rfl
@[simp] theorem State.setFtab_last (s : State) (k : Nat) (v : Vector FrameEnt 64) : (s.setFtab k v).last = s.last := rfl
@[simp] theorem State.setFtab_ids (s : State) (k : Nat) (v : Vector FrameEnt 64) : (s.setFtab k v).ids = s.ids := rfl
@[simp] theorem State.setFtab_power (s : State) (k : Nat) (v : Vector FrameEnt 64) : (s.setFtab k v).power = s.power := rfl
@[simp] theorem State.setFtab_thermtrip (s : State) (k : Nat) (v : Vector FrameEnt 64) : (s.setFtab k v).thermtrip = s.thermtrip := rfl
@[simp] theorem State.setFtab_slots (s : State) (k : Nat) (v : Vector FrameEnt 64) : (s.setFtab k v).slots = s.slots := rfl
@[simp] theorem State.setFtab_tasks (s : State) (k : Nat) (v : Vector FrameEnt 64) : (s.setFtab k v).tasks = s.tasks := rfl
@[simp] theorem State.setFtab_saved (s : State) (k : Nat) (v : Vector FrameEnt 64) : (s.setFtab k v).saved = s.saved := rfl
@[simp] theorem State.setFtab_cores (s : State) (k : Nat) (v : Vector FrameEnt 64) : (s.setFtab k v).cores = s.cores := rfl
@[simp] theorem State.setFtab_barriers (s : State) (k : Nat) (v : Vector FrameEnt 64) : (s.setFtab k v).barriers = s.barriers := rfl
@[simp] theorem State.setFtab_rollers (s : State) (k : Nat) (v : Vector FrameEnt 64) : (s.setFtab k v).rollers = s.rollers := rfl
@[simp] theorem State.setFtab_copies (s : State) (k : Nat) (v : Vector FrameEnt 64) : (s.setFtab k v).copies = s.copies := rfl
@[simp] theorem State.setFtab_records (s : State) (k : Nat) (v : Vector FrameEnt 64) : (s.setFtab k v).records = s.records := rfl
@[simp] theorem State.setFtab_indexes (s : State) (k : Nat) (v : Vector FrameEnt 64) : (s.setFtab k v).indexes = s.indexes := rfl
@[simp] theorem State.setFtab_pins (s : State) (k : Nat) (v : Vector FrameEnt 64) : (s.setFtab k v).pins = s.pins := rfl
@[simp] theorem State.setFtab_dies (s : State) (k : Nat) (v : Vector FrameEnt 64) : (s.setFtab k v).dies = s.dies := rfl
@[simp] theorem State.setFtab_mem (s : State) (k : Nat) (v : Vector FrameEnt 64) : (s.setFtab k v).mem = s.mem := rfl
@[simp] theorem State.setFtab_full (s : State) (k : Nat) (v : Vector FrameEnt 64) : (s.setFtab k v).full = s.full := rfl
@[simp] theorem State.setFtab_poison (s : State) (k : Nat) (v : Vector FrameEnt 64) : (s.setFtab k v).poison = s.poison := rfl
@[simp] theorem State.setFtab_hist (s : State) (k : Nat) (v : Vector FrameEnt 64) : (s.setFtab k v).hist = s.hist := rfl
@[simp] theorem State.setFtab_hostMem (s : State) (k : Nat) (v : Vector FrameEnt 64) : (s.setFtab k v).hostMem = s.hostMem := rfl
@[simp] theorem State.setFtab_regions (s : State) (k : Nat) (v : Vector FrameEnt 64) : (s.setFtab k v).regions = s.regions := rfl
@[simp] theorem State.setFtab_launches (s : State) (k : Nat) (v : Vector FrameEnt 64) : (s.setFtab k v).launches = s.launches := rfl
@[simp] theorem State.setFtab_groups (s : State) (k : Nat) (v : Vector FrameEnt 64) : (s.setFtab k v).groups = s.groups := rfl
@[simp] theorem State.setFtab_sweeps (s : State) (k : Nat) (v : Vector FrameEnt 64) : (s.setFtab k v).sweeps = s.sweeps := rfl
@[simp] theorem State.setFtab_host (s : State) (k : Nat) (v : Vector FrameEnt 64) : (s.setFtab k v).host = s.host := rfl
@[simp] theorem State.setFtab_fabric (s : State) (k : Nat) (v : Vector FrameEnt 64) : (s.setFtab k v).fabric = s.fabric := rfl
@[simp] theorem State.setFtab_ports (s : State) (k : Nat) (v : Vector FrameEnt 64) : (s.setFtab k v).ports = s.ports := rfl
@[simp] theorem State.setFtab_scanpri (s : State) (k : Nat) (v : Vector FrameEnt 64) : (s.setFtab k v).scanpri = s.scanpri := rfl
@[simp] theorem State.setFtab_plfloor (s : State) (k : Nat) (v : Vector FrameEnt 64) : (s.setFtab k v).plfloor = s.plfloor := rfl
@[simp] theorem State.setFtab_lineage (s : State) (k : Nat) (v : Vector FrameEnt 64) : (s.setFtab k v).lineage = s.lineage := rfl
@[simp] theorem State.setFtab_hostReply (s : State) (k : Nat) (v : Vector FrameEnt 64) : (s.setFtab k v).hostReply = s.hostReply := rfl
@[simp] theorem State.setFtab_owed (s : State) (k : Nat) (v : Vector FrameEnt 64) : (s.setFtab k v).owed = s.owed := rfl
@[simp] theorem State.setFtab_smbusAck (s : State) (k : Nat) (v : Vector FrameEnt 64) : (s.setFtab k v).smbusAck = s.smbusAck := rfl
@[simp] theorem State.setFtab_bounds (s : State) (k : Nat) (v : Vector FrameEnt 64) : (s.setFtab k v).bounds = s.bounds := rfl
@[simp] theorem State.setFtab_ended (s : State) (k : Nat) (v : Vector FrameEnt 64) : (s.setFtab k v).ended = s.ended := rfl

/-! setBarrier -/

@[simp] theorem State.setBarrier_clock (s : State) (k j : Nat) (v : Barrier) : (s.setBarrier k j v).clock = s.clock := rfl
@[simp] theorem State.setBarrier_agenda (s : State) (k j : Nat) (v : Barrier) : (s.setBarrier k j v).agenda = s.agenda := rfl
@[simp] theorem State.setBarrier_timers (s : State) (k j : Nat) (v : Barrier) : (s.setBarrier k j v).timers = s.timers := rfl
@[simp] theorem State.setBarrier_tick (s : State) (k j : Nat) (v : Barrier) : (s.setBarrier k j v).tick = s.tick := rfl
@[simp] theorem State.setBarrier_cur (s : State) (k j : Nat) (v : Barrier) : (s.setBarrier k j v).cur = s.cur := rfl
@[simp] theorem State.setBarrier_last (s : State) (k j : Nat) (v : Barrier) : (s.setBarrier k j v).last = s.last := rfl
@[simp] theorem State.setBarrier_ids (s : State) (k j : Nat) (v : Barrier) : (s.setBarrier k j v).ids = s.ids := rfl
@[simp] theorem State.setBarrier_power (s : State) (k j : Nat) (v : Barrier) : (s.setBarrier k j v).power = s.power := rfl
@[simp] theorem State.setBarrier_thermtrip (s : State) (k j : Nat) (v : Barrier) : (s.setBarrier k j v).thermtrip = s.thermtrip := rfl
@[simp] theorem State.setBarrier_slots (s : State) (k j : Nat) (v : Barrier) : (s.setBarrier k j v).slots = s.slots := rfl
@[simp] theorem State.setBarrier_tasks (s : State) (k j : Nat) (v : Barrier) : (s.setBarrier k j v).tasks = s.tasks := rfl
@[simp] theorem State.setBarrier_saved (s : State) (k j : Nat) (v : Barrier) : (s.setBarrier k j v).saved = s.saved := rfl
@[simp] theorem State.setBarrier_cores (s : State) (k j : Nat) (v : Barrier) : (s.setBarrier k j v).cores = s.cores := rfl
@[simp] theorem State.setBarrier_frames (s : State) (k j : Nat) (v : Barrier) : (s.setBarrier k j v).frames = s.frames := rfl
@[simp] theorem State.setBarrier_rollers (s : State) (k j : Nat) (v : Barrier) : (s.setBarrier k j v).rollers = s.rollers := rfl
@[simp] theorem State.setBarrier_copies (s : State) (k j : Nat) (v : Barrier) : (s.setBarrier k j v).copies = s.copies := rfl
@[simp] theorem State.setBarrier_records (s : State) (k j : Nat) (v : Barrier) : (s.setBarrier k j v).records = s.records := rfl
@[simp] theorem State.setBarrier_indexes (s : State) (k j : Nat) (v : Barrier) : (s.setBarrier k j v).indexes = s.indexes := rfl
@[simp] theorem State.setBarrier_pins (s : State) (k j : Nat) (v : Barrier) : (s.setBarrier k j v).pins = s.pins := rfl
@[simp] theorem State.setBarrier_dies (s : State) (k j : Nat) (v : Barrier) : (s.setBarrier k j v).dies = s.dies := rfl
@[simp] theorem State.setBarrier_mem (s : State) (k j : Nat) (v : Barrier) : (s.setBarrier k j v).mem = s.mem := rfl
@[simp] theorem State.setBarrier_full (s : State) (k j : Nat) (v : Barrier) : (s.setBarrier k j v).full = s.full := rfl
@[simp] theorem State.setBarrier_poison (s : State) (k j : Nat) (v : Barrier) : (s.setBarrier k j v).poison = s.poison := rfl
@[simp] theorem State.setBarrier_hist (s : State) (k j : Nat) (v : Barrier) : (s.setBarrier k j v).hist = s.hist := rfl
@[simp] theorem State.setBarrier_hostMem (s : State) (k j : Nat) (v : Barrier) : (s.setBarrier k j v).hostMem = s.hostMem := rfl
@[simp] theorem State.setBarrier_regions (s : State) (k j : Nat) (v : Barrier) : (s.setBarrier k j v).regions = s.regions := rfl
@[simp] theorem State.setBarrier_launches (s : State) (k j : Nat) (v : Barrier) : (s.setBarrier k j v).launches = s.launches := rfl
@[simp] theorem State.setBarrier_groups (s : State) (k j : Nat) (v : Barrier) : (s.setBarrier k j v).groups = s.groups := rfl
@[simp] theorem State.setBarrier_sweeps (s : State) (k j : Nat) (v : Barrier) : (s.setBarrier k j v).sweeps = s.sweeps := rfl
@[simp] theorem State.setBarrier_host (s : State) (k j : Nat) (v : Barrier) : (s.setBarrier k j v).host = s.host := rfl
@[simp] theorem State.setBarrier_fabric (s : State) (k j : Nat) (v : Barrier) : (s.setBarrier k j v).fabric = s.fabric := rfl
@[simp] theorem State.setBarrier_ports (s : State) (k j : Nat) (v : Barrier) : (s.setBarrier k j v).ports = s.ports := rfl
@[simp] theorem State.setBarrier_scanpri (s : State) (k j : Nat) (v : Barrier) : (s.setBarrier k j v).scanpri = s.scanpri := rfl
@[simp] theorem State.setBarrier_plfloor (s : State) (k j : Nat) (v : Barrier) : (s.setBarrier k j v).plfloor = s.plfloor := rfl
@[simp] theorem State.setBarrier_lineage (s : State) (k j : Nat) (v : Barrier) : (s.setBarrier k j v).lineage = s.lineage := rfl
@[simp] theorem State.setBarrier_hostReply (s : State) (k j : Nat) (v : Barrier) : (s.setBarrier k j v).hostReply = s.hostReply := rfl
@[simp] theorem State.setBarrier_owed (s : State) (k j : Nat) (v : Barrier) : (s.setBarrier k j v).owed = s.owed := rfl
@[simp] theorem State.setBarrier_smbusAck (s : State) (k j : Nat) (v : Barrier) : (s.setBarrier k j v).smbusAck = s.smbusAck := rfl
@[simp] theorem State.setBarrier_bounds (s : State) (k j : Nat) (v : Barrier) : (s.setBarrier k j v).bounds = s.bounds := rfl
@[simp] theorem State.setBarrier_ended (s : State) (k j : Nat) (v : Barrier) : (s.setBarrier k j v).ended = s.ended := rfl

/-! setRoller -/

@[simp] theorem State.setRoller_clock (s : State) (k : Nat) (v : Roller) : (s.setRoller k v).clock = s.clock := rfl
@[simp] theorem State.setRoller_agenda (s : State) (k : Nat) (v : Roller) : (s.setRoller k v).agenda = s.agenda := rfl
@[simp] theorem State.setRoller_timers (s : State) (k : Nat) (v : Roller) : (s.setRoller k v).timers = s.timers := rfl
@[simp] theorem State.setRoller_tick (s : State) (k : Nat) (v : Roller) : (s.setRoller k v).tick = s.tick := rfl
@[simp] theorem State.setRoller_cur (s : State) (k : Nat) (v : Roller) : (s.setRoller k v).cur = s.cur := rfl
@[simp] theorem State.setRoller_last (s : State) (k : Nat) (v : Roller) : (s.setRoller k v).last = s.last := rfl
@[simp] theorem State.setRoller_ids (s : State) (k : Nat) (v : Roller) : (s.setRoller k v).ids = s.ids := rfl
@[simp] theorem State.setRoller_power (s : State) (k : Nat) (v : Roller) : (s.setRoller k v).power = s.power := rfl
@[simp] theorem State.setRoller_thermtrip (s : State) (k : Nat) (v : Roller) : (s.setRoller k v).thermtrip = s.thermtrip := rfl
@[simp] theorem State.setRoller_slots (s : State) (k : Nat) (v : Roller) : (s.setRoller k v).slots = s.slots := rfl
@[simp] theorem State.setRoller_tasks (s : State) (k : Nat) (v : Roller) : (s.setRoller k v).tasks = s.tasks := rfl
@[simp] theorem State.setRoller_saved (s : State) (k : Nat) (v : Roller) : (s.setRoller k v).saved = s.saved := rfl
@[simp] theorem State.setRoller_cores (s : State) (k : Nat) (v : Roller) : (s.setRoller k v).cores = s.cores := rfl
@[simp] theorem State.setRoller_frames (s : State) (k : Nat) (v : Roller) : (s.setRoller k v).frames = s.frames := rfl
@[simp] theorem State.setRoller_barriers (s : State) (k : Nat) (v : Roller) : (s.setRoller k v).barriers = s.barriers := rfl
@[simp] theorem State.setRoller_copies (s : State) (k : Nat) (v : Roller) : (s.setRoller k v).copies = s.copies := rfl
@[simp] theorem State.setRoller_records (s : State) (k : Nat) (v : Roller) : (s.setRoller k v).records = s.records := rfl
@[simp] theorem State.setRoller_indexes (s : State) (k : Nat) (v : Roller) : (s.setRoller k v).indexes = s.indexes := rfl
@[simp] theorem State.setRoller_pins (s : State) (k : Nat) (v : Roller) : (s.setRoller k v).pins = s.pins := rfl
@[simp] theorem State.setRoller_dies (s : State) (k : Nat) (v : Roller) : (s.setRoller k v).dies = s.dies := rfl
@[simp] theorem State.setRoller_mem (s : State) (k : Nat) (v : Roller) : (s.setRoller k v).mem = s.mem := rfl
@[simp] theorem State.setRoller_full (s : State) (k : Nat) (v : Roller) : (s.setRoller k v).full = s.full := rfl
@[simp] theorem State.setRoller_poison (s : State) (k : Nat) (v : Roller) : (s.setRoller k v).poison = s.poison := rfl
@[simp] theorem State.setRoller_hist (s : State) (k : Nat) (v : Roller) : (s.setRoller k v).hist = s.hist := rfl
@[simp] theorem State.setRoller_hostMem (s : State) (k : Nat) (v : Roller) : (s.setRoller k v).hostMem = s.hostMem := rfl
@[simp] theorem State.setRoller_regions (s : State) (k : Nat) (v : Roller) : (s.setRoller k v).regions = s.regions := rfl
@[simp] theorem State.setRoller_launches (s : State) (k : Nat) (v : Roller) : (s.setRoller k v).launches = s.launches := rfl
@[simp] theorem State.setRoller_groups (s : State) (k : Nat) (v : Roller) : (s.setRoller k v).groups = s.groups := rfl
@[simp] theorem State.setRoller_sweeps (s : State) (k : Nat) (v : Roller) : (s.setRoller k v).sweeps = s.sweeps := rfl
@[simp] theorem State.setRoller_host (s : State) (k : Nat) (v : Roller) : (s.setRoller k v).host = s.host := rfl
@[simp] theorem State.setRoller_fabric (s : State) (k : Nat) (v : Roller) : (s.setRoller k v).fabric = s.fabric := rfl
@[simp] theorem State.setRoller_ports (s : State) (k : Nat) (v : Roller) : (s.setRoller k v).ports = s.ports := rfl
@[simp] theorem State.setRoller_scanpri (s : State) (k : Nat) (v : Roller) : (s.setRoller k v).scanpri = s.scanpri := rfl
@[simp] theorem State.setRoller_plfloor (s : State) (k : Nat) (v : Roller) : (s.setRoller k v).plfloor = s.plfloor := rfl
@[simp] theorem State.setRoller_lineage (s : State) (k : Nat) (v : Roller) : (s.setRoller k v).lineage = s.lineage := rfl
@[simp] theorem State.setRoller_hostReply (s : State) (k : Nat) (v : Roller) : (s.setRoller k v).hostReply = s.hostReply := rfl
@[simp] theorem State.setRoller_owed (s : State) (k : Nat) (v : Roller) : (s.setRoller k v).owed = s.owed := rfl
@[simp] theorem State.setRoller_smbusAck (s : State) (k : Nat) (v : Roller) : (s.setRoller k v).smbusAck = s.smbusAck := rfl
@[simp] theorem State.setRoller_bounds (s : State) (k : Nat) (v : Roller) : (s.setRoller k v).bounds = s.bounds := rfl
@[simp] theorem State.setRoller_ended (s : State) (k : Nat) (v : Roller) : (s.setRoller k v).ended = s.ended := rfl

/-! modRegion -/

@[simp] theorem State.modRegion_clock (s : State) (r : Nat) (f : Region → Region) : (s.modRegion r f).clock = s.clock := rfl
@[simp] theorem State.modRegion_agenda (s : State) (r : Nat) (f : Region → Region) : (s.modRegion r f).agenda = s.agenda := rfl
@[simp] theorem State.modRegion_timers (s : State) (r : Nat) (f : Region → Region) : (s.modRegion r f).timers = s.timers := rfl
@[simp] theorem State.modRegion_tick (s : State) (r : Nat) (f : Region → Region) : (s.modRegion r f).tick = s.tick := rfl
@[simp] theorem State.modRegion_cur (s : State) (r : Nat) (f : Region → Region) : (s.modRegion r f).cur = s.cur := rfl
@[simp] theorem State.modRegion_last (s : State) (r : Nat) (f : Region → Region) : (s.modRegion r f).last = s.last := rfl
@[simp] theorem State.modRegion_ids (s : State) (r : Nat) (f : Region → Region) : (s.modRegion r f).ids = s.ids := rfl
@[simp] theorem State.modRegion_power (s : State) (r : Nat) (f : Region → Region) : (s.modRegion r f).power = s.power := rfl
@[simp] theorem State.modRegion_thermtrip (s : State) (r : Nat) (f : Region → Region) : (s.modRegion r f).thermtrip = s.thermtrip := rfl
@[simp] theorem State.modRegion_slots (s : State) (r : Nat) (f : Region → Region) : (s.modRegion r f).slots = s.slots := rfl
@[simp] theorem State.modRegion_tasks (s : State) (r : Nat) (f : Region → Region) : (s.modRegion r f).tasks = s.tasks := rfl
@[simp] theorem State.modRegion_saved (s : State) (r : Nat) (f : Region → Region) : (s.modRegion r f).saved = s.saved := rfl
@[simp] theorem State.modRegion_cores (s : State) (r : Nat) (f : Region → Region) : (s.modRegion r f).cores = s.cores := rfl
@[simp] theorem State.modRegion_frames (s : State) (r : Nat) (f : Region → Region) : (s.modRegion r f).frames = s.frames := rfl
@[simp] theorem State.modRegion_barriers (s : State) (r : Nat) (f : Region → Region) : (s.modRegion r f).barriers = s.barriers := rfl
@[simp] theorem State.modRegion_rollers (s : State) (r : Nat) (f : Region → Region) : (s.modRegion r f).rollers = s.rollers := rfl
@[simp] theorem State.modRegion_copies (s : State) (r : Nat) (f : Region → Region) : (s.modRegion r f).copies = s.copies := rfl
@[simp] theorem State.modRegion_records (s : State) (r : Nat) (f : Region → Region) : (s.modRegion r f).records = s.records := rfl
@[simp] theorem State.modRegion_indexes (s : State) (r : Nat) (f : Region → Region) : (s.modRegion r f).indexes = s.indexes := rfl
@[simp] theorem State.modRegion_pins (s : State) (r : Nat) (f : Region → Region) : (s.modRegion r f).pins = s.pins := rfl
@[simp] theorem State.modRegion_dies (s : State) (r : Nat) (f : Region → Region) : (s.modRegion r f).dies = s.dies := rfl
@[simp] theorem State.modRegion_mem (s : State) (r : Nat) (f : Region → Region) : (s.modRegion r f).mem = s.mem := rfl
@[simp] theorem State.modRegion_full (s : State) (r : Nat) (f : Region → Region) : (s.modRegion r f).full = s.full := rfl
@[simp] theorem State.modRegion_poison (s : State) (r : Nat) (f : Region → Region) : (s.modRegion r f).poison = s.poison := rfl
@[simp] theorem State.modRegion_hist (s : State) (r : Nat) (f : Region → Region) : (s.modRegion r f).hist = s.hist := rfl
@[simp] theorem State.modRegion_hostMem (s : State) (r : Nat) (f : Region → Region) : (s.modRegion r f).hostMem = s.hostMem := rfl
@[simp] theorem State.modRegion_launches (s : State) (r : Nat) (f : Region → Region) : (s.modRegion r f).launches = s.launches := rfl
@[simp] theorem State.modRegion_groups (s : State) (r : Nat) (f : Region → Region) : (s.modRegion r f).groups = s.groups := rfl
@[simp] theorem State.modRegion_sweeps (s : State) (r : Nat) (f : Region → Region) : (s.modRegion r f).sweeps = s.sweeps := rfl
@[simp] theorem State.modRegion_host (s : State) (r : Nat) (f : Region → Region) : (s.modRegion r f).host = s.host := rfl
@[simp] theorem State.modRegion_fabric (s : State) (r : Nat) (f : Region → Region) : (s.modRegion r f).fabric = s.fabric := rfl
@[simp] theorem State.modRegion_ports (s : State) (r : Nat) (f : Region → Region) : (s.modRegion r f).ports = s.ports := rfl
@[simp] theorem State.modRegion_scanpri (s : State) (r : Nat) (f : Region → Region) : (s.modRegion r f).scanpri = s.scanpri := rfl
@[simp] theorem State.modRegion_plfloor (s : State) (r : Nat) (f : Region → Region) : (s.modRegion r f).plfloor = s.plfloor := rfl
@[simp] theorem State.modRegion_lineage (s : State) (r : Nat) (f : Region → Region) : (s.modRegion r f).lineage = s.lineage := rfl
@[simp] theorem State.modRegion_hostReply (s : State) (r : Nat) (f : Region → Region) : (s.modRegion r f).hostReply = s.hostReply := rfl
@[simp] theorem State.modRegion_owed (s : State) (r : Nat) (f : Region → Region) : (s.modRegion r f).owed = s.owed := rfl
@[simp] theorem State.modRegion_smbusAck (s : State) (r : Nat) (f : Region → Region) : (s.modRegion r f).smbusAck = s.smbusAck := rfl
@[simp] theorem State.modRegion_bounds (s : State) (r : Nat) (f : Region → Region) : (s.modRegion r f).bounds = s.bounds := rfl
@[simp] theorem State.modRegion_ended (s : State) (r : Nat) (f : Region → Region) : (s.modRegion r f).ended = s.ended := rfl

/-! modDie -/

@[simp] theorem State.modDie_clock (s : State) (d : Nat) (f : DieSt → DieSt) : (s.modDie d f).clock = s.clock := rfl
@[simp] theorem State.modDie_agenda (s : State) (d : Nat) (f : DieSt → DieSt) : (s.modDie d f).agenda = s.agenda := rfl
@[simp] theorem State.modDie_timers (s : State) (d : Nat) (f : DieSt → DieSt) : (s.modDie d f).timers = s.timers := rfl
@[simp] theorem State.modDie_tick (s : State) (d : Nat) (f : DieSt → DieSt) : (s.modDie d f).tick = s.tick := rfl
@[simp] theorem State.modDie_cur (s : State) (d : Nat) (f : DieSt → DieSt) : (s.modDie d f).cur = s.cur := rfl
@[simp] theorem State.modDie_last (s : State) (d : Nat) (f : DieSt → DieSt) : (s.modDie d f).last = s.last := rfl
@[simp] theorem State.modDie_ids (s : State) (d : Nat) (f : DieSt → DieSt) : (s.modDie d f).ids = s.ids := rfl
@[simp] theorem State.modDie_power (s : State) (d : Nat) (f : DieSt → DieSt) : (s.modDie d f).power = s.power := rfl
@[simp] theorem State.modDie_thermtrip (s : State) (d : Nat) (f : DieSt → DieSt) : (s.modDie d f).thermtrip = s.thermtrip := rfl
@[simp] theorem State.modDie_slots (s : State) (d : Nat) (f : DieSt → DieSt) : (s.modDie d f).slots = s.slots := rfl
@[simp] theorem State.modDie_tasks (s : State) (d : Nat) (f : DieSt → DieSt) : (s.modDie d f).tasks = s.tasks := rfl
@[simp] theorem State.modDie_saved (s : State) (d : Nat) (f : DieSt → DieSt) : (s.modDie d f).saved = s.saved := rfl
@[simp] theorem State.modDie_cores (s : State) (d : Nat) (f : DieSt → DieSt) : (s.modDie d f).cores = s.cores := rfl
@[simp] theorem State.modDie_frames (s : State) (d : Nat) (f : DieSt → DieSt) : (s.modDie d f).frames = s.frames := rfl
@[simp] theorem State.modDie_barriers (s : State) (d : Nat) (f : DieSt → DieSt) : (s.modDie d f).barriers = s.barriers := rfl
@[simp] theorem State.modDie_rollers (s : State) (d : Nat) (f : DieSt → DieSt) : (s.modDie d f).rollers = s.rollers := rfl
@[simp] theorem State.modDie_copies (s : State) (d : Nat) (f : DieSt → DieSt) : (s.modDie d f).copies = s.copies := rfl
@[simp] theorem State.modDie_records (s : State) (d : Nat) (f : DieSt → DieSt) : (s.modDie d f).records = s.records := rfl
@[simp] theorem State.modDie_indexes (s : State) (d : Nat) (f : DieSt → DieSt) : (s.modDie d f).indexes = s.indexes := rfl
@[simp] theorem State.modDie_pins (s : State) (d : Nat) (f : DieSt → DieSt) : (s.modDie d f).pins = s.pins := rfl
@[simp] theorem State.modDie_mem (s : State) (d : Nat) (f : DieSt → DieSt) : (s.modDie d f).mem = s.mem := rfl
@[simp] theorem State.modDie_full (s : State) (d : Nat) (f : DieSt → DieSt) : (s.modDie d f).full = s.full := rfl
@[simp] theorem State.modDie_poison (s : State) (d : Nat) (f : DieSt → DieSt) : (s.modDie d f).poison = s.poison := rfl
@[simp] theorem State.modDie_hist (s : State) (d : Nat) (f : DieSt → DieSt) : (s.modDie d f).hist = s.hist := rfl
@[simp] theorem State.modDie_hostMem (s : State) (d : Nat) (f : DieSt → DieSt) : (s.modDie d f).hostMem = s.hostMem := rfl
@[simp] theorem State.modDie_regions (s : State) (d : Nat) (f : DieSt → DieSt) : (s.modDie d f).regions = s.regions := rfl
@[simp] theorem State.modDie_launches (s : State) (d : Nat) (f : DieSt → DieSt) : (s.modDie d f).launches = s.launches := rfl
@[simp] theorem State.modDie_groups (s : State) (d : Nat) (f : DieSt → DieSt) : (s.modDie d f).groups = s.groups := rfl
@[simp] theorem State.modDie_sweeps (s : State) (d : Nat) (f : DieSt → DieSt) : (s.modDie d f).sweeps = s.sweeps := rfl
@[simp] theorem State.modDie_host (s : State) (d : Nat) (f : DieSt → DieSt) : (s.modDie d f).host = s.host := rfl
@[simp] theorem State.modDie_fabric (s : State) (d : Nat) (f : DieSt → DieSt) : (s.modDie d f).fabric = s.fabric := rfl
@[simp] theorem State.modDie_ports (s : State) (d : Nat) (f : DieSt → DieSt) : (s.modDie d f).ports = s.ports := rfl
@[simp] theorem State.modDie_scanpri (s : State) (d : Nat) (f : DieSt → DieSt) : (s.modDie d f).scanpri = s.scanpri := rfl
@[simp] theorem State.modDie_plfloor (s : State) (d : Nat) (f : DieSt → DieSt) : (s.modDie d f).plfloor = s.plfloor := rfl
@[simp] theorem State.modDie_lineage (s : State) (d : Nat) (f : DieSt → DieSt) : (s.modDie d f).lineage = s.lineage := rfl
@[simp] theorem State.modDie_hostReply (s : State) (d : Nat) (f : DieSt → DieSt) : (s.modDie d f).hostReply = s.hostReply := rfl
@[simp] theorem State.modDie_owed (s : State) (d : Nat) (f : DieSt → DieSt) : (s.modDie d f).owed = s.owed := rfl
@[simp] theorem State.modDie_smbusAck (s : State) (d : Nat) (f : DieSt → DieSt) : (s.modDie d f).smbusAck = s.smbusAck := rfl
@[simp] theorem State.modDie_bounds (s : State) (d : Nat) (f : DieSt → DieSt) : (s.modDie d f).bounds = s.bounds := rfl
@[simp] theorem State.modDie_ended (s : State) (d : Nat) (f : DieSt → DieSt) : (s.modDie d f).ended = s.ended := rfl

/-! due -/

@[simp] theorem State.due_clock (s : State) (e : Ev) : (s.due e).clock = s.clock := rfl
@[simp] theorem State.due_timers (s : State) (e : Ev) : (s.due e).timers = s.timers := rfl
@[simp] theorem State.due_tick (s : State) (e : Ev) : (s.due e).tick = s.tick := rfl
@[simp] theorem State.due_cur (s : State) (e : Ev) : (s.due e).cur = s.cur := rfl
@[simp] theorem State.due_last (s : State) (e : Ev) : (s.due e).last = s.last := rfl
@[simp] theorem State.due_ids (s : State) (e : Ev) : (s.due e).ids = s.ids := rfl
@[simp] theorem State.due_power (s : State) (e : Ev) : (s.due e).power = s.power := rfl
@[simp] theorem State.due_thermtrip (s : State) (e : Ev) : (s.due e).thermtrip = s.thermtrip := rfl
@[simp] theorem State.due_slots (s : State) (e : Ev) : (s.due e).slots = s.slots := rfl
@[simp] theorem State.due_tasks (s : State) (e : Ev) : (s.due e).tasks = s.tasks := rfl
@[simp] theorem State.due_saved (s : State) (e : Ev) : (s.due e).saved = s.saved := rfl
@[simp] theorem State.due_cores (s : State) (e : Ev) : (s.due e).cores = s.cores := rfl
@[simp] theorem State.due_frames (s : State) (e : Ev) : (s.due e).frames = s.frames := rfl
@[simp] theorem State.due_barriers (s : State) (e : Ev) : (s.due e).barriers = s.barriers := rfl
@[simp] theorem State.due_rollers (s : State) (e : Ev) : (s.due e).rollers = s.rollers := rfl
@[simp] theorem State.due_copies (s : State) (e : Ev) : (s.due e).copies = s.copies := rfl
@[simp] theorem State.due_records (s : State) (e : Ev) : (s.due e).records = s.records := rfl
@[simp] theorem State.due_indexes (s : State) (e : Ev) : (s.due e).indexes = s.indexes := rfl
@[simp] theorem State.due_pins (s : State) (e : Ev) : (s.due e).pins = s.pins := rfl
@[simp] theorem State.due_dies (s : State) (e : Ev) : (s.due e).dies = s.dies := rfl
@[simp] theorem State.due_mem (s : State) (e : Ev) : (s.due e).mem = s.mem := rfl
@[simp] theorem State.due_full (s : State) (e : Ev) : (s.due e).full = s.full := rfl
@[simp] theorem State.due_poison (s : State) (e : Ev) : (s.due e).poison = s.poison := rfl
@[simp] theorem State.due_hist (s : State) (e : Ev) : (s.due e).hist = s.hist := rfl
@[simp] theorem State.due_hostMem (s : State) (e : Ev) : (s.due e).hostMem = s.hostMem := rfl
@[simp] theorem State.due_regions (s : State) (e : Ev) : (s.due e).regions = s.regions := rfl
@[simp] theorem State.due_launches (s : State) (e : Ev) : (s.due e).launches = s.launches := rfl
@[simp] theorem State.due_groups (s : State) (e : Ev) : (s.due e).groups = s.groups := rfl
@[simp] theorem State.due_sweeps (s : State) (e : Ev) : (s.due e).sweeps = s.sweeps := rfl
@[simp] theorem State.due_host (s : State) (e : Ev) : (s.due e).host = s.host := rfl
@[simp] theorem State.due_fabric (s : State) (e : Ev) : (s.due e).fabric = s.fabric := rfl
@[simp] theorem State.due_ports (s : State) (e : Ev) : (s.due e).ports = s.ports := rfl
@[simp] theorem State.due_scanpri (s : State) (e : Ev) : (s.due e).scanpri = s.scanpri := rfl
@[simp] theorem State.due_plfloor (s : State) (e : Ev) : (s.due e).plfloor = s.plfloor := rfl
@[simp] theorem State.due_lineage (s : State) (e : Ev) : (s.due e).lineage = s.lineage := rfl
@[simp] theorem State.due_hostReply (s : State) (e : Ev) : (s.due e).hostReply = s.hostReply := rfl
@[simp] theorem State.due_owed (s : State) (e : Ev) : (s.due e).owed = s.owed := rfl
@[simp] theorem State.due_smbusAck (s : State) (e : Ev) : (s.due e).smbusAck = s.smbusAck := rfl
@[simp] theorem State.due_bounds (s : State) (e : Ev) : (s.due e).bounds = s.bounds := rfl
@[simp] theorem State.due_ended (s : State) (e : Ev) : (s.due e).ended = s.ended := rfl

/-! dueBy -/

@[simp] theorem State.dueBy_clock (s : State) (t : Nat) (e : Ev) : (s.dueBy t e).clock = s.clock := rfl
@[simp] theorem State.dueBy_timers (s : State) (t : Nat) (e : Ev) : (s.dueBy t e).timers = s.timers := rfl
@[simp] theorem State.dueBy_tick (s : State) (t : Nat) (e : Ev) : (s.dueBy t e).tick = s.tick := rfl
@[simp] theorem State.dueBy_cur (s : State) (t : Nat) (e : Ev) : (s.dueBy t e).cur = s.cur := rfl
@[simp] theorem State.dueBy_last (s : State) (t : Nat) (e : Ev) : (s.dueBy t e).last = s.last := rfl
@[simp] theorem State.dueBy_ids (s : State) (t : Nat) (e : Ev) : (s.dueBy t e).ids = s.ids := rfl
@[simp] theorem State.dueBy_power (s : State) (t : Nat) (e : Ev) : (s.dueBy t e).power = s.power := rfl
@[simp] theorem State.dueBy_thermtrip (s : State) (t : Nat) (e : Ev) : (s.dueBy t e).thermtrip = s.thermtrip := rfl
@[simp] theorem State.dueBy_slots (s : State) (t : Nat) (e : Ev) : (s.dueBy t e).slots = s.slots := rfl
@[simp] theorem State.dueBy_tasks (s : State) (t : Nat) (e : Ev) : (s.dueBy t e).tasks = s.tasks := rfl
@[simp] theorem State.dueBy_saved (s : State) (t : Nat) (e : Ev) : (s.dueBy t e).saved = s.saved := rfl
@[simp] theorem State.dueBy_cores (s : State) (t : Nat) (e : Ev) : (s.dueBy t e).cores = s.cores := rfl
@[simp] theorem State.dueBy_frames (s : State) (t : Nat) (e : Ev) : (s.dueBy t e).frames = s.frames := rfl
@[simp] theorem State.dueBy_barriers (s : State) (t : Nat) (e : Ev) : (s.dueBy t e).barriers = s.barriers := rfl
@[simp] theorem State.dueBy_rollers (s : State) (t : Nat) (e : Ev) : (s.dueBy t e).rollers = s.rollers := rfl
@[simp] theorem State.dueBy_copies (s : State) (t : Nat) (e : Ev) : (s.dueBy t e).copies = s.copies := rfl
@[simp] theorem State.dueBy_records (s : State) (t : Nat) (e : Ev) : (s.dueBy t e).records = s.records := rfl
@[simp] theorem State.dueBy_indexes (s : State) (t : Nat) (e : Ev) : (s.dueBy t e).indexes = s.indexes := rfl
@[simp] theorem State.dueBy_pins (s : State) (t : Nat) (e : Ev) : (s.dueBy t e).pins = s.pins := rfl
@[simp] theorem State.dueBy_dies (s : State) (t : Nat) (e : Ev) : (s.dueBy t e).dies = s.dies := rfl
@[simp] theorem State.dueBy_mem (s : State) (t : Nat) (e : Ev) : (s.dueBy t e).mem = s.mem := rfl
@[simp] theorem State.dueBy_full (s : State) (t : Nat) (e : Ev) : (s.dueBy t e).full = s.full := rfl
@[simp] theorem State.dueBy_poison (s : State) (t : Nat) (e : Ev) : (s.dueBy t e).poison = s.poison := rfl
@[simp] theorem State.dueBy_hist (s : State) (t : Nat) (e : Ev) : (s.dueBy t e).hist = s.hist := rfl
@[simp] theorem State.dueBy_hostMem (s : State) (t : Nat) (e : Ev) : (s.dueBy t e).hostMem = s.hostMem := rfl
@[simp] theorem State.dueBy_regions (s : State) (t : Nat) (e : Ev) : (s.dueBy t e).regions = s.regions := rfl
@[simp] theorem State.dueBy_launches (s : State) (t : Nat) (e : Ev) : (s.dueBy t e).launches = s.launches := rfl
@[simp] theorem State.dueBy_groups (s : State) (t : Nat) (e : Ev) : (s.dueBy t e).groups = s.groups := rfl
@[simp] theorem State.dueBy_sweeps (s : State) (t : Nat) (e : Ev) : (s.dueBy t e).sweeps = s.sweeps := rfl
@[simp] theorem State.dueBy_host (s : State) (t : Nat) (e : Ev) : (s.dueBy t e).host = s.host := rfl
@[simp] theorem State.dueBy_fabric (s : State) (t : Nat) (e : Ev) : (s.dueBy t e).fabric = s.fabric := rfl
@[simp] theorem State.dueBy_ports (s : State) (t : Nat) (e : Ev) : (s.dueBy t e).ports = s.ports := rfl
@[simp] theorem State.dueBy_scanpri (s : State) (t : Nat) (e : Ev) : (s.dueBy t e).scanpri = s.scanpri := rfl
@[simp] theorem State.dueBy_plfloor (s : State) (t : Nat) (e : Ev) : (s.dueBy t e).plfloor = s.plfloor := rfl
@[simp] theorem State.dueBy_lineage (s : State) (t : Nat) (e : Ev) : (s.dueBy t e).lineage = s.lineage := rfl
@[simp] theorem State.dueBy_hostReply (s : State) (t : Nat) (e : Ev) : (s.dueBy t e).hostReply = s.hostReply := rfl
@[simp] theorem State.dueBy_owed (s : State) (t : Nat) (e : Ev) : (s.dueBy t e).owed = s.owed := rfl
@[simp] theorem State.dueBy_smbusAck (s : State) (t : Nat) (e : Ev) : (s.dueBy t e).smbusAck = s.smbusAck := rfl
@[simp] theorem State.dueBy_bounds (s : State) (t : Nat) (e : Ev) : (s.dueBy t e).bounds = s.bounds ++ [(t, e)] := rfl
@[simp] theorem State.dueBy_ended (s : State) (t : Nat) (e : Ev) : (s.dueBy t e).ended = s.ended := rfl

/-! timer -/

@[simp] theorem State.timer_clock (s : State) (t : Nat) (e : Ev) : (s.timer t e).clock = s.clock := rfl
@[simp] theorem State.timer_agenda (s : State) (t : Nat) (e : Ev) : (s.timer t e).agenda = s.agenda := rfl
@[simp] theorem State.timer_tick (s : State) (t : Nat) (e : Ev) : (s.timer t e).tick = s.tick := rfl
@[simp] theorem State.timer_cur (s : State) (t : Nat) (e : Ev) : (s.timer t e).cur = s.cur := rfl
@[simp] theorem State.timer_last (s : State) (t : Nat) (e : Ev) : (s.timer t e).last = s.last := rfl
@[simp] theorem State.timer_ids (s : State) (t : Nat) (e : Ev) : (s.timer t e).ids = s.ids := rfl
@[simp] theorem State.timer_power (s : State) (t : Nat) (e : Ev) : (s.timer t e).power = s.power := rfl
@[simp] theorem State.timer_thermtrip (s : State) (t : Nat) (e : Ev) : (s.timer t e).thermtrip = s.thermtrip := rfl
@[simp] theorem State.timer_slots (s : State) (t : Nat) (e : Ev) : (s.timer t e).slots = s.slots := rfl
@[simp] theorem State.timer_tasks (s : State) (t : Nat) (e : Ev) : (s.timer t e).tasks = s.tasks := rfl
@[simp] theorem State.timer_saved (s : State) (t : Nat) (e : Ev) : (s.timer t e).saved = s.saved := rfl
@[simp] theorem State.timer_cores (s : State) (t : Nat) (e : Ev) : (s.timer t e).cores = s.cores := rfl
@[simp] theorem State.timer_frames (s : State) (t : Nat) (e : Ev) : (s.timer t e).frames = s.frames := rfl
@[simp] theorem State.timer_barriers (s : State) (t : Nat) (e : Ev) : (s.timer t e).barriers = s.barriers := rfl
@[simp] theorem State.timer_rollers (s : State) (t : Nat) (e : Ev) : (s.timer t e).rollers = s.rollers := rfl
@[simp] theorem State.timer_copies (s : State) (t : Nat) (e : Ev) : (s.timer t e).copies = s.copies := rfl
@[simp] theorem State.timer_records (s : State) (t : Nat) (e : Ev) : (s.timer t e).records = s.records := rfl
@[simp] theorem State.timer_indexes (s : State) (t : Nat) (e : Ev) : (s.timer t e).indexes = s.indexes := rfl
@[simp] theorem State.timer_pins (s : State) (t : Nat) (e : Ev) : (s.timer t e).pins = s.pins := rfl
@[simp] theorem State.timer_dies (s : State) (t : Nat) (e : Ev) : (s.timer t e).dies = s.dies := rfl
@[simp] theorem State.timer_mem (s : State) (t : Nat) (e : Ev) : (s.timer t e).mem = s.mem := rfl
@[simp] theorem State.timer_full (s : State) (t : Nat) (e : Ev) : (s.timer t e).full = s.full := rfl
@[simp] theorem State.timer_poison (s : State) (t : Nat) (e : Ev) : (s.timer t e).poison = s.poison := rfl
@[simp] theorem State.timer_hist (s : State) (t : Nat) (e : Ev) : (s.timer t e).hist = s.hist := rfl
@[simp] theorem State.timer_hostMem (s : State) (t : Nat) (e : Ev) : (s.timer t e).hostMem = s.hostMem := rfl
@[simp] theorem State.timer_regions (s : State) (t : Nat) (e : Ev) : (s.timer t e).regions = s.regions := rfl
@[simp] theorem State.timer_launches (s : State) (t : Nat) (e : Ev) : (s.timer t e).launches = s.launches := rfl
@[simp] theorem State.timer_groups (s : State) (t : Nat) (e : Ev) : (s.timer t e).groups = s.groups := rfl
@[simp] theorem State.timer_sweeps (s : State) (t : Nat) (e : Ev) : (s.timer t e).sweeps = s.sweeps := rfl
@[simp] theorem State.timer_host (s : State) (t : Nat) (e : Ev) : (s.timer t e).host = s.host := rfl
@[simp] theorem State.timer_fabric (s : State) (t : Nat) (e : Ev) : (s.timer t e).fabric = s.fabric := rfl
@[simp] theorem State.timer_ports (s : State) (t : Nat) (e : Ev) : (s.timer t e).ports = s.ports := rfl
@[simp] theorem State.timer_scanpri (s : State) (t : Nat) (e : Ev) : (s.timer t e).scanpri = s.scanpri := rfl
@[simp] theorem State.timer_plfloor (s : State) (t : Nat) (e : Ev) : (s.timer t e).plfloor = s.plfloor := rfl
@[simp] theorem State.timer_lineage (s : State) (t : Nat) (e : Ev) : (s.timer t e).lineage = s.lineage := rfl
@[simp] theorem State.timer_hostReply (s : State) (t : Nat) (e : Ev) : (s.timer t e).hostReply = s.hostReply := rfl
@[simp] theorem State.timer_owed (s : State) (t : Nat) (e : Ev) : (s.timer t e).owed = s.owed := rfl
@[simp] theorem State.timer_smbusAck (s : State) (t : Nat) (e : Ev) : (s.timer t e).smbusAck = s.smbusAck := rfl
@[simp] theorem State.timer_bounds (s : State) (t : Nat) (e : Ev) : (s.timer t e).bounds = s.bounds := rfl
@[simp] theorem State.timer_ended (s : State) (t : Nat) (e : Ev) : (s.timer t e).ended = s.ended := rfl
@[simp] theorem State.timeout_clock (s : State) (n : Nat) (e : Ev) : (s.timeout n e).clock = s.clock := rfl
@[simp] theorem State.timeout_agenda (s : State) (n : Nat) (e : Ev) : (s.timeout n e).agenda = s.agenda := rfl
@[simp] theorem State.timeout_tick (s : State) (n : Nat) (e : Ev) : (s.timeout n e).tick = s.tick + 1 := rfl
@[simp] theorem State.timeout_cur (s : State) (n : Nat) (e : Ev) : (s.timeout n e).cur = s.cur := rfl
@[simp] theorem State.timeout_last (s : State) (n : Nat) (e : Ev) : (s.timeout n e).last = s.last := rfl
@[simp] theorem State.timeout_ids (s : State) (n : Nat) (e : Ev) : (s.timeout n e).ids = s.ids := rfl
@[simp] theorem State.timeout_power (s : State) (n : Nat) (e : Ev) : (s.timeout n e).power = s.power := rfl
@[simp] theorem State.timeout_thermtrip (s : State) (n : Nat) (e : Ev) : (s.timeout n e).thermtrip = s.thermtrip := rfl
@[simp] theorem State.timeout_slots (s : State) (n : Nat) (e : Ev) : (s.timeout n e).slots = s.slots := rfl
@[simp] theorem State.timeout_tasks (s : State) (n : Nat) (e : Ev) : (s.timeout n e).tasks = s.tasks := rfl
@[simp] theorem State.timeout_saved (s : State) (n : Nat) (e : Ev) : (s.timeout n e).saved = s.saved := rfl
@[simp] theorem State.timeout_cores (s : State) (n : Nat) (e : Ev) : (s.timeout n e).cores = s.cores := rfl
@[simp] theorem State.timeout_frames (s : State) (n : Nat) (e : Ev) : (s.timeout n e).frames = s.frames := rfl
@[simp] theorem State.timeout_barriers (s : State) (n : Nat) (e : Ev) : (s.timeout n e).barriers = s.barriers := rfl
@[simp] theorem State.timeout_rollers (s : State) (n : Nat) (e : Ev) : (s.timeout n e).rollers = s.rollers := rfl
@[simp] theorem State.timeout_copies (s : State) (n : Nat) (e : Ev) : (s.timeout n e).copies = s.copies := rfl
@[simp] theorem State.timeout_records (s : State) (n : Nat) (e : Ev) : (s.timeout n e).records = s.records := rfl
@[simp] theorem State.timeout_indexes (s : State) (n : Nat) (e : Ev) : (s.timeout n e).indexes = s.indexes := rfl
@[simp] theorem State.timeout_pins (s : State) (n : Nat) (e : Ev) : (s.timeout n e).pins = s.pins := rfl
@[simp] theorem State.timeout_dies (s : State) (n : Nat) (e : Ev) : (s.timeout n e).dies = s.dies := rfl
@[simp] theorem State.timeout_mem (s : State) (n : Nat) (e : Ev) : (s.timeout n e).mem = s.mem := rfl
@[simp] theorem State.timeout_full (s : State) (n : Nat) (e : Ev) : (s.timeout n e).full = s.full := rfl
@[simp] theorem State.timeout_poison (s : State) (n : Nat) (e : Ev) : (s.timeout n e).poison = s.poison := rfl
@[simp] theorem State.timeout_hist (s : State) (n : Nat) (e : Ev) : (s.timeout n e).hist = s.hist := rfl
@[simp] theorem State.timeout_hostMem (s : State) (n : Nat) (e : Ev) : (s.timeout n e).hostMem = s.hostMem := rfl
@[simp] theorem State.timeout_regions (s : State) (n : Nat) (e : Ev) : (s.timeout n e).regions = s.regions := rfl
@[simp] theorem State.timeout_launches (s : State) (n : Nat) (e : Ev) : (s.timeout n e).launches = s.launches := rfl
@[simp] theorem State.timeout_groups (s : State) (n : Nat) (e : Ev) : (s.timeout n e).groups = s.groups := rfl
@[simp] theorem State.timeout_sweeps (s : State) (n : Nat) (e : Ev) : (s.timeout n e).sweeps = s.sweeps := rfl
@[simp] theorem State.timeout_host (s : State) (n : Nat) (e : Ev) : (s.timeout n e).host = s.host := rfl
@[simp] theorem State.timeout_fabric (s : State) (n : Nat) (e : Ev) : (s.timeout n e).fabric = s.fabric := rfl
@[simp] theorem State.timeout_ports (s : State) (n : Nat) (e : Ev) : (s.timeout n e).ports = s.ports := rfl
@[simp] theorem State.timeout_scanpri (s : State) (n : Nat) (e : Ev) : (s.timeout n e).scanpri = s.scanpri := rfl
@[simp] theorem State.timeout_plfloor (s : State) (n : Nat) (e : Ev) : (s.timeout n e).plfloor = s.plfloor := rfl
@[simp] theorem State.timeout_lineage (s : State) (n : Nat) (e : Ev) : (s.timeout n e).lineage = s.lineage := rfl
@[simp] theorem State.timeout_hostReply (s : State) (n : Nat) (e : Ev) : (s.timeout n e).hostReply = s.hostReply := rfl
@[simp] theorem State.timeout_owed (s : State) (n : Nat) (e : Ev) : (s.timeout n e).owed = s.owed := rfl
@[simp] theorem State.timeout_smbusAck (s : State) (n : Nat) (e : Ev) : (s.timeout n e).smbusAck = s.smbusAck := rfl
@[simp] theorem State.timeout_bounds (s : State) (n : Nat) (e : Ev) : (s.timeout n e).bounds = s.bounds := rfl
@[simp] theorem State.timeout_ended (s : State) (n : Nat) (e : Ev) : (s.timeout n e).ended = s.ended := rfl

/-! fresh -/

@[simp] theorem State.fresh_fst (s : State) : s.fresh.1 = s.ids := rfl
@[simp] theorem State.fresh_clock (s : State) : s.fresh.2.clock = s.clock := rfl
@[simp] theorem State.fresh_agenda (s : State) : s.fresh.2.agenda = s.agenda := rfl
@[simp] theorem State.fresh_timers (s : State) : s.fresh.2.timers = s.timers := rfl
@[simp] theorem State.fresh_tick (s : State) : s.fresh.2.tick = s.tick := rfl
@[simp] theorem State.fresh_cur (s : State) : s.fresh.2.cur = s.cur := rfl
@[simp] theorem State.fresh_last (s : State) : s.fresh.2.last = s.last := rfl
@[simp] theorem State.fresh_ids (s : State) : s.fresh.2.ids = s.ids + 1 := rfl
@[simp] theorem State.fresh_power (s : State) : s.fresh.2.power = s.power := rfl
@[simp] theorem State.fresh_thermtrip (s : State) : s.fresh.2.thermtrip = s.thermtrip := rfl
@[simp] theorem State.fresh_slots (s : State) : s.fresh.2.slots = s.slots := rfl
@[simp] theorem State.fresh_tasks (s : State) : s.fresh.2.tasks = s.tasks := rfl
@[simp] theorem State.fresh_saved (s : State) : s.fresh.2.saved = s.saved := rfl
@[simp] theorem State.fresh_cores (s : State) : s.fresh.2.cores = s.cores := rfl
@[simp] theorem State.fresh_frames (s : State) : s.fresh.2.frames = s.frames := rfl
@[simp] theorem State.fresh_barriers (s : State) : s.fresh.2.barriers = s.barriers := rfl
@[simp] theorem State.fresh_rollers (s : State) : s.fresh.2.rollers = s.rollers := rfl
@[simp] theorem State.fresh_copies (s : State) : s.fresh.2.copies = s.copies := rfl
@[simp] theorem State.fresh_records (s : State) : s.fresh.2.records = s.records := rfl
@[simp] theorem State.fresh_indexes (s : State) : s.fresh.2.indexes = s.indexes := rfl
@[simp] theorem State.fresh_pins (s : State) : s.fresh.2.pins = s.pins := rfl
@[simp] theorem State.fresh_dies (s : State) : s.fresh.2.dies = s.dies := rfl
@[simp] theorem State.fresh_mem (s : State) : s.fresh.2.mem = s.mem := rfl
@[simp] theorem State.fresh_full (s : State) : s.fresh.2.full = s.full := rfl
@[simp] theorem State.fresh_poison (s : State) : s.fresh.2.poison = s.poison := rfl
@[simp] theorem State.fresh_hist (s : State) : s.fresh.2.hist = s.hist := rfl
@[simp] theorem State.fresh_hostMem (s : State) : s.fresh.2.hostMem = s.hostMem := rfl
@[simp] theorem State.fresh_regions (s : State) : s.fresh.2.regions = s.regions := rfl
@[simp] theorem State.fresh_launches (s : State) : s.fresh.2.launches = s.launches := rfl
@[simp] theorem State.fresh_groups (s : State) : s.fresh.2.groups = s.groups := rfl
@[simp] theorem State.fresh_sweeps (s : State) : s.fresh.2.sweeps = s.sweeps := rfl
@[simp] theorem State.fresh_host (s : State) : s.fresh.2.host = s.host := rfl
@[simp] theorem State.fresh_fabric (s : State) : s.fresh.2.fabric = s.fabric := rfl
@[simp] theorem State.fresh_ports (s : State) : s.fresh.2.ports = s.ports := rfl
@[simp] theorem State.fresh_scanpri (s : State) : s.fresh.2.scanpri = s.scanpri := rfl
@[simp] theorem State.fresh_plfloor (s : State) : s.fresh.2.plfloor = s.plfloor := rfl
@[simp] theorem State.fresh_lineage (s : State) : s.fresh.2.lineage = s.lineage := rfl
@[simp] theorem State.fresh_hostReply (s : State) : s.fresh.2.hostReply = s.hostReply := rfl
@[simp] theorem State.fresh_owed (s : State) : s.fresh.2.owed = s.owed := rfl
@[simp] theorem State.fresh_smbusAck (s : State) : s.fresh.2.smbusAck = s.smbusAck := rfl
@[simp] theorem State.fresh_bounds (s : State) : s.fresh.2.bounds = s.bounds := rfl
@[simp] theorem State.fresh_ended (s : State) : s.fresh.2.ended = s.ended := rfl

/-! Register writes. -/

@[simp] theorem Ctx.putX_cid (c : Ctx) (n : Fin 64) (w : Word) : (c.putX n w).cid = c.cid := by unfold Ctx.putX; split <;> rfl
@[simp] theorem Ctx.putX_inc (c : Ctx) (n : Fin 64) (w : Word) : (c.putX n w).inc = c.inc := by unfold Ctx.putX; split <;> rfl
@[simp] theorem Ctx.putX_task (c : Ctx) (n : Fin 64) (w : Word) : (c.putX n w).task = c.task := by unfold Ctx.putX; split <;> rfl
@[simp] theorem Ctx.putX_region (c : Ctx) (n : Fin 64) (w : Word) : (c.putX n w).region = c.region := by unfold Ctx.putX; split <;> rfl
@[simp] theorem Ctx.putX_pc (c : Ctx) (n : Fin 64) (w : Word) : (c.putX n w).pc = c.pc := by unfold Ctx.putX; split <;> rfl
@[simp] theorem Ctx.putX_npc (c : Ctx) (n : Fin 64) (w : Word) : (c.putX n w).npc = c.npc := by unfold Ctx.putX; split <;> rfl
@[simp] theorem Ctx.putX_v (c : Ctx) (n : Fin 64) (w : Word) : (c.putX n w).v = c.v := by unfold Ctx.putX; split <;> rfl
@[simp] theorem Ctx.putX_m (c : Ctx) (n : Fin 64) (w : Word) : (c.putX n w).m = c.m := by unfold Ctx.putX; split <;> rfl
@[simp] theorem Ctx.putX_vfe (c : Ctx) (n : Fin 64) (w : Word) : (c.putX n w).vfe = c.vfe := by unfold Ctx.putX; split <;> rfl
@[simp] theorem Ctx.putX_mfe (c : Ctx) (n : Fin 64) (w : Word) : (c.putX n w).mfe = c.mfe := by unfold Ctx.putX; split <;> rfl
@[simp] theorem Ctx.putX_pend (c : Ctx) (n : Fin 64) (w : Word) : (c.putX n w).pend = c.pend := by unfold Ctx.putX; split <;> rfl
@[simp] theorem Ctx.putX_rfq (c : Ctx) (n : Fin 64) (w : Word) : (c.putX n w).rfq = c.rfq := by unfold Ctx.putX; split <;> rfl
@[simp] theorem Ctx.putX_d (c : Ctx) (n : Fin 64) (w : Word) : (c.putX n w).d = c.d := by unfold Ctx.putX; split <;> rfl
@[simp] theorem Ctx.putX_j (c : Ctx) (n : Fin 64) (w : Word) : (c.putX n w).j = c.j := by unfold Ctx.putX; split <;> rfl
@[simp] theorem Ctx.putX_o (c : Ctx) (n : Fin 64) (w : Word) : (c.putX n w).o = c.o := by unfold Ctx.putX; split <;> rfl
@[simp] theorem Ctx.putX_loops (c : Ctx) (n : Fin 64) (w : Word) : (c.putX n w).loops = c.loops := by unfold Ctx.putX; split <;> rfl
@[simp] theorem Ctx.putX_vtype (c : Ctx) (n : Fin 64) (w : Word) : (c.putX n w).vtype = c.vtype := by unfold Ctx.putX; split <;> rfl
@[simp] theorem Ctx.putX_cb (c : Ctx) (n : Fin 64) (w : Word) : (c.putX n w).cb = c.cb := by unfold Ctx.putX; split <;> rfl
@[simp] theorem Ctx.putX_te (c : Ctx) (n : Fin 64) (w : Word) : (c.putX n w).te = c.te := by unfold Ctx.putX; split <;> rfl
@[simp] theorem Ctx.putX_wlim (c : Ctx) (n : Fin 64) (w : Word) : (c.putX n w).wlim = c.wlim := by unfold Ctx.putX; split <;> rfl
@[simp] theorem Ctx.putX_gstat (c : Ctx) (n : Fin 64) (w : Word) : (c.putX n w).gstat = c.gstat := by unfold Ctx.putX; split <;> rfl
@[simp] theorem Ctx.putX_rstat (c : Ctx) (n : Fin 64) (w : Word) : (c.putX n w).rstat = c.rstat := by unfold Ctx.putX; split <;> rfl
@[simp] theorem Ctx.putX_icount (c : Ctx) (n : Fin 64) (w : Word) : (c.putX n w).icount = c.icount := by unfold Ctx.putX; split <;> rfl
@[simp] theorem Ctx.putX_plumb (c : Ctx) (n : Fin 64) (w : Word) : (c.putX n w).plumb = c.plumb := by unfold Ctx.putX; split <;> rfl
@[simp] theorem Ctx.putX_tstat (c : Ctx) (n : Fin 64) (w : Word) : (c.putX n w).tstat = c.tstat := by unfold Ctx.putX; split <;> rfl
@[simp] theorem Ctx.putX_tepc (c : Ctx) (n : Fin 64) (w : Word) : (c.putX n w).tepc = c.tepc := by unfold Ctx.putX; split <;> rfl
@[simp] theorem Ctx.putX_tcause (c : Ctx) (n : Fin 64) (w : Word) : (c.putX n w).tcause = c.tcause := by unfold Ctx.putX; split <;> rfl
@[simp] theorem Ctx.putX_tval (c : Ctx) (n : Fin 64) (w : Word) : (c.putX n w).tval = c.tval := by unfold Ctx.putX; split <;> rfl
@[simp] theorem Ctx.putX_tlpc (c : Ctx) (n : Fin 64) (w : Word) : (c.putX n w).tlpc = c.tlpc := by unfold Ctx.putX; split <;> rfl
@[simp] theorem Ctx.putX_tscr (c : Ctx) (n : Fin 64) (w : Word) : (c.putX n w).tscr = c.tscr := by unfold Ctx.putX; split <;> rfl
@[simp] theorem Ctx.putX_evt (c : Ctx) (n : Fin 64) (w : Word) : (c.putX n w).evt = c.evt := by unfold Ctx.putX; split <;> rfl
@[simp] theorem Ctx.putX_level (c : Ctx) (n : Fin 64) (w : Word) : (c.putX n w).level = c.level := by unfold Ctx.putX; split <;> rfl
@[simp] theorem Ctx.putX_run (c : Ctx) (n : Fin 64) (w : Word) : (c.putX n w).run = c.run := by unfold Ctx.putX; split <;> rfl
@[simp] theorem Ctx.putX_wait (c : Ctx) (n : Fin 64) (w : Word) : (c.putX n w).wait = c.wait := by unfold Ctx.putX; split <;> rfl
@[simp] theorem Ctx.putX_tags (c : Ctx) (n : Fin 64) (w : Word) : (c.putX n w).tags = c.tags := by unfold Ctx.putX; split <;> rfl
@[simp] theorem Ctx.putX_seq (c : Ctx) (n : Fin 64) (w : Word) : (c.putX n w).seq = c.seq := by unfold Ctx.putX; split <;> rfl
@[simp] theorem Ctx.putX_loads (c : Ctx) (n : Fin 64) (w : Word) : (c.putX n w).loads = c.loads := by unfold Ctx.putX; split <;> rfl
@[simp] theorem Ctx.putX_stores (c : Ctx) (n : Fin 64) (w : Word) : (c.putX n w).stores = c.stores := by unfold Ctx.putX; split <;> rfl
@[simp] theorem Ctx.putX_strong (c : Ctx) (n : Fin 64) (w : Word) : (c.putX n w).strong = c.strong := by unfold Ctx.putX; split <;> rfl
@[simp] theorem Ctx.putX_outer (c : Ctx) (n : Fin 64) (w : Word) : (c.putX n w).outer = c.outer := by unfold Ctx.putX; split <;> rfl
@[simp] theorem Ctx.putX_lfaults (c : Ctx) (n : Fin 64) (w : Word) : (c.putX n w).lfaults = c.lfaults := by unfold Ctx.putX; split <;> rfl
@[simp] theorem Ctx.putX_sfaults (c : Ctx) (n : Fin 64) (w : Word) : (c.putX n w).sfaults = c.sfaults := by unfold Ctx.putX; split <;> rfl
@[simp] theorem Ctx.putX_got (c : Ctx) (n : Fin 64) (w : Word) : (c.putX n w).got = c.got := by unfold Ctx.putX; split <;> rfl
@[simp] theorem Ctx.putX_blk (c : Ctx) (n : Fin 64) (w : Word) : (c.putX n w).blk = c.blk := by unfold Ctx.putX; split <;> rfl
@[simp] theorem Ctx.putX_kept (c : Ctx) (n : Fin 64) (w : Word) : (c.putX n w).kept = c.kept := by unfold Ctx.putX; split <;> rfl
@[simp] theorem Ctx.putX_feed (c : Ctx) (n : Fin 64) (w : Word) : (c.putX n w).feed = c.feed := by unfold Ctx.putX; split <;> rfl
@[simp] theorem Ctx.putX_fe (c : Ctx) (n : Fin 64) (w : Word) : (c.putX n w).fe = c.fe := by unfold Ctx.putX; split <;> rfl
@[simp] theorem Ctx.putX_barrier (c : Ctx) (n : Fin 64) (w : Word) : (c.putX n w).barrier = c.barrier := by unfold Ctx.putX; split <;> rfl
@[simp] theorem Ctx.putX_yieldTo (c : Ctx) (n : Fin 64) (w : Word) : (c.putX n w).yieldTo = c.yieldTo := by unfold Ctx.putX; split <;> rfl
@[simp] theorem Ctx.putX_wfeStart (c : Ctx) (n : Fin 64) (w : Word) : (c.putX n w).wfeStart = c.wfeStart := by unfold Ctx.putX; split <;> rfl
@[simp] theorem Ctx.putX_remote (c : Ctx) (n : Fin 64) (w : Word) : (c.putX n w).remote = c.remote := by unfold Ctx.putX; split <;> rfl
@[simp] theorem Ctx.putX_query (c : Ctx) (n : Fin 64) (w : Word) : (c.putX n w).query = c.query := by unfold Ctx.putX; split <;> rfl
@[simp] theorem Ctx.putX_mig (c : Ctx) (n : Fin 64) (w : Word) : (c.putX n w).mig = c.mig := by unfold Ctx.putX; split <;> rfl
@[simp] theorem Ctx.putX_stage (c : Ctx) (n : Fin 64) (w : Word) : (c.putX n w).stage = c.stage := by unfold Ctx.putX; split <;> rfl
@[simp] theorem Ctx.putX_replay (c : Ctx) (n : Fin 64) (w : Word) : (c.putX n w).replay = c.replay := by unfold Ctx.putX; split <;> rfl
@[simp] theorem Ctx.putX_answer (c : Ctx) (n : Fin 64) (w : Word) : (c.putX n w).answer = c.answer := by unfold Ctx.putX; split <;> rfl
@[simp] theorem Ctx.putX_done (c : Ctx) (n : Fin 64) (w : Word) : (c.putX n w).done = c.done := by unfold Ctx.putX; split <;> rfl
@[simp] theorem Ctx.putX_save (c : Ctx) (n : Fin 64) (w : Word) : (c.putX n w).save = c.save := by unfold Ctx.putX; split <;> rfl
@[simp] theorem Ctx.putX_doom (c : Ctx) (n : Fin 64) (w : Word) : (c.putX n w).doom = c.doom := by unfold Ctx.putX; split <;> rfl
@[simp] theorem Ctx.putX_sig (c : Ctx) (n : Fin 64) (w : Word) : (c.putX n w).sig = c.sig := by unfold Ctx.putX; split <;> rfl
@[simp] theorem Ctx.putX_lone (c : Ctx) (n : Fin 64) (w : Word) : (c.putX n w).lone = c.lone := by unfold Ctx.putX; split <;> rfl
@[simp] theorem Ctx.putX_pxch (c : Ctx) (n : Fin 64) (w : Word) : (c.putX n w).pxch = c.pxch := by unfold Ctx.putX; split <;> rfl
@[simp] theorem Ctx.putX_landed (c : Ctx) (n : Fin 64) (w : Word) : (c.putX n w).landed = c.landed := by unfold Ctx.putX; split <;> rfl
@[simp] theorem Ctx.putX_ifnc (c : Ctx) (n : Fin 64) (w : Word) : (c.putX n w).ifnc = c.ifnc := by unfold Ctx.putX; split <;> rfl

@[simp] theorem Ctx.putM_cid (c : Ctx) (n : Fin 8) (w : MWord) : (c.putM n w).cid = c.cid := by unfold Ctx.putM; split <;> rfl
@[simp] theorem Ctx.putM_inc (c : Ctx) (n : Fin 8) (w : MWord) : (c.putM n w).inc = c.inc := by unfold Ctx.putM; split <;> rfl
@[simp] theorem Ctx.putM_task (c : Ctx) (n : Fin 8) (w : MWord) : (c.putM n w).task = c.task := by unfold Ctx.putM; split <;> rfl
@[simp] theorem Ctx.putM_region (c : Ctx) (n : Fin 8) (w : MWord) : (c.putM n w).region = c.region := by unfold Ctx.putM; split <;> rfl
@[simp] theorem Ctx.putM_pc (c : Ctx) (n : Fin 8) (w : MWord) : (c.putM n w).pc = c.pc := by unfold Ctx.putM; split <;> rfl
@[simp] theorem Ctx.putM_npc (c : Ctx) (n : Fin 8) (w : MWord) : (c.putM n w).npc = c.npc := by unfold Ctx.putM; split <;> rfl
@[simp] theorem Ctx.putM_x (c : Ctx) (n : Fin 8) (w : MWord) : (c.putM n w).x = c.x := by unfold Ctx.putM; split <;> rfl
@[simp] theorem Ctx.putM_v (c : Ctx) (n : Fin 8) (w : MWord) : (c.putM n w).v = c.v := by unfold Ctx.putM; split <;> rfl
@[simp] theorem Ctx.putM_xfe (c : Ctx) (n : Fin 8) (w : MWord) : (c.putM n w).xfe = c.xfe := by unfold Ctx.putM; split <;> rfl
@[simp] theorem Ctx.putM_vfe (c : Ctx) (n : Fin 8) (w : MWord) : (c.putM n w).vfe = c.vfe := by unfold Ctx.putM; split <;> rfl
@[simp] theorem Ctx.putM_pend (c : Ctx) (n : Fin 8) (w : MWord) : (c.putM n w).pend = c.pend := by unfold Ctx.putM; split <;> rfl
@[simp] theorem Ctx.putM_rfq (c : Ctx) (n : Fin 8) (w : MWord) : (c.putM n w).rfq = c.rfq := by unfold Ctx.putM; split <;> rfl
@[simp] theorem Ctx.putM_d (c : Ctx) (n : Fin 8) (w : MWord) : (c.putM n w).d = c.d := by unfold Ctx.putM; split <;> rfl
@[simp] theorem Ctx.putM_j (c : Ctx) (n : Fin 8) (w : MWord) : (c.putM n w).j = c.j := by unfold Ctx.putM; split <;> rfl
@[simp] theorem Ctx.putM_o (c : Ctx) (n : Fin 8) (w : MWord) : (c.putM n w).o = c.o := by unfold Ctx.putM; split <;> rfl
@[simp] theorem Ctx.putM_loops (c : Ctx) (n : Fin 8) (w : MWord) : (c.putM n w).loops = c.loops := by unfold Ctx.putM; split <;> rfl
@[simp] theorem Ctx.putM_vtype (c : Ctx) (n : Fin 8) (w : MWord) : (c.putM n w).vtype = c.vtype := by unfold Ctx.putM; split <;> rfl
@[simp] theorem Ctx.putM_cb (c : Ctx) (n : Fin 8) (w : MWord) : (c.putM n w).cb = c.cb := by unfold Ctx.putM; split <;> rfl
@[simp] theorem Ctx.putM_te (c : Ctx) (n : Fin 8) (w : MWord) : (c.putM n w).te = c.te := by unfold Ctx.putM; split <;> rfl
@[simp] theorem Ctx.putM_wlim (c : Ctx) (n : Fin 8) (w : MWord) : (c.putM n w).wlim = c.wlim := by unfold Ctx.putM; split <;> rfl
@[simp] theorem Ctx.putM_gstat (c : Ctx) (n : Fin 8) (w : MWord) : (c.putM n w).gstat = c.gstat := by unfold Ctx.putM; split <;> rfl
@[simp] theorem Ctx.putM_rstat (c : Ctx) (n : Fin 8) (w : MWord) : (c.putM n w).rstat = c.rstat := by unfold Ctx.putM; split <;> rfl
@[simp] theorem Ctx.putM_icount (c : Ctx) (n : Fin 8) (w : MWord) : (c.putM n w).icount = c.icount := by unfold Ctx.putM; split <;> rfl
@[simp] theorem Ctx.putM_plumb (c : Ctx) (n : Fin 8) (w : MWord) : (c.putM n w).plumb = c.plumb := by unfold Ctx.putM; split <;> rfl
@[simp] theorem Ctx.putM_tstat (c : Ctx) (n : Fin 8) (w : MWord) : (c.putM n w).tstat = c.tstat := by unfold Ctx.putM; split <;> rfl
@[simp] theorem Ctx.putM_tepc (c : Ctx) (n : Fin 8) (w : MWord) : (c.putM n w).tepc = c.tepc := by unfold Ctx.putM; split <;> rfl
@[simp] theorem Ctx.putM_tcause (c : Ctx) (n : Fin 8) (w : MWord) : (c.putM n w).tcause = c.tcause := by unfold Ctx.putM; split <;> rfl
@[simp] theorem Ctx.putM_tval (c : Ctx) (n : Fin 8) (w : MWord) : (c.putM n w).tval = c.tval := by unfold Ctx.putM; split <;> rfl
@[simp] theorem Ctx.putM_tlpc (c : Ctx) (n : Fin 8) (w : MWord) : (c.putM n w).tlpc = c.tlpc := by unfold Ctx.putM; split <;> rfl
@[simp] theorem Ctx.putM_tscr (c : Ctx) (n : Fin 8) (w : MWord) : (c.putM n w).tscr = c.tscr := by unfold Ctx.putM; split <;> rfl
@[simp] theorem Ctx.putM_evt (c : Ctx) (n : Fin 8) (w : MWord) : (c.putM n w).evt = c.evt := by unfold Ctx.putM; split <;> rfl
@[simp] theorem Ctx.putM_level (c : Ctx) (n : Fin 8) (w : MWord) : (c.putM n w).level = c.level := by unfold Ctx.putM; split <;> rfl
@[simp] theorem Ctx.putM_run (c : Ctx) (n : Fin 8) (w : MWord) : (c.putM n w).run = c.run := by unfold Ctx.putM; split <;> rfl
@[simp] theorem Ctx.putM_wait (c : Ctx) (n : Fin 8) (w : MWord) : (c.putM n w).wait = c.wait := by unfold Ctx.putM; split <;> rfl
@[simp] theorem Ctx.putM_tags (c : Ctx) (n : Fin 8) (w : MWord) : (c.putM n w).tags = c.tags := by unfold Ctx.putM; split <;> rfl
@[simp] theorem Ctx.putM_seq (c : Ctx) (n : Fin 8) (w : MWord) : (c.putM n w).seq = c.seq := by unfold Ctx.putM; split <;> rfl
@[simp] theorem Ctx.putM_loads (c : Ctx) (n : Fin 8) (w : MWord) : (c.putM n w).loads = c.loads := by unfold Ctx.putM; split <;> rfl
@[simp] theorem Ctx.putM_stores (c : Ctx) (n : Fin 8) (w : MWord) : (c.putM n w).stores = c.stores := by unfold Ctx.putM; split <;> rfl
@[simp] theorem Ctx.putM_strong (c : Ctx) (n : Fin 8) (w : MWord) : (c.putM n w).strong = c.strong := by unfold Ctx.putM; split <;> rfl
@[simp] theorem Ctx.putM_outer (c : Ctx) (n : Fin 8) (w : MWord) : (c.putM n w).outer = c.outer := by unfold Ctx.putM; split <;> rfl
@[simp] theorem Ctx.putM_lfaults (c : Ctx) (n : Fin 8) (w : MWord) : (c.putM n w).lfaults = c.lfaults := by unfold Ctx.putM; split <;> rfl
@[simp] theorem Ctx.putM_sfaults (c : Ctx) (n : Fin 8) (w : MWord) : (c.putM n w).sfaults = c.sfaults := by unfold Ctx.putM; split <;> rfl
@[simp] theorem Ctx.putM_got (c : Ctx) (n : Fin 8) (w : MWord) : (c.putM n w).got = c.got := by unfold Ctx.putM; split <;> rfl
@[simp] theorem Ctx.putM_blk (c : Ctx) (n : Fin 8) (w : MWord) : (c.putM n w).blk = c.blk := by unfold Ctx.putM; split <;> rfl
@[simp] theorem Ctx.putM_kept (c : Ctx) (n : Fin 8) (w : MWord) : (c.putM n w).kept = c.kept := by unfold Ctx.putM; split <;> rfl
@[simp] theorem Ctx.putM_feed (c : Ctx) (n : Fin 8) (w : MWord) : (c.putM n w).feed = c.feed := by unfold Ctx.putM; split <;> rfl
@[simp] theorem Ctx.putM_fe (c : Ctx) (n : Fin 8) (w : MWord) : (c.putM n w).fe = c.fe := by unfold Ctx.putM; split <;> rfl
@[simp] theorem Ctx.putM_barrier (c : Ctx) (n : Fin 8) (w : MWord) : (c.putM n w).barrier = c.barrier := by unfold Ctx.putM; split <;> rfl
@[simp] theorem Ctx.putM_yieldTo (c : Ctx) (n : Fin 8) (w : MWord) : (c.putM n w).yieldTo = c.yieldTo := by unfold Ctx.putM; split <;> rfl
@[simp] theorem Ctx.putM_wfeStart (c : Ctx) (n : Fin 8) (w : MWord) : (c.putM n w).wfeStart = c.wfeStart := by unfold Ctx.putM; split <;> rfl
@[simp] theorem Ctx.putM_remote (c : Ctx) (n : Fin 8) (w : MWord) : (c.putM n w).remote = c.remote := by unfold Ctx.putM; split <;> rfl
@[simp] theorem Ctx.putM_query (c : Ctx) (n : Fin 8) (w : MWord) : (c.putM n w).query = c.query := by unfold Ctx.putM; split <;> rfl
@[simp] theorem Ctx.putM_mig (c : Ctx) (n : Fin 8) (w : MWord) : (c.putM n w).mig = c.mig := by unfold Ctx.putM; split <;> rfl
@[simp] theorem Ctx.putM_stage (c : Ctx) (n : Fin 8) (w : MWord) : (c.putM n w).stage = c.stage := by unfold Ctx.putM; split <;> rfl
@[simp] theorem Ctx.putM_replay (c : Ctx) (n : Fin 8) (w : MWord) : (c.putM n w).replay = c.replay := by unfold Ctx.putM; split <;> rfl
@[simp] theorem Ctx.putM_answer (c : Ctx) (n : Fin 8) (w : MWord) : (c.putM n w).answer = c.answer := by unfold Ctx.putM; split <;> rfl
@[simp] theorem Ctx.putM_done (c : Ctx) (n : Fin 8) (w : MWord) : (c.putM n w).done = c.done := by unfold Ctx.putM; split <;> rfl
@[simp] theorem Ctx.putM_save (c : Ctx) (n : Fin 8) (w : MWord) : (c.putM n w).save = c.save := by unfold Ctx.putM; split <;> rfl
@[simp] theorem Ctx.putM_doom (c : Ctx) (n : Fin 8) (w : MWord) : (c.putM n w).doom = c.doom := by unfold Ctx.putM; split <;> rfl
@[simp] theorem Ctx.putM_sig (c : Ctx) (n : Fin 8) (w : MWord) : (c.putM n w).sig = c.sig := by unfold Ctx.putM; split <;> rfl
@[simp] theorem Ctx.putM_lone (c : Ctx) (n : Fin 8) (w : MWord) : (c.putM n w).lone = c.lone := by unfold Ctx.putM; split <;> rfl
@[simp] theorem Ctx.putM_pxch (c : Ctx) (n : Fin 8) (w : MWord) : (c.putM n w).pxch = c.pxch := by unfold Ctx.putM; split <;> rfl
@[simp] theorem Ctx.putM_landed (c : Ctx) (n : Fin 8) (w : MWord) : (c.putM n w).landed = c.landed := by unfold Ctx.putM; split <;> rfl
@[simp] theorem Ctx.putM_ifnc (c : Ctx) (n : Fin 8) (w : MWord) : (c.putM n w).ifnc = c.ifnc := by unfold Ctx.putM; split <;> rfl

@[simp] theorem Ctx.putV_cid (c : Ctx) (n : Fin 16) (w : VWord) : (c.putV n w).cid = c.cid := rfl
@[simp] theorem Ctx.putV_inc (c : Ctx) (n : Fin 16) (w : VWord) : (c.putV n w).inc = c.inc := rfl
@[simp] theorem Ctx.putV_task (c : Ctx) (n : Fin 16) (w : VWord) : (c.putV n w).task = c.task := rfl
@[simp] theorem Ctx.putV_region (c : Ctx) (n : Fin 16) (w : VWord) : (c.putV n w).region = c.region := rfl
@[simp] theorem Ctx.putV_pc (c : Ctx) (n : Fin 16) (w : VWord) : (c.putV n w).pc = c.pc := rfl
@[simp] theorem Ctx.putV_npc (c : Ctx) (n : Fin 16) (w : VWord) : (c.putV n w).npc = c.npc := rfl
@[simp] theorem Ctx.putV_x (c : Ctx) (n : Fin 16) (w : VWord) : (c.putV n w).x = c.x := rfl
@[simp] theorem Ctx.putV_m (c : Ctx) (n : Fin 16) (w : VWord) : (c.putV n w).m = c.m := rfl
@[simp] theorem Ctx.putV_xfe (c : Ctx) (n : Fin 16) (w : VWord) : (c.putV n w).xfe = c.xfe := rfl
@[simp] theorem Ctx.putV_mfe (c : Ctx) (n : Fin 16) (w : VWord) : (c.putV n w).mfe = c.mfe := rfl
@[simp] theorem Ctx.putV_pend (c : Ctx) (n : Fin 16) (w : VWord) : (c.putV n w).pend = c.pend := rfl
@[simp] theorem Ctx.putV_rfq (c : Ctx) (n : Fin 16) (w : VWord) : (c.putV n w).rfq = c.rfq := rfl
@[simp] theorem Ctx.putV_d (c : Ctx) (n : Fin 16) (w : VWord) : (c.putV n w).d = c.d := rfl
@[simp] theorem Ctx.putV_j (c : Ctx) (n : Fin 16) (w : VWord) : (c.putV n w).j = c.j := rfl
@[simp] theorem Ctx.putV_o (c : Ctx) (n : Fin 16) (w : VWord) : (c.putV n w).o = c.o := rfl
@[simp] theorem Ctx.putV_loops (c : Ctx) (n : Fin 16) (w : VWord) : (c.putV n w).loops = c.loops := rfl
@[simp] theorem Ctx.putV_vtype (c : Ctx) (n : Fin 16) (w : VWord) : (c.putV n w).vtype = c.vtype := rfl
@[simp] theorem Ctx.putV_cb (c : Ctx) (n : Fin 16) (w : VWord) : (c.putV n w).cb = c.cb := rfl
@[simp] theorem Ctx.putV_te (c : Ctx) (n : Fin 16) (w : VWord) : (c.putV n w).te = c.te := rfl
@[simp] theorem Ctx.putV_wlim (c : Ctx) (n : Fin 16) (w : VWord) : (c.putV n w).wlim = c.wlim := rfl
@[simp] theorem Ctx.putV_gstat (c : Ctx) (n : Fin 16) (w : VWord) : (c.putV n w).gstat = c.gstat := rfl
@[simp] theorem Ctx.putV_rstat (c : Ctx) (n : Fin 16) (w : VWord) : (c.putV n w).rstat = c.rstat := rfl
@[simp] theorem Ctx.putV_icount (c : Ctx) (n : Fin 16) (w : VWord) : (c.putV n w).icount = c.icount := rfl
@[simp] theorem Ctx.putV_plumb (c : Ctx) (n : Fin 16) (w : VWord) : (c.putV n w).plumb = c.plumb := rfl
@[simp] theorem Ctx.putV_tstat (c : Ctx) (n : Fin 16) (w : VWord) : (c.putV n w).tstat = c.tstat := rfl
@[simp] theorem Ctx.putV_tepc (c : Ctx) (n : Fin 16) (w : VWord) : (c.putV n w).tepc = c.tepc := rfl
@[simp] theorem Ctx.putV_tcause (c : Ctx) (n : Fin 16) (w : VWord) : (c.putV n w).tcause = c.tcause := rfl
@[simp] theorem Ctx.putV_tval (c : Ctx) (n : Fin 16) (w : VWord) : (c.putV n w).tval = c.tval := rfl
@[simp] theorem Ctx.putV_tlpc (c : Ctx) (n : Fin 16) (w : VWord) : (c.putV n w).tlpc = c.tlpc := rfl
@[simp] theorem Ctx.putV_tscr (c : Ctx) (n : Fin 16) (w : VWord) : (c.putV n w).tscr = c.tscr := rfl
@[simp] theorem Ctx.putV_evt (c : Ctx) (n : Fin 16) (w : VWord) : (c.putV n w).evt = c.evt := rfl
@[simp] theorem Ctx.putV_level (c : Ctx) (n : Fin 16) (w : VWord) : (c.putV n w).level = c.level := rfl
@[simp] theorem Ctx.putV_run (c : Ctx) (n : Fin 16) (w : VWord) : (c.putV n w).run = c.run := rfl
@[simp] theorem Ctx.putV_wait (c : Ctx) (n : Fin 16) (w : VWord) : (c.putV n w).wait = c.wait := rfl
@[simp] theorem Ctx.putV_tags (c : Ctx) (n : Fin 16) (w : VWord) : (c.putV n w).tags = c.tags := rfl
@[simp] theorem Ctx.putV_seq (c : Ctx) (n : Fin 16) (w : VWord) : (c.putV n w).seq = c.seq := rfl
@[simp] theorem Ctx.putV_loads (c : Ctx) (n : Fin 16) (w : VWord) : (c.putV n w).loads = c.loads := rfl
@[simp] theorem Ctx.putV_stores (c : Ctx) (n : Fin 16) (w : VWord) : (c.putV n w).stores = c.stores := rfl
@[simp] theorem Ctx.putV_strong (c : Ctx) (n : Fin 16) (w : VWord) : (c.putV n w).strong = c.strong := rfl
@[simp] theorem Ctx.putV_outer (c : Ctx) (n : Fin 16) (w : VWord) : (c.putV n w).outer = c.outer := rfl
@[simp] theorem Ctx.putV_lfaults (c : Ctx) (n : Fin 16) (w : VWord) : (c.putV n w).lfaults = c.lfaults := rfl
@[simp] theorem Ctx.putV_sfaults (c : Ctx) (n : Fin 16) (w : VWord) : (c.putV n w).sfaults = c.sfaults := rfl
@[simp] theorem Ctx.putV_got (c : Ctx) (n : Fin 16) (w : VWord) : (c.putV n w).got = c.got := rfl
@[simp] theorem Ctx.putV_blk (c : Ctx) (n : Fin 16) (w : VWord) : (c.putV n w).blk = c.blk := rfl
@[simp] theorem Ctx.putV_kept (c : Ctx) (n : Fin 16) (w : VWord) : (c.putV n w).kept = c.kept := rfl
@[simp] theorem Ctx.putV_feed (c : Ctx) (n : Fin 16) (w : VWord) : (c.putV n w).feed = c.feed := rfl
@[simp] theorem Ctx.putV_fe (c : Ctx) (n : Fin 16) (w : VWord) : (c.putV n w).fe = c.fe := rfl
@[simp] theorem Ctx.putV_barrier (c : Ctx) (n : Fin 16) (w : VWord) : (c.putV n w).barrier = c.barrier := rfl
@[simp] theorem Ctx.putV_yieldTo (c : Ctx) (n : Fin 16) (w : VWord) : (c.putV n w).yieldTo = c.yieldTo := rfl
@[simp] theorem Ctx.putV_wfeStart (c : Ctx) (n : Fin 16) (w : VWord) : (c.putV n w).wfeStart = c.wfeStart := rfl
@[simp] theorem Ctx.putV_remote (c : Ctx) (n : Fin 16) (w : VWord) : (c.putV n w).remote = c.remote := rfl
@[simp] theorem Ctx.putV_query (c : Ctx) (n : Fin 16) (w : VWord) : (c.putV n w).query = c.query := rfl
@[simp] theorem Ctx.putV_mig (c : Ctx) (n : Fin 16) (w : VWord) : (c.putV n w).mig = c.mig := rfl
@[simp] theorem Ctx.putV_stage (c : Ctx) (n : Fin 16) (w : VWord) : (c.putV n w).stage = c.stage := rfl
@[simp] theorem Ctx.putV_replay (c : Ctx) (n : Fin 16) (w : VWord) : (c.putV n w).replay = c.replay := rfl
@[simp] theorem Ctx.putV_answer (c : Ctx) (n : Fin 16) (w : VWord) : (c.putV n w).answer = c.answer := rfl
@[simp] theorem Ctx.putV_done (c : Ctx) (n : Fin 16) (w : VWord) : (c.putV n w).done = c.done := rfl
@[simp] theorem Ctx.putV_save (c : Ctx) (n : Fin 16) (w : VWord) : (c.putV n w).save = c.save := rfl
@[simp] theorem Ctx.putV_doom (c : Ctx) (n : Fin 16) (w : VWord) : (c.putV n w).doom = c.doom := rfl
@[simp] theorem Ctx.putV_sig (c : Ctx) (n : Fin 16) (w : VWord) : (c.putV n w).sig = c.sig := rfl
@[simp] theorem Ctx.putV_lone (c : Ctx) (n : Fin 16) (w : VWord) : (c.putV n w).lone = c.lone := rfl
@[simp] theorem Ctx.putV_pxch (c : Ctx) (n : Fin 16) (w : VWord) : (c.putV n w).pxch = c.pxch := rfl
@[simp] theorem Ctx.putV_landed (c : Ctx) (n : Fin 16) (w : VWord) : (c.putV n w).landed = c.landed := rfl
@[simp] theorem Ctx.putV_ifnc (c : Ctx) (n : Fin 16) (w : VWord) : (c.putV n w).ifnc = c.ifnc := rfl

@[simp] theorem Ctx.setFull_cid (c : Ctx) (n : Nat) (b : Bool) : (c.setFull n b).cid = c.cid := by
  unfold Ctx.setFull; split <;> [rfl; (split <;> rfl)]
@[simp] theorem Ctx.setFull_inc (c : Ctx) (n : Nat) (b : Bool) : (c.setFull n b).inc = c.inc := by
  unfold Ctx.setFull; split <;> [rfl; (split <;> rfl)]
@[simp] theorem Ctx.setFull_task (c : Ctx) (n : Nat) (b : Bool) : (c.setFull n b).task = c.task := by
  unfold Ctx.setFull; split <;> [rfl; (split <;> rfl)]
@[simp] theorem Ctx.setFull_region (c : Ctx) (n : Nat) (b : Bool) : (c.setFull n b).region = c.region := by
  unfold Ctx.setFull; split <;> [rfl; (split <;> rfl)]
@[simp] theorem Ctx.setFull_pc (c : Ctx) (n : Nat) (b : Bool) : (c.setFull n b).pc = c.pc := by
  unfold Ctx.setFull; split <;> [rfl; (split <;> rfl)]
@[simp] theorem Ctx.setFull_npc (c : Ctx) (n : Nat) (b : Bool) : (c.setFull n b).npc = c.npc := by
  unfold Ctx.setFull; split <;> [rfl; (split <;> rfl)]
@[simp] theorem Ctx.setFull_x (c : Ctx) (n : Nat) (b : Bool) : (c.setFull n b).x = c.x := by
  unfold Ctx.setFull; split <;> [rfl; (split <;> rfl)]
@[simp] theorem Ctx.setFull_v (c : Ctx) (n : Nat) (b : Bool) : (c.setFull n b).v = c.v := by
  unfold Ctx.setFull; split <;> [rfl; (split <;> rfl)]
@[simp] theorem Ctx.setFull_m (c : Ctx) (n : Nat) (b : Bool) : (c.setFull n b).m = c.m := by
  unfold Ctx.setFull; split <;> [rfl; (split <;> rfl)]
@[simp] theorem Ctx.setFull_pend (c : Ctx) (n : Nat) (b : Bool) : (c.setFull n b).pend = c.pend := by
  unfold Ctx.setFull; split <;> [rfl; (split <;> rfl)]
@[simp] theorem Ctx.setFull_rfq (c : Ctx) (n : Nat) (b : Bool) : (c.setFull n b).rfq = c.rfq := by
  unfold Ctx.setFull; split <;> [rfl; (split <;> rfl)]
@[simp] theorem Ctx.setFull_d (c : Ctx) (n : Nat) (b : Bool) : (c.setFull n b).d = c.d := by
  unfold Ctx.setFull; split <;> [rfl; (split <;> rfl)]
@[simp] theorem Ctx.setFull_j (c : Ctx) (n : Nat) (b : Bool) : (c.setFull n b).j = c.j := by
  unfold Ctx.setFull; split <;> [rfl; (split <;> rfl)]
@[simp] theorem Ctx.setFull_o (c : Ctx) (n : Nat) (b : Bool) : (c.setFull n b).o = c.o := by
  unfold Ctx.setFull; split <;> [rfl; (split <;> rfl)]
@[simp] theorem Ctx.setFull_loops (c : Ctx) (n : Nat) (b : Bool) : (c.setFull n b).loops = c.loops := by
  unfold Ctx.setFull; split <;> [rfl; (split <;> rfl)]
@[simp] theorem Ctx.setFull_vtype (c : Ctx) (n : Nat) (b : Bool) : (c.setFull n b).vtype = c.vtype := by
  unfold Ctx.setFull; split <;> [rfl; (split <;> rfl)]
@[simp] theorem Ctx.setFull_cb (c : Ctx) (n : Nat) (b : Bool) : (c.setFull n b).cb = c.cb := by
  unfold Ctx.setFull; split <;> [rfl; (split <;> rfl)]
@[simp] theorem Ctx.setFull_te (c : Ctx) (n : Nat) (b : Bool) : (c.setFull n b).te = c.te := by
  unfold Ctx.setFull; split <;> [rfl; (split <;> rfl)]
@[simp] theorem Ctx.setFull_wlim (c : Ctx) (n : Nat) (b : Bool) : (c.setFull n b).wlim = c.wlim := by
  unfold Ctx.setFull; split <;> [rfl; (split <;> rfl)]
@[simp] theorem Ctx.setFull_gstat (c : Ctx) (n : Nat) (b : Bool) : (c.setFull n b).gstat = c.gstat := by
  unfold Ctx.setFull; split <;> [rfl; (split <;> rfl)]
@[simp] theorem Ctx.setFull_rstat (c : Ctx) (n : Nat) (b : Bool) : (c.setFull n b).rstat = c.rstat := by
  unfold Ctx.setFull; split <;> [rfl; (split <;> rfl)]
@[simp] theorem Ctx.setFull_icount (c : Ctx) (n : Nat) (b : Bool) : (c.setFull n b).icount = c.icount := by
  unfold Ctx.setFull; split <;> [rfl; (split <;> rfl)]
@[simp] theorem Ctx.setFull_plumb (c : Ctx) (n : Nat) (b : Bool) : (c.setFull n b).plumb = c.plumb := by
  unfold Ctx.setFull; split <;> [rfl; (split <;> rfl)]
@[simp] theorem Ctx.setFull_tstat (c : Ctx) (n : Nat) (b : Bool) : (c.setFull n b).tstat = c.tstat := by
  unfold Ctx.setFull; split <;> [rfl; (split <;> rfl)]
@[simp] theorem Ctx.setFull_tepc (c : Ctx) (n : Nat) (b : Bool) : (c.setFull n b).tepc = c.tepc := by
  unfold Ctx.setFull; split <;> [rfl; (split <;> rfl)]
@[simp] theorem Ctx.setFull_tcause (c : Ctx) (n : Nat) (b : Bool) : (c.setFull n b).tcause = c.tcause := by
  unfold Ctx.setFull; split <;> [rfl; (split <;> rfl)]
@[simp] theorem Ctx.setFull_tval (c : Ctx) (n : Nat) (b : Bool) : (c.setFull n b).tval = c.tval := by
  unfold Ctx.setFull; split <;> [rfl; (split <;> rfl)]
@[simp] theorem Ctx.setFull_tlpc (c : Ctx) (n : Nat) (b : Bool) : (c.setFull n b).tlpc = c.tlpc := by
  unfold Ctx.setFull; split <;> [rfl; (split <;> rfl)]
@[simp] theorem Ctx.setFull_tscr (c : Ctx) (n : Nat) (b : Bool) : (c.setFull n b).tscr = c.tscr := by
  unfold Ctx.setFull; split <;> [rfl; (split <;> rfl)]
@[simp] theorem Ctx.setFull_evt (c : Ctx) (n : Nat) (b : Bool) : (c.setFull n b).evt = c.evt := by
  unfold Ctx.setFull; split <;> [rfl; (split <;> rfl)]
@[simp] theorem Ctx.setFull_level (c : Ctx) (n : Nat) (b : Bool) : (c.setFull n b).level = c.level := by
  unfold Ctx.setFull; split <;> [rfl; (split <;> rfl)]
@[simp] theorem Ctx.setFull_run (c : Ctx) (n : Nat) (b : Bool) : (c.setFull n b).run = c.run := by
  unfold Ctx.setFull; split <;> [rfl; (split <;> rfl)]
@[simp] theorem Ctx.setFull_wait (c : Ctx) (n : Nat) (b : Bool) : (c.setFull n b).wait = c.wait := by
  unfold Ctx.setFull; split <;> [rfl; (split <;> rfl)]
@[simp] theorem Ctx.setFull_tags (c : Ctx) (n : Nat) (b : Bool) : (c.setFull n b).tags = c.tags := by
  unfold Ctx.setFull; split <;> [rfl; (split <;> rfl)]
@[simp] theorem Ctx.setFull_seq (c : Ctx) (n : Nat) (b : Bool) : (c.setFull n b).seq = c.seq := by
  unfold Ctx.setFull; split <;> [rfl; (split <;> rfl)]
@[simp] theorem Ctx.setFull_loads (c : Ctx) (n : Nat) (b : Bool) : (c.setFull n b).loads = c.loads := by
  unfold Ctx.setFull; split <;> [rfl; (split <;> rfl)]
@[simp] theorem Ctx.setFull_stores (c : Ctx) (n : Nat) (b : Bool) : (c.setFull n b).stores = c.stores := by
  unfold Ctx.setFull; split <;> [rfl; (split <;> rfl)]
@[simp] theorem Ctx.setFull_strong (c : Ctx) (n : Nat) (b : Bool) : (c.setFull n b).strong = c.strong := by
  unfold Ctx.setFull; split <;> [rfl; (split <;> rfl)]
@[simp] theorem Ctx.setFull_outer (c : Ctx) (n : Nat) (b : Bool) : (c.setFull n b).outer = c.outer := by
  unfold Ctx.setFull; split <;> [rfl; (split <;> rfl)]
@[simp] theorem Ctx.setFull_lfaults (c : Ctx) (n : Nat) (b : Bool) : (c.setFull n b).lfaults = c.lfaults := by
  unfold Ctx.setFull; split <;> [rfl; (split <;> rfl)]
@[simp] theorem Ctx.setFull_sfaults (c : Ctx) (n : Nat) (b : Bool) : (c.setFull n b).sfaults = c.sfaults := by
  unfold Ctx.setFull; split <;> [rfl; (split <;> rfl)]
@[simp] theorem Ctx.setFull_got (c : Ctx) (n : Nat) (b : Bool) : (c.setFull n b).got = c.got := by
  unfold Ctx.setFull; split <;> [rfl; (split <;> rfl)]
@[simp] theorem Ctx.setFull_blk (c : Ctx) (n : Nat) (b : Bool) : (c.setFull n b).blk = c.blk := by
  unfold Ctx.setFull; split <;> [rfl; (split <;> rfl)]
@[simp] theorem Ctx.setFull_kept (c : Ctx) (n : Nat) (b : Bool) : (c.setFull n b).kept = c.kept := by
  unfold Ctx.setFull; split <;> [rfl; (split <;> rfl)]
@[simp] theorem Ctx.setFull_feed (c : Ctx) (n : Nat) (b : Bool) : (c.setFull n b).feed = c.feed := by
  unfold Ctx.setFull; split <;> [rfl; (split <;> rfl)]
@[simp] theorem Ctx.setFull_fe (c : Ctx) (n : Nat) (b : Bool) : (c.setFull n b).fe = c.fe := by
  unfold Ctx.setFull; split <;> [rfl; (split <;> rfl)]
@[simp] theorem Ctx.setFull_barrier (c : Ctx) (n : Nat) (b : Bool) : (c.setFull n b).barrier = c.barrier := by
  unfold Ctx.setFull; split <;> [rfl; (split <;> rfl)]
@[simp] theorem Ctx.setFull_yieldTo (c : Ctx) (n : Nat) (b : Bool) : (c.setFull n b).yieldTo = c.yieldTo := by
  unfold Ctx.setFull; split <;> [rfl; (split <;> rfl)]
@[simp] theorem Ctx.setFull_wfeStart (c : Ctx) (n : Nat) (b : Bool) : (c.setFull n b).wfeStart = c.wfeStart := by
  unfold Ctx.setFull; split <;> [rfl; (split <;> rfl)]
@[simp] theorem Ctx.setFull_remote (c : Ctx) (n : Nat) (b : Bool) : (c.setFull n b).remote = c.remote := by
  unfold Ctx.setFull; split <;> [rfl; (split <;> rfl)]
@[simp] theorem Ctx.setFull_query (c : Ctx) (n : Nat) (b : Bool) : (c.setFull n b).query = c.query := by
  unfold Ctx.setFull; split <;> [rfl; (split <;> rfl)]
@[simp] theorem Ctx.setFull_mig (c : Ctx) (n : Nat) (b : Bool) : (c.setFull n b).mig = c.mig := by
  unfold Ctx.setFull; split <;> [rfl; (split <;> rfl)]
@[simp] theorem Ctx.setFull_stage (c : Ctx) (n : Nat) (b : Bool) : (c.setFull n b).stage = c.stage := by
  unfold Ctx.setFull; split <;> [rfl; (split <;> rfl)]
@[simp] theorem Ctx.setFull_replay (c : Ctx) (n : Nat) (b : Bool) : (c.setFull n b).replay = c.replay := by
  unfold Ctx.setFull; split <;> [rfl; (split <;> rfl)]
@[simp] theorem Ctx.setFull_answer (c : Ctx) (n : Nat) (b : Bool) : (c.setFull n b).answer = c.answer := by
  unfold Ctx.setFull; split <;> [rfl; (split <;> rfl)]
@[simp] theorem Ctx.setFull_done (c : Ctx) (n : Nat) (b : Bool) : (c.setFull n b).done = c.done := by
  unfold Ctx.setFull; split <;> [rfl; (split <;> rfl)]
@[simp] theorem Ctx.setFull_save (c : Ctx) (n : Nat) (b : Bool) : (c.setFull n b).save = c.save := by
  unfold Ctx.setFull; split <;> [rfl; (split <;> rfl)]
@[simp] theorem Ctx.setFull_doom (c : Ctx) (n : Nat) (b : Bool) : (c.setFull n b).doom = c.doom := by
  unfold Ctx.setFull; split <;> [rfl; (split <;> rfl)]
@[simp] theorem Ctx.setFull_sig (c : Ctx) (n : Nat) (b : Bool) : (c.setFull n b).sig = c.sig := by
  unfold Ctx.setFull; split <;> [rfl; (split <;> rfl)]
@[simp] theorem Ctx.setFull_lone (c : Ctx) (n : Nat) (b : Bool) : (c.setFull n b).lone = c.lone := by
  unfold Ctx.setFull; split <;> [rfl; (split <;> rfl)]
@[simp] theorem Ctx.setFull_pxch (c : Ctx) (n : Nat) (b : Bool) : (c.setFull n b).pxch = c.pxch := by
  unfold Ctx.setFull; split <;> [rfl; (split <;> rfl)]
@[simp] theorem Ctx.setFull_landed (c : Ctx) (n : Nat) (b : Bool) : (c.setFull n b).landed = c.landed := by
  unfold Ctx.setFull; split <;> [rfl; (split <;> rfl)]
@[simp] theorem Ctx.setFull_ifnc (c : Ctx) (n : Nat) (b : Bool) : (c.setFull n b).ifnc = c.ifnc := by
  unfold Ctx.setFull; split <;> [rfl; (split <;> rfl)]

@[simp] theorem Ctx.setPend_cid (c : Ctx) (n : Nat) (b : Bool) : (c.setPend n b).cid = c.cid := rfl
@[simp] theorem Ctx.setPend_inc (c : Ctx) (n : Nat) (b : Bool) : (c.setPend n b).inc = c.inc := rfl
@[simp] theorem Ctx.setPend_task (c : Ctx) (n : Nat) (b : Bool) : (c.setPend n b).task = c.task := rfl
@[simp] theorem Ctx.setPend_region (c : Ctx) (n : Nat) (b : Bool) : (c.setPend n b).region = c.region := rfl
@[simp] theorem Ctx.setPend_pc (c : Ctx) (n : Nat) (b : Bool) : (c.setPend n b).pc = c.pc := rfl
@[simp] theorem Ctx.setPend_npc (c : Ctx) (n : Nat) (b : Bool) : (c.setPend n b).npc = c.npc := rfl
@[simp] theorem Ctx.setPend_x (c : Ctx) (n : Nat) (b : Bool) : (c.setPend n b).x = c.x := rfl
@[simp] theorem Ctx.setPend_v (c : Ctx) (n : Nat) (b : Bool) : (c.setPend n b).v = c.v := rfl
@[simp] theorem Ctx.setPend_m (c : Ctx) (n : Nat) (b : Bool) : (c.setPend n b).m = c.m := rfl
@[simp] theorem Ctx.setPend_xfe (c : Ctx) (n : Nat) (b : Bool) : (c.setPend n b).xfe = c.xfe := rfl
@[simp] theorem Ctx.setPend_vfe (c : Ctx) (n : Nat) (b : Bool) : (c.setPend n b).vfe = c.vfe := rfl
@[simp] theorem Ctx.setPend_mfe (c : Ctx) (n : Nat) (b : Bool) : (c.setPend n b).mfe = c.mfe := rfl
@[simp] theorem Ctx.setPend_rfq (c : Ctx) (n : Nat) (b : Bool) : (c.setPend n b).rfq = c.rfq := rfl
@[simp] theorem Ctx.setPend_d (c : Ctx) (n : Nat) (b : Bool) : (c.setPend n b).d = c.d := rfl
@[simp] theorem Ctx.setPend_j (c : Ctx) (n : Nat) (b : Bool) : (c.setPend n b).j = c.j := rfl
@[simp] theorem Ctx.setPend_o (c : Ctx) (n : Nat) (b : Bool) : (c.setPend n b).o = c.o := rfl
@[simp] theorem Ctx.setPend_loops (c : Ctx) (n : Nat) (b : Bool) : (c.setPend n b).loops = c.loops := rfl
@[simp] theorem Ctx.setPend_vtype (c : Ctx) (n : Nat) (b : Bool) : (c.setPend n b).vtype = c.vtype := rfl
@[simp] theorem Ctx.setPend_cb (c : Ctx) (n : Nat) (b : Bool) : (c.setPend n b).cb = c.cb := rfl
@[simp] theorem Ctx.setPend_te (c : Ctx) (n : Nat) (b : Bool) : (c.setPend n b).te = c.te := rfl
@[simp] theorem Ctx.setPend_wlim (c : Ctx) (n : Nat) (b : Bool) : (c.setPend n b).wlim = c.wlim := rfl
@[simp] theorem Ctx.setPend_gstat (c : Ctx) (n : Nat) (b : Bool) : (c.setPend n b).gstat = c.gstat := rfl
@[simp] theorem Ctx.setPend_rstat (c : Ctx) (n : Nat) (b : Bool) : (c.setPend n b).rstat = c.rstat := rfl
@[simp] theorem Ctx.setPend_icount (c : Ctx) (n : Nat) (b : Bool) : (c.setPend n b).icount = c.icount := rfl
@[simp] theorem Ctx.setPend_plumb (c : Ctx) (n : Nat) (b : Bool) : (c.setPend n b).plumb = c.plumb := rfl
@[simp] theorem Ctx.setPend_tstat (c : Ctx) (n : Nat) (b : Bool) : (c.setPend n b).tstat = c.tstat := rfl
@[simp] theorem Ctx.setPend_tepc (c : Ctx) (n : Nat) (b : Bool) : (c.setPend n b).tepc = c.tepc := rfl
@[simp] theorem Ctx.setPend_tcause (c : Ctx) (n : Nat) (b : Bool) : (c.setPend n b).tcause = c.tcause := rfl
@[simp] theorem Ctx.setPend_tval (c : Ctx) (n : Nat) (b : Bool) : (c.setPend n b).tval = c.tval := rfl
@[simp] theorem Ctx.setPend_tlpc (c : Ctx) (n : Nat) (b : Bool) : (c.setPend n b).tlpc = c.tlpc := rfl
@[simp] theorem Ctx.setPend_tscr (c : Ctx) (n : Nat) (b : Bool) : (c.setPend n b).tscr = c.tscr := rfl
@[simp] theorem Ctx.setPend_evt (c : Ctx) (n : Nat) (b : Bool) : (c.setPend n b).evt = c.evt := rfl
@[simp] theorem Ctx.setPend_level (c : Ctx) (n : Nat) (b : Bool) : (c.setPend n b).level = c.level := rfl
@[simp] theorem Ctx.setPend_run (c : Ctx) (n : Nat) (b : Bool) : (c.setPend n b).run = c.run := rfl
@[simp] theorem Ctx.setPend_wait (c : Ctx) (n : Nat) (b : Bool) : (c.setPend n b).wait = c.wait := rfl
@[simp] theorem Ctx.setPend_tags (c : Ctx) (n : Nat) (b : Bool) : (c.setPend n b).tags = c.tags := rfl
@[simp] theorem Ctx.setPend_seq (c : Ctx) (n : Nat) (b : Bool) : (c.setPend n b).seq = c.seq := rfl
@[simp] theorem Ctx.setPend_loads (c : Ctx) (n : Nat) (b : Bool) : (c.setPend n b).loads = c.loads := rfl
@[simp] theorem Ctx.setPend_stores (c : Ctx) (n : Nat) (b : Bool) : (c.setPend n b).stores = c.stores := rfl
@[simp] theorem Ctx.setPend_strong (c : Ctx) (n : Nat) (b : Bool) : (c.setPend n b).strong = c.strong := rfl
@[simp] theorem Ctx.setPend_outer (c : Ctx) (n : Nat) (b : Bool) : (c.setPend n b).outer = c.outer := rfl
@[simp] theorem Ctx.setPend_lfaults (c : Ctx) (n : Nat) (b : Bool) : (c.setPend n b).lfaults = c.lfaults := rfl
@[simp] theorem Ctx.setPend_sfaults (c : Ctx) (n : Nat) (b : Bool) : (c.setPend n b).sfaults = c.sfaults := rfl
@[simp] theorem Ctx.setPend_got (c : Ctx) (n : Nat) (b : Bool) : (c.setPend n b).got = c.got := rfl
@[simp] theorem Ctx.setPend_blk (c : Ctx) (n : Nat) (b : Bool) : (c.setPend n b).blk = c.blk := rfl
@[simp] theorem Ctx.setPend_kept (c : Ctx) (n : Nat) (b : Bool) : (c.setPend n b).kept = c.kept := rfl
@[simp] theorem Ctx.setPend_feed (c : Ctx) (n : Nat) (b : Bool) : (c.setPend n b).feed = c.feed := rfl
@[simp] theorem Ctx.setPend_fe (c : Ctx) (n : Nat) (b : Bool) : (c.setPend n b).fe = c.fe := rfl
@[simp] theorem Ctx.setPend_barrier (c : Ctx) (n : Nat) (b : Bool) : (c.setPend n b).barrier = c.barrier := rfl
@[simp] theorem Ctx.setPend_yieldTo (c : Ctx) (n : Nat) (b : Bool) : (c.setPend n b).yieldTo = c.yieldTo := rfl
@[simp] theorem Ctx.setPend_wfeStart (c : Ctx) (n : Nat) (b : Bool) : (c.setPend n b).wfeStart = c.wfeStart := rfl
@[simp] theorem Ctx.setPend_remote (c : Ctx) (n : Nat) (b : Bool) : (c.setPend n b).remote = c.remote := rfl
@[simp] theorem Ctx.setPend_query (c : Ctx) (n : Nat) (b : Bool) : (c.setPend n b).query = c.query := rfl
@[simp] theorem Ctx.setPend_mig (c : Ctx) (n : Nat) (b : Bool) : (c.setPend n b).mig = c.mig := rfl
@[simp] theorem Ctx.setPend_stage (c : Ctx) (n : Nat) (b : Bool) : (c.setPend n b).stage = c.stage := rfl
@[simp] theorem Ctx.setPend_replay (c : Ctx) (n : Nat) (b : Bool) : (c.setPend n b).replay = c.replay := rfl
@[simp] theorem Ctx.setPend_answer (c : Ctx) (n : Nat) (b : Bool) : (c.setPend n b).answer = c.answer := rfl
@[simp] theorem Ctx.setPend_done (c : Ctx) (n : Nat) (b : Bool) : (c.setPend n b).done = c.done := rfl
@[simp] theorem Ctx.setPend_save (c : Ctx) (n : Nat) (b : Bool) : (c.setPend n b).save = c.save := rfl
@[simp] theorem Ctx.setPend_doom (c : Ctx) (n : Nat) (b : Bool) : (c.setPend n b).doom = c.doom := rfl
@[simp] theorem Ctx.setPend_sig (c : Ctx) (n : Nat) (b : Bool) : (c.setPend n b).sig = c.sig := rfl
@[simp] theorem Ctx.setPend_lone (c : Ctx) (n : Nat) (b : Bool) : (c.setPend n b).lone = c.lone := rfl
@[simp] theorem Ctx.setPend_pxch (c : Ctx) (n : Nat) (b : Bool) : (c.setPend n b).pxch = c.pxch := rfl
@[simp] theorem Ctx.setPend_landed (c : Ctx) (n : Nat) (b : Bool) : (c.setPend n b).landed = c.landed := rfl
@[simp] theorem Ctx.setPend_ifnc (c : Ctx) (n : Nat) (b : Bool) : (c.setPend n b).ifnc = c.ifnc := rfl

@[simp] theorem Ctx.awaitReg_cid (c : Ctx) (n : Nat) : (c.awaitReg n).cid = c.cid := by
  unfold Ctx.awaitReg; split <;> simp
@[simp] theorem Ctx.awaitReg_inc (c : Ctx) (n : Nat) : (c.awaitReg n).inc = c.inc := by
  unfold Ctx.awaitReg; split <;> simp
@[simp] theorem Ctx.awaitReg_task (c : Ctx) (n : Nat) : (c.awaitReg n).task = c.task := by
  unfold Ctx.awaitReg; split <;> simp
@[simp] theorem Ctx.awaitReg_region (c : Ctx) (n : Nat) : (c.awaitReg n).region = c.region := by
  unfold Ctx.awaitReg; split <;> simp
@[simp] theorem Ctx.awaitReg_pc (c : Ctx) (n : Nat) : (c.awaitReg n).pc = c.pc := by
  unfold Ctx.awaitReg; split <;> simp
@[simp] theorem Ctx.awaitReg_npc (c : Ctx) (n : Nat) : (c.awaitReg n).npc = c.npc := by
  unfold Ctx.awaitReg; split <;> simp
@[simp] theorem Ctx.awaitReg_x (c : Ctx) (n : Nat) : (c.awaitReg n).x = c.x := by
  unfold Ctx.awaitReg; split <;> simp
@[simp] theorem Ctx.awaitReg_v (c : Ctx) (n : Nat) : (c.awaitReg n).v = c.v := by
  unfold Ctx.awaitReg; split <;> simp
@[simp] theorem Ctx.awaitReg_m (c : Ctx) (n : Nat) : (c.awaitReg n).m = c.m := by
  unfold Ctx.awaitReg; split <;> simp
@[simp] theorem Ctx.awaitReg_rfq (c : Ctx) (n : Nat) : (c.awaitReg n).rfq = c.rfq := by
  unfold Ctx.awaitReg; split <;> simp
@[simp] theorem Ctx.awaitReg_d (c : Ctx) (n : Nat) : (c.awaitReg n).d = c.d := by
  unfold Ctx.awaitReg; split <;> simp
@[simp] theorem Ctx.awaitReg_j (c : Ctx) (n : Nat) : (c.awaitReg n).j = c.j := by
  unfold Ctx.awaitReg; split <;> simp
@[simp] theorem Ctx.awaitReg_o (c : Ctx) (n : Nat) : (c.awaitReg n).o = c.o := by
  unfold Ctx.awaitReg; split <;> simp
@[simp] theorem Ctx.awaitReg_loops (c : Ctx) (n : Nat) : (c.awaitReg n).loops = c.loops := by
  unfold Ctx.awaitReg; split <;> simp
@[simp] theorem Ctx.awaitReg_vtype (c : Ctx) (n : Nat) : (c.awaitReg n).vtype = c.vtype := by
  unfold Ctx.awaitReg; split <;> simp
@[simp] theorem Ctx.awaitReg_cb (c : Ctx) (n : Nat) : (c.awaitReg n).cb = c.cb := by
  unfold Ctx.awaitReg; split <;> simp
@[simp] theorem Ctx.awaitReg_te (c : Ctx) (n : Nat) : (c.awaitReg n).te = c.te := by
  unfold Ctx.awaitReg; split <;> simp
@[simp] theorem Ctx.awaitReg_wlim (c : Ctx) (n : Nat) : (c.awaitReg n).wlim = c.wlim := by
  unfold Ctx.awaitReg; split <;> simp
@[simp] theorem Ctx.awaitReg_gstat (c : Ctx) (n : Nat) : (c.awaitReg n).gstat = c.gstat := by
  unfold Ctx.awaitReg; split <;> simp
@[simp] theorem Ctx.awaitReg_rstat (c : Ctx) (n : Nat) : (c.awaitReg n).rstat = c.rstat := by
  unfold Ctx.awaitReg; split <;> simp
@[simp] theorem Ctx.awaitReg_icount (c : Ctx) (n : Nat) : (c.awaitReg n).icount = c.icount := by
  unfold Ctx.awaitReg; split <;> simp
@[simp] theorem Ctx.awaitReg_plumb (c : Ctx) (n : Nat) : (c.awaitReg n).plumb = c.plumb := by
  unfold Ctx.awaitReg; split <;> simp
@[simp] theorem Ctx.awaitReg_tstat (c : Ctx) (n : Nat) : (c.awaitReg n).tstat = c.tstat := by
  unfold Ctx.awaitReg; split <;> simp
@[simp] theorem Ctx.awaitReg_tepc (c : Ctx) (n : Nat) : (c.awaitReg n).tepc = c.tepc := by
  unfold Ctx.awaitReg; split <;> simp
@[simp] theorem Ctx.awaitReg_tcause (c : Ctx) (n : Nat) : (c.awaitReg n).tcause = c.tcause := by
  unfold Ctx.awaitReg; split <;> simp
@[simp] theorem Ctx.awaitReg_tval (c : Ctx) (n : Nat) : (c.awaitReg n).tval = c.tval := by
  unfold Ctx.awaitReg; split <;> simp
@[simp] theorem Ctx.awaitReg_tlpc (c : Ctx) (n : Nat) : (c.awaitReg n).tlpc = c.tlpc := by
  unfold Ctx.awaitReg; split <;> simp
@[simp] theorem Ctx.awaitReg_tscr (c : Ctx) (n : Nat) : (c.awaitReg n).tscr = c.tscr := by
  unfold Ctx.awaitReg; split <;> simp
@[simp] theorem Ctx.awaitReg_evt (c : Ctx) (n : Nat) : (c.awaitReg n).evt = c.evt := by
  unfold Ctx.awaitReg; split <;> simp
@[simp] theorem Ctx.awaitReg_level (c : Ctx) (n : Nat) : (c.awaitReg n).level = c.level := by
  unfold Ctx.awaitReg; split <;> simp
@[simp] theorem Ctx.awaitReg_run (c : Ctx) (n : Nat) : (c.awaitReg n).run = c.run := by
  unfold Ctx.awaitReg; split <;> simp
@[simp] theorem Ctx.awaitReg_wait (c : Ctx) (n : Nat) : (c.awaitReg n).wait = c.wait := by
  unfold Ctx.awaitReg; split <;> simp
@[simp] theorem Ctx.awaitReg_tags (c : Ctx) (n : Nat) : (c.awaitReg n).tags = c.tags := by
  unfold Ctx.awaitReg; split <;> simp
@[simp] theorem Ctx.awaitReg_seq (c : Ctx) (n : Nat) : (c.awaitReg n).seq = c.seq := by
  unfold Ctx.awaitReg; split <;> simp
@[simp] theorem Ctx.awaitReg_loads (c : Ctx) (n : Nat) : (c.awaitReg n).loads = c.loads := by
  unfold Ctx.awaitReg; split <;> simp
@[simp] theorem Ctx.awaitReg_stores (c : Ctx) (n : Nat) : (c.awaitReg n).stores = c.stores := by
  unfold Ctx.awaitReg; split <;> simp
@[simp] theorem Ctx.awaitReg_strong (c : Ctx) (n : Nat) : (c.awaitReg n).strong = c.strong := by
  unfold Ctx.awaitReg; split <;> simp
@[simp] theorem Ctx.awaitReg_outer (c : Ctx) (n : Nat) : (c.awaitReg n).outer = c.outer := by
  unfold Ctx.awaitReg; split <;> simp
@[simp] theorem Ctx.awaitReg_lfaults (c : Ctx) (n : Nat) : (c.awaitReg n).lfaults = c.lfaults := by
  unfold Ctx.awaitReg; split <;> simp
@[simp] theorem Ctx.awaitReg_sfaults (c : Ctx) (n : Nat) : (c.awaitReg n).sfaults = c.sfaults := by
  unfold Ctx.awaitReg; split <;> simp
@[simp] theorem Ctx.awaitReg_got (c : Ctx) (n : Nat) : (c.awaitReg n).got = c.got := by
  unfold Ctx.awaitReg; split <;> simp
@[simp] theorem Ctx.awaitReg_blk (c : Ctx) (n : Nat) : (c.awaitReg n).blk = c.blk := by
  unfold Ctx.awaitReg; split <;> simp
@[simp] theorem Ctx.awaitReg_kept (c : Ctx) (n : Nat) : (c.awaitReg n).kept = c.kept := by
  unfold Ctx.awaitReg; split <;> simp
@[simp] theorem Ctx.awaitReg_feed (c : Ctx) (n : Nat) : (c.awaitReg n).feed = c.feed := by
  unfold Ctx.awaitReg; split <;> simp
@[simp] theorem Ctx.awaitReg_fe (c : Ctx) (n : Nat) : (c.awaitReg n).fe = c.fe := by
  unfold Ctx.awaitReg; split <;> simp
@[simp] theorem Ctx.awaitReg_barrier (c : Ctx) (n : Nat) : (c.awaitReg n).barrier = c.barrier := by
  unfold Ctx.awaitReg; split <;> simp
@[simp] theorem Ctx.awaitReg_yieldTo (c : Ctx) (n : Nat) : (c.awaitReg n).yieldTo = c.yieldTo := by
  unfold Ctx.awaitReg; split <;> simp
@[simp] theorem Ctx.awaitReg_wfeStart (c : Ctx) (n : Nat) : (c.awaitReg n).wfeStart = c.wfeStart := by
  unfold Ctx.awaitReg; split <;> simp
@[simp] theorem Ctx.awaitReg_remote (c : Ctx) (n : Nat) : (c.awaitReg n).remote = c.remote := by
  unfold Ctx.awaitReg; split <;> simp
@[simp] theorem Ctx.awaitReg_query (c : Ctx) (n : Nat) : (c.awaitReg n).query = c.query := by
  unfold Ctx.awaitReg; split <;> simp
@[simp] theorem Ctx.awaitReg_mig (c : Ctx) (n : Nat) : (c.awaitReg n).mig = c.mig := by
  unfold Ctx.awaitReg; split <;> simp
@[simp] theorem Ctx.awaitReg_stage (c : Ctx) (n : Nat) : (c.awaitReg n).stage = c.stage := by
  unfold Ctx.awaitReg; split <;> simp
@[simp] theorem Ctx.awaitReg_replay (c : Ctx) (n : Nat) : (c.awaitReg n).replay = c.replay := by
  unfold Ctx.awaitReg; split <;> simp
@[simp] theorem Ctx.awaitReg_answer (c : Ctx) (n : Nat) : (c.awaitReg n).answer = c.answer := by
  unfold Ctx.awaitReg; split <;> simp
@[simp] theorem Ctx.awaitReg_done (c : Ctx) (n : Nat) : (c.awaitReg n).done = c.done := by
  unfold Ctx.awaitReg; split <;> simp
@[simp] theorem Ctx.awaitReg_save (c : Ctx) (n : Nat) : (c.awaitReg n).save = c.save := by
  unfold Ctx.awaitReg; split <;> simp
@[simp] theorem Ctx.awaitReg_doom (c : Ctx) (n : Nat) : (c.awaitReg n).doom = c.doom := by
  unfold Ctx.awaitReg; split <;> simp
@[simp] theorem Ctx.awaitReg_sig (c : Ctx) (n : Nat) : (c.awaitReg n).sig = c.sig := by
  unfold Ctx.awaitReg; split <;> simp
@[simp] theorem Ctx.awaitReg_lone (c : Ctx) (n : Nat) : (c.awaitReg n).lone = c.lone := by
  unfold Ctx.awaitReg; split <;> simp
@[simp] theorem Ctx.awaitReg_pxch (c : Ctx) (n : Nat) : (c.awaitReg n).pxch = c.pxch := by
  unfold Ctx.awaitReg; split <;> simp
@[simp] theorem Ctx.awaitReg_landed (c : Ctx) (n : Nat) : (c.awaitReg n).landed = c.landed := by
  unfold Ctx.awaitReg; split <;> simp
@[simp] theorem Ctx.awaitReg_ifnc (c : Ctx) (n : Nat) : (c.awaitReg n).ifnc = c.ifnc := by
  unfold Ctx.awaitReg; split <;> simp

/-! An instruction completes. -/

/-- A function of a context that does not look at what a completion changes. -/
theorem Ctx.complete_of {α : Type} (f : Ctx → α)
    (h : ∀ (c : Ctx) pc icount gstat blk got stage wait fe answer run seq replay loops plumb sig lone landed,
      f { c with pc, icount, gstat, blk, got, stage, wait, fe, answer, run, seq, replay, loops, plumb, sig, lone,
                 landed } = f c)
    (c : Ctx) (k : Ctl) : f (c.complete k) = f c := by
  have at' (c : Ctx) (n : Word) : f (c.continueAt n) = f c := by
    unfold Ctx.continueAt
    split
    · exact h c n c.icount c.gstat c.blk c.got c.stage c.wait c.fe c.answer c.run c.seq c.replay c.loops c.plumb c.sig
        c.lone c.landed
    · exact h c _ c.icount c.gstat _ c.got c.stage c.wait c.fe c.answer c.run c.seq c.replay _ c.plumb c.sig c.lone
        c.landed
  have tally (r : Bool) : f (c.tally r) = f c :=
    h c c.pc _ _ _ _ _ _ _ _ _ _ c.replay c.loops _ _ _ _
  cases k with
  | seq =>
    cases hr : c.replay with
    | some t =>
      have e : c.complete .seq = { c.tally false with pc := t, replay := none } := by simp [Ctx.complete, hr]
      rw [e]
      exact h c _ _ _ _ _ _ _ _ _ _ _ _ c.loops _ _ _ _
    | none =>
      have e : c.complete .seq = (c.tally false).continueAt c.npc := by simp [Ctx.complete, hr]
      rw [e]
      exact (at' _ _).trans (tally false)
  | onto npc => exact (at' _ _).trans (tally false)
  | jump pc => exact h c _ _ _ _ _ _ _ _ _ _ _ _ c.loops _ _ _ _
  | enter => exact h c _ _ _ _ _ _ _ _ _ _ _ c.replay _ _ _ _ _
  | trapAfter a b => exact h c _ _ _ _ _ _ _ _ _ _ _ c.replay c.loops _ _ _ _
  | back pc => exact h c _ _ _ _ _ _ _ _ _ _ _ c.replay c.loops _ _ _ _
  | gone => rfl

@[simp] theorem Ctx.complete_cid (c : Ctx) (k : Ctl) : (c.complete k).cid = c.cid :=
  Ctx.complete_of (·.cid) (fun _ _ _ _ _ _ _ _ _ _ _ _ _ _ _ _ _ _ => rfl) c k
@[simp] theorem Ctx.complete_inc (c : Ctx) (k : Ctl) : (c.complete k).inc = c.inc :=
  Ctx.complete_of (·.inc) (fun _ _ _ _ _ _ _ _ _ _ _ _ _ _ _ _ _ _ => rfl) c k
@[simp] theorem Ctx.complete_task (c : Ctx) (k : Ctl) : (c.complete k).task = c.task :=
  Ctx.complete_of (·.task) (fun _ _ _ _ _ _ _ _ _ _ _ _ _ _ _ _ _ _ => rfl) c k
@[simp] theorem Ctx.complete_region (c : Ctx) (k : Ctl) : (c.complete k).region = c.region :=
  Ctx.complete_of (·.region) (fun _ _ _ _ _ _ _ _ _ _ _ _ _ _ _ _ _ _ => rfl) c k
@[simp] theorem Ctx.complete_npc (c : Ctx) (k : Ctl) : (c.complete k).npc = c.npc :=
  Ctx.complete_of (·.npc) (fun _ _ _ _ _ _ _ _ _ _ _ _ _ _ _ _ _ _ => rfl) c k
@[simp] theorem Ctx.complete_x (c : Ctx) (k : Ctl) : (c.complete k).x = c.x :=
  Ctx.complete_of (·.x) (fun _ _ _ _ _ _ _ _ _ _ _ _ _ _ _ _ _ _ => rfl) c k
@[simp] theorem Ctx.complete_v (c : Ctx) (k : Ctl) : (c.complete k).v = c.v :=
  Ctx.complete_of (·.v) (fun _ _ _ _ _ _ _ _ _ _ _ _ _ _ _ _ _ _ => rfl) c k
@[simp] theorem Ctx.complete_m (c : Ctx) (k : Ctl) : (c.complete k).m = c.m :=
  Ctx.complete_of (·.m) (fun _ _ _ _ _ _ _ _ _ _ _ _ _ _ _ _ _ _ => rfl) c k
@[simp] theorem Ctx.complete_xfe (c : Ctx) (k : Ctl) : (c.complete k).xfe = c.xfe :=
  Ctx.complete_of (·.xfe) (fun _ _ _ _ _ _ _ _ _ _ _ _ _ _ _ _ _ _ => rfl) c k
@[simp] theorem Ctx.complete_vfe (c : Ctx) (k : Ctl) : (c.complete k).vfe = c.vfe :=
  Ctx.complete_of (·.vfe) (fun _ _ _ _ _ _ _ _ _ _ _ _ _ _ _ _ _ _ => rfl) c k
@[simp] theorem Ctx.complete_mfe (c : Ctx) (k : Ctl) : (c.complete k).mfe = c.mfe :=
  Ctx.complete_of (·.mfe) (fun _ _ _ _ _ _ _ _ _ _ _ _ _ _ _ _ _ _ => rfl) c k
@[simp] theorem Ctx.complete_pend (c : Ctx) (k : Ctl) : (c.complete k).pend = c.pend :=
  Ctx.complete_of (·.pend) (fun _ _ _ _ _ _ _ _ _ _ _ _ _ _ _ _ _ _ => rfl) c k
@[simp] theorem Ctx.complete_rfq (c : Ctx) (k : Ctl) : (c.complete k).rfq = c.rfq :=
  Ctx.complete_of (·.rfq) (fun _ _ _ _ _ _ _ _ _ _ _ _ _ _ _ _ _ _ => rfl) c k
@[simp] theorem Ctx.complete_d (c : Ctx) (k : Ctl) : (c.complete k).d = c.d :=
  Ctx.complete_of (·.d) (fun _ _ _ _ _ _ _ _ _ _ _ _ _ _ _ _ _ _ => rfl) c k
@[simp] theorem Ctx.complete_j (c : Ctx) (k : Ctl) : (c.complete k).j = c.j :=
  Ctx.complete_of (·.j) (fun _ _ _ _ _ _ _ _ _ _ _ _ _ _ _ _ _ _ => rfl) c k
@[simp] theorem Ctx.complete_o (c : Ctx) (k : Ctl) : (c.complete k).o = c.o :=
  Ctx.complete_of (·.o) (fun _ _ _ _ _ _ _ _ _ _ _ _ _ _ _ _ _ _ => rfl) c k
@[simp] theorem Ctx.complete_vtype (c : Ctx) (k : Ctl) : (c.complete k).vtype = c.vtype :=
  Ctx.complete_of (·.vtype) (fun _ _ _ _ _ _ _ _ _ _ _ _ _ _ _ _ _ _ => rfl) c k
@[simp] theorem Ctx.complete_cb (c : Ctx) (k : Ctl) : (c.complete k).cb = c.cb :=
  Ctx.complete_of (·.cb) (fun _ _ _ _ _ _ _ _ _ _ _ _ _ _ _ _ _ _ => rfl) c k
@[simp] theorem Ctx.complete_te (c : Ctx) (k : Ctl) : (c.complete k).te = c.te :=
  Ctx.complete_of (·.te) (fun _ _ _ _ _ _ _ _ _ _ _ _ _ _ _ _ _ _ => rfl) c k
@[simp] theorem Ctx.complete_wlim (c : Ctx) (k : Ctl) : (c.complete k).wlim = c.wlim :=
  Ctx.complete_of (·.wlim) (fun _ _ _ _ _ _ _ _ _ _ _ _ _ _ _ _ _ _ => rfl) c k
@[simp] theorem Ctx.complete_rstat (c : Ctx) (k : Ctl) : (c.complete k).rstat = c.rstat :=
  Ctx.complete_of (·.rstat) (fun _ _ _ _ _ _ _ _ _ _ _ _ _ _ _ _ _ _ => rfl) c k
@[simp] theorem Ctx.complete_tstat (c : Ctx) (k : Ctl) : (c.complete k).tstat = c.tstat :=
  Ctx.complete_of (·.tstat) (fun _ _ _ _ _ _ _ _ _ _ _ _ _ _ _ _ _ _ => rfl) c k
@[simp] theorem Ctx.complete_tepc (c : Ctx) (k : Ctl) : (c.complete k).tepc = c.tepc :=
  Ctx.complete_of (·.tepc) (fun _ _ _ _ _ _ _ _ _ _ _ _ _ _ _ _ _ _ => rfl) c k
@[simp] theorem Ctx.complete_tcause (c : Ctx) (k : Ctl) : (c.complete k).tcause = c.tcause :=
  Ctx.complete_of (·.tcause) (fun _ _ _ _ _ _ _ _ _ _ _ _ _ _ _ _ _ _ => rfl) c k
@[simp] theorem Ctx.complete_tval (c : Ctx) (k : Ctl) : (c.complete k).tval = c.tval :=
  Ctx.complete_of (·.tval) (fun _ _ _ _ _ _ _ _ _ _ _ _ _ _ _ _ _ _ => rfl) c k
@[simp] theorem Ctx.complete_tlpc (c : Ctx) (k : Ctl) : (c.complete k).tlpc = c.tlpc :=
  Ctx.complete_of (·.tlpc) (fun _ _ _ _ _ _ _ _ _ _ _ _ _ _ _ _ _ _ => rfl) c k
@[simp] theorem Ctx.complete_tscr (c : Ctx) (k : Ctl) : (c.complete k).tscr = c.tscr :=
  Ctx.complete_of (·.tscr) (fun _ _ _ _ _ _ _ _ _ _ _ _ _ _ _ _ _ _ => rfl) c k
@[simp] theorem Ctx.complete_evt (c : Ctx) (k : Ctl) : (c.complete k).evt = c.evt :=
  Ctx.complete_of (·.evt) (fun _ _ _ _ _ _ _ _ _ _ _ _ _ _ _ _ _ _ => rfl) c k
@[simp] theorem Ctx.complete_level (c : Ctx) (k : Ctl) : (c.complete k).level = c.level :=
  Ctx.complete_of (·.level) (fun _ _ _ _ _ _ _ _ _ _ _ _ _ _ _ _ _ _ => rfl) c k
@[simp] theorem Ctx.complete_tags (c : Ctx) (k : Ctl) : (c.complete k).tags = c.tags :=
  Ctx.complete_of (·.tags) (fun _ _ _ _ _ _ _ _ _ _ _ _ _ _ _ _ _ _ => rfl) c k
@[simp] theorem Ctx.complete_loads (c : Ctx) (k : Ctl) : (c.complete k).loads = c.loads :=
  Ctx.complete_of (·.loads) (fun _ _ _ _ _ _ _ _ _ _ _ _ _ _ _ _ _ _ => rfl) c k
@[simp] theorem Ctx.complete_stores (c : Ctx) (k : Ctl) : (c.complete k).stores = c.stores :=
  Ctx.complete_of (·.stores) (fun _ _ _ _ _ _ _ _ _ _ _ _ _ _ _ _ _ _ => rfl) c k
@[simp] theorem Ctx.complete_strong (c : Ctx) (k : Ctl) : (c.complete k).strong = c.strong :=
  Ctx.complete_of (·.strong) (fun _ _ _ _ _ _ _ _ _ _ _ _ _ _ _ _ _ _ => rfl) c k
@[simp] theorem Ctx.complete_outer (c : Ctx) (k : Ctl) : (c.complete k).outer = c.outer :=
  Ctx.complete_of (·.outer) (fun _ _ _ _ _ _ _ _ _ _ _ _ _ _ _ _ _ _ => rfl) c k
@[simp] theorem Ctx.complete_lfaults (c : Ctx) (k : Ctl) : (c.complete k).lfaults = c.lfaults :=
  Ctx.complete_of (·.lfaults) (fun _ _ _ _ _ _ _ _ _ _ _ _ _ _ _ _ _ _ => rfl) c k
@[simp] theorem Ctx.complete_sfaults (c : Ctx) (k : Ctl) : (c.complete k).sfaults = c.sfaults :=
  Ctx.complete_of (·.sfaults) (fun _ _ _ _ _ _ _ _ _ _ _ _ _ _ _ _ _ _ => rfl) c k
@[simp] theorem Ctx.complete_kept (c : Ctx) (k : Ctl) : (c.complete k).kept = c.kept :=
  Ctx.complete_of (·.kept) (fun _ _ _ _ _ _ _ _ _ _ _ _ _ _ _ _ _ _ => rfl) c k
@[simp] theorem Ctx.complete_feed (c : Ctx) (k : Ctl) : (c.complete k).feed = c.feed :=
  Ctx.complete_of (·.feed) (fun _ _ _ _ _ _ _ _ _ _ _ _ _ _ _ _ _ _ => rfl) c k
@[simp] theorem Ctx.complete_barrier (c : Ctx) (k : Ctl) : (c.complete k).barrier = c.barrier :=
  Ctx.complete_of (·.barrier) (fun _ _ _ _ _ _ _ _ _ _ _ _ _ _ _ _ _ _ => rfl) c k
@[simp] theorem Ctx.complete_yieldTo (c : Ctx) (k : Ctl) : (c.complete k).yieldTo = c.yieldTo :=
  Ctx.complete_of (·.yieldTo) (fun _ _ _ _ _ _ _ _ _ _ _ _ _ _ _ _ _ _ => rfl) c k
@[simp] theorem Ctx.complete_wfeStart (c : Ctx) (k : Ctl) : (c.complete k).wfeStart = c.wfeStart :=
  Ctx.complete_of (·.wfeStart) (fun _ _ _ _ _ _ _ _ _ _ _ _ _ _ _ _ _ _ => rfl) c k
@[simp] theorem Ctx.complete_remote (c : Ctx) (k : Ctl) : (c.complete k).remote = c.remote :=
  Ctx.complete_of (·.remote) (fun _ _ _ _ _ _ _ _ _ _ _ _ _ _ _ _ _ _ => rfl) c k
@[simp] theorem Ctx.complete_query (c : Ctx) (k : Ctl) : (c.complete k).query = c.query :=
  Ctx.complete_of (·.query) (fun _ _ _ _ _ _ _ _ _ _ _ _ _ _ _ _ _ _ => rfl) c k
@[simp] theorem Ctx.complete_mig (c : Ctx) (k : Ctl) : (c.complete k).mig = c.mig :=
  Ctx.complete_of (·.mig) (fun _ _ _ _ _ _ _ _ _ _ _ _ _ _ _ _ _ _ => rfl) c k
@[simp] theorem Ctx.complete_done (c : Ctx) (k : Ctl) : (c.complete k).done = c.done :=
  Ctx.complete_of (·.done) (fun _ _ _ _ _ _ _ _ _ _ _ _ _ _ _ _ _ _ => rfl) c k
@[simp] theorem Ctx.complete_save (c : Ctx) (k : Ctl) : (c.complete k).save = c.save :=
  Ctx.complete_of (·.save) (fun _ _ _ _ _ _ _ _ _ _ _ _ _ _ _ _ _ _ => rfl) c k
@[simp] theorem Ctx.complete_doom (c : Ctx) (k : Ctl) : (c.complete k).doom = c.doom :=
  Ctx.complete_of (·.doom) (fun _ _ _ _ _ _ _ _ _ _ _ _ _ _ _ _ _ _ => rfl) c k
@[simp] theorem Ctx.complete_pxch (c : Ctx) (k : Ctl) : (c.complete k).pxch = c.pxch :=
  Ctx.complete_of (·.pxch) (fun _ _ _ _ _ _ _ _ _ _ _ _ _ _ _ _ _ _ => rfl) c k

/-! The issuing context. -/

@[simp] theorem State.slot_setSlot_self (s : State) (t : Nat) (v : Slot) : (s.setSlot t v).slot t = v := by
  simp [State.slot, State.setSlot]

theorem State.slot_setSlot_ne (s : State) {t u : Nat} (v : Slot) (h : t ≠ u) : (s.setSlot t v).slot u = s.slot u := by
  simp [State.slot, State.setSlot, Tab.getD_set_ne _ _ _ h]

@[simp] theorem State.setSlot_setSlot (s : State) (t : Nat) (v w : Slot) :
    (s.setSlot t v).setSlot t w = s.setSlot t w := by
  simp [State.setSlot]

@[simp] theorem State.ctx_setCtx (s : State) (c : Ctx) : (s.setCtx c).ctx = c := by
  simp [State.ctx, State.setCtx]

@[simp] theorem State.slot_setCtx (s : State) (c : Ctx) : (s.setCtx c).slot s.cur = { s.slot s.cur with ctx := some c } := by
  simp [State.setCtx]

theorem State.slot_setCtx_ne (s : State) (c : Ctx) {u : Nat} (h : s.cur ≠ u) : (s.setCtx c).slot u = s.slot u := by
  simp [State.setCtx, State.slot_setSlot_ne _ _ h]

@[simp] theorem State.setCtx_setCtx (s : State) (c d : Ctx) : (s.setCtx c).setCtx d = s.setCtx d := by
  simp only [State.setCtx, State.setSlot_cur, State.slot_setSlot_self, State.setSlot_setSlot]

@[simp] theorem State.mod_eq (s : State) (f : Ctx → Ctx) : s.mod f = s.setCtx (f s.ctx) := rfl

theorem State.ctx_of_slot {s : State} {c : Ctx} (h : (s.slot s.cur).ctx = some c) : s.ctx = c := by
  simp [State.ctx, h]

@[simp] theorem State.ctx_due (s : State) (e : Ev) : (s.due e).ctx = s.ctx := rfl
@[simp] theorem State.ctx_fresh (s : State) : s.fresh.2.ctx = s.ctx := rfl

@[simp] theorem State.setCtx_due (s : State) (e : Ev) (c : Ctx) : (s.due e).setCtx c = (s.setCtx c).due e := rfl

/-! Registers read after they are written. -/

@[simp] theorem Ctx.getX_putX_self (c : Ctx) (n : Fin 64) (w : Word) (h : n ≠ 0) : (c.putX n w).getX n = w := by
  simp [Ctx.getX, Ctx.putX, h]

@[simp] theorem Ctx.getX_zero (c : Ctx) : c.getX 0 = 0 := rfl

@[simp] theorem Ctx.putX_zero (c : Ctx) (w : Word) : c.putX 0 w = c := rfl

theorem Ctx.getX_putX_ne (c : Ctx) {n k : Fin 64} (w : Word) (h : n ≠ k) : (c.putX n w).getX k = c.getX k := by
  unfold Ctx.getX Ctx.putX
  by_cases hn : n = 0
  · simp [hn]
  · by_cases hk : k = 0
    · simp [hk]
    · simp only [hn, hk, if_false]
      exact Vector.getElem_set_ne _ _ (fun e => h (Fin.ext e))

@[simp] theorem Ctx.getV_putV_self (c : Ctx) (n : Fin 16) (w : VWord) : (c.putV n w).getV n = w := by
  simp [Ctx.getV, Ctx.putV]

theorem Ctx.getV_putV_ne (c : Ctx) {n k : Fin 16} (w : VWord) (h : n ≠ k) : (c.putV n w).getV k = c.getV k := by
  simp only [Ctx.getV, Ctx.putV]
  exact Vector.getElem_set_ne _ _ (fun e => h (Fin.ext e))

@[simp] theorem Ctx.getM_putM_self (c : Ctx) (n : Fin 8) (w : MWord) (h : n ≠ 0) : (c.putM n w).getM n = w := by
  simp [Ctx.getM, Ctx.putM, h]

@[simp] theorem Ctx.putM_zero (c : Ctx) (w : MWord) : c.putM 0 w = c := rfl

theorem Ctx.getM_putM_ne (c : Ctx) {n k : Fin 8} (w : MWord) (h : n ≠ k) : (c.putM n w).getM k = c.getM k := by
  unfold Ctx.getM Ctx.putM
  by_cases hn : n = 0
  · simp [hn]
  · by_cases hk : k = 0
    · simp [hk]
    · simp only [hn, hk, if_false]
      exact Vector.getElem_set_ne _ _ (fun e => h (Fin.ext e))

end Sys2Proof.Machine
end

