-- ==== Sys2Proof/Laws/Run.lean ====
section
/-! SUPPORT. The shared operations of instructions, run: what each gives, and when. -/

namespace Sys2Proof.Machine

/-! Computations. -/

theorem M.bind_ok {α β : Type} {m : M α} {f : α → M β} {s s' : State} {a : α} (h : m s = .ok a s') :
    (m >>= f) s = f a s' := by
  simp [bind, EStateM.bind, h]

theorem M.bind_error {α β : Type} {m : M α} {f : α → M β} {s s' : State} {e : Stop} (h : m s = .error e s') :
    (m >>= f) s = .error e s' := by
  simp [bind, EStateM.bind, h]

@[simp] theorem M.pure_run {α : Type} (a : α) (s : State) : (pure a : M α) s = .ok a s := rfl
@[simp] theorem M.get_run (s : State) : (get : M State) s = .ok s s := rfl
@[simp] theorem M.set_run (s t : State) : (set t : M Unit) s = .ok () t := rfl
@[simp] theorem M.modify_run (f : State → State) (s : State) : (modify f : M Unit) s = .ok () (f s) := rfl
@[simp] theorem M.throw_run {α : Type} (e : Stop) (s : State) : (throw e : M α) s = .error e s := rfl
@[simp] theorem M.trap_run {α : Type} (c : Nat) (v : Word) (s : State) : (trap c v : M α) s = .error (.trap c v) s := rfl
@[simp] theorem M.park_run {α : Type} (k : WaitKind) (o : Word) (s : State) :
    (park k o : M α) s = .error (.park k o) s := rfl
@[simp] theorem M.ctx_run (s : State) : ctx s = .ok s.ctx s := rfl
@[simp] theorem M.modC_run (f : Ctx → Ctx) (s : State) : modC f s = .ok () (s.setCtx (f s.ctx)) := rfl
@[simp] theorem M.region_run (s : State) : region s = .ok (s.regionOf s.ctx) s := rfl
@[simp] theorem M.acquire_run (n : Nat) (s : State) :
    acquire n s = .ok () (acquireMark s (.thread s.ctx.cid) n (some s.myCore)) := rfl

@[simp] theorem M.bind_pure_run {α β : Type} (a : α) (f : α → M β) (s : State) : ((pure a : M α) >>= f) s = f a s := rfl
@[simp] theorem M.bind_get_run {β : Type} (f : State → M β) (s : State) : ((get : M State) >>= f) s = f s s := rfl
@[simp] theorem M.bind_set_run {β : Type} (t : State) (f : Unit → M β) (s : State) : ((set t : M Unit) >>= f) s = f () t := rfl
@[simp] theorem M.bind_modify_run {β : Type} (g : State → State) (f : Unit → M β) (s : State) :
    ((modify g : M Unit) >>= f) s = f () (g s) := rfl
@[simp] theorem M.bind_ctx_run {β : Type} (f : Ctx → M β) (s : State) : (ctx >>= f) s = f s.ctx s := rfl
@[simp] theorem M.bind_region_run {β : Type} (f : Region → M β) (s : State) :
    (region >>= f) s = f (s.regionOf s.ctx) s := rfl
@[simp] theorem M.bind_modC_run {β : Type} (g : Ctx → Ctx) (f : Unit → M β) (s : State) :
    (modC g >>= f) s = f () (s.setCtx (g s.ctx)) := rfl
@[simp] theorem M.bind_trap_run {α β : Type} (c : Nat) (v : Word) (f : α → M β) (s : State) :
    ((trap c v : M α) >>= f) s = .error (.trap c v) s := rfl
@[simp] theorem M.bind_park_run {α β : Type} (k : WaitKind) (o : Word) (f : α → M β) (s : State) :
    ((park k o : M α) >>= f) s = .error (.park k o) s := rfl
@[simp] theorem M.bind_acquire_run {β : Type} (n : Nat) (f : Unit → M β) (s : State) :
    (acquire n >>= f) s = f () (acquireMark s (.thread s.ctx.cid) n (some s.myCore)) := rfl

@[simp] theorem M.map_ctx_run {α : Type} (f : Ctx → α) (s : State) : (f <$> ctx) s = .ok (f s.ctx) s := rfl
@[simp] theorem M.map_get_run {α : Type} (f : State → α) (s : State) : (f <$> (get : M State)) s = .ok (f s) s := rfl
@[simp] theorem M.bind_throw_run {α β : Type} (e : Stop) (f : α → M β) (s : State) :
    ((throw e : M α) >>= f) s = .error e s := rfl

/-- The meaning of steps that end in a value. -/
theorem runM_ok {m : M Ctl} {s s' : State} {k : Ctl} (h : m s = .ok k s') : runM m s = .next (complete s' k) := by
  simp [runM, EStateM.run, h, settle]

theorem runM_trap {m : M Ctl} {s s' : State} {cause : Nat} {val : Word} (h : m s = .error (.trap cause val) s') :
    runM m s = .next (takeTrap s' { cause, val, epc := s'.ctx.pc }) := by
  simp [runM, EStateM.run, h, settle]

theorem runM_park {m : M Ctl} {s s' : State} {k : WaitKind} {obj : Word} (h : m s = .error (.park k obj) s') :
    runM m s = .next (s'.setCtx (s'.ctx.parkAt s'.clock k obj)) := by
  simp [runM, EStateM.run, h, settle]

theorem runM_away {m : M Ctl} {s s' : State} (h : m s = .error .away s') :
    runM m s = .next (s'.setCtx { s'.ctx with run := .away, wait := some ⟨.none, 0, s'.clock⟩ }) := by
  simp [runM, EStateM.run, h, settle]

@[simp] theorem complete_seq (s : State) : complete s .seq = (noteSig s s.cur s.ctx).setCtx (s.ctx.complete .seq) := rfl

/-! An event does not look at the contexts, and leaves them. -/

theorem eqPut_setCtx (s : State) (c : Ctx) (e : Event) : eqPut (s.setCtx c) e = (eqPut s e).setCtx c := by
  unfold eqPut
  generalize hb : e.bytes = b
  simp only [State.setCtx_host, State.setCtx_hostMem]
  generalize Mem.writeN s.hostMem _ b = m
  simp only [releaseMark, State.setCtx_hist]
  rfl

theorem irq_setCtx (s : State) (c : Ctx) : irq (s.setCtx c) = (irq s).setCtx c := by
  unfold irq
  by_cases h : s.host.irqv = 0
  · rw [if_pos h, if_pos (show (s.setCtx c).host.irqv = 0 from h)]
  · rw [if_neg h, if_neg (show ¬(s.setCtx c).host.irqv = 0 from h)]
    simp only [State.setCtx_host, State.setCtx_hostMem]
    generalize Mem.writeN s.hostMem _ _ = m
    rfl

theorem setCtx_modDie (s : State) (c : Ctx) (d : Nat) (f : DieSt → DieSt) :
    (s.setCtx c).modDie d f = (s.modDie d f).setCtx c := rfl

theorem event_setCtx (s : State) (c : Ctx) (e : Event) : (s.setCtx c).event e = (s.event e).setCtx c := by
  unfold State.event
  simp only [State.setCtx_host, eqPut_setCtx, show ∀ d, (s.setCtx c).die d = s.die d from fun _ => rfl]
  split
  · rfl
  · split
    · rfl
    · split
      · rw [setCtx_modDie, irq_setCtx]
      · rfl

theorem noteSig_setCtx (s : State) (n : Nat) (c d : Ctx) : noteSig (s.setCtx c) n d = (noteSig s n d).setCtx c := by
  unfold noteSig
  split
  · exact event_setCtx s c _
  · rfl

/-- An instruction that leaves its context as `c` and completes. -/
theorem complete_setCtx (s : State) (c : Ctx) : .next (complete (s.setCtx c) .seq) = s.completes c := by
  simp only [complete_seq, State.completes, State.setCtx_cur, State.ctx_setCtx, noteSig_setCtx, State.setCtx_setCtx]

/-! Registers. -/

theorem needFull_run {s : State} {n : Nat} (h : s.ctx.isFull n = true) : needFull n s = .ok () s := by
  simp [needFull, h]

theorem needFull_park {s : State} {n : Nat} (h : s.ctx.isFull n = false) : needFull n s = .error (.park .reg (wd n)) s := by
  simp [needFull, h]

theorem readX_run {s : State} {n : Fin 64} (h : s.ctx.isFull n = true) : readX n s = .ok (s.ctx.getX n) s := by
  simp [readX, M.bind_ok (needFull_run h)]

theorem readV_run {s : State} {n : Fin 16} (h : s.ctx.isFull (64 + n.val) = true) : readV n s = .ok (s.ctx.getV n) s := by
  simp [readV, M.bind_ok (needFull_run h)]

theorem readM_run {s : State} {n : Fin 8} (h : s.ctx.isFull (80 + n.val) = true) : readM n s = .ok (s.ctx.getM n) s := by
  simp [readM, M.bind_ok (needFull_run h)]

theorem readX_park {s : State} {n : Fin 64} (h : s.ctx.isFull n = false) :
    readX n s = .error (.park .reg (wd n.val)) s := by
  simp [readX, M.bind_error (needFull_park h)]

@[simp] theorem writeX_run (n : Fin 64) (w : Word) (s : State) : writeX n w s = .ok () (s.setCtx (s.ctx.putX n w)) := rfl
@[simp] theorem writeV_run (n : Fin 16) (w : VWord) (s : State) : writeV n w s = .ok () (s.setCtx (s.ctx.putV n w)) := rfl
@[simp] theorem writeM_run (n : Fin 8) (w : MWord) (s : State) : writeM n w s = .ok () (s.setCtx (s.ctx.putM n w)) := rfl

theorem needDst_run {s : State} {n : Nat} (h : s.ctx.canWrite n) : needDst n s = .ok () s := by
  obtain ⟨h1, h2⟩ := h
  have h3 : ¬(n != 0 && n != 80 && s.ctx.isPend n) = true := by
    rcases h1 with rfl | rfl | h1 <;> simp_all
  unfold needDst
  rw [M.bind_ctx_run, if_neg h3, needUnlocked, M.bind_ctx_run, h2]
  rfl

theorem toX_run {s : State} {n : Fin 64} (w : Word) (h : s.ctx.canWrite n) :
    toX n w s = .ok () (s.setCtx (s.ctx.putX n w)) := by
  simp [toX, M.bind_ok (needDst_run h)]

/-! Register forms of Table 8.1. -/

theorem readOpd_r (n : Fin 64) (pos : Nat) : readOpd (.r n) pos = readX n := rfl

theorem prepDst_r {s : State} {n : Fin 64} (h : s.ctx.canWrite n) : prepDst (.r n) s = .ok (.x n) s := by
  simp [prepDst, M.bind_ok (needDst_run h)]

@[simp] theorem writeDst_x (n : Fin 64) (w : Word) : writeDst (.x n) w = writeX n w := rfl

theorem unary_run {f : Word → Word} {o : Ops} {s : State} {a b : Fin 64} (ha : o.a = .r a) (hb : o.b = .r b)
    (hf : s.ctx.isFull b = true) (hw : s.ctx.canWrite a) :
    unary f o s = .ok .seq (s.setCtx (s.ctx.putX a (f (s.ctx.getX b)))) := by
  simp [unary, ha, hb, readOpd_r, M.bind_ok (readX_run hf), M.bind_ok (prepDst_r hw)]
  rfl

theorem binary_run {f : Word → Word → Word} {o : Ops} {s : State} {a b : Fin 64} (ha : o.a = .r a) (hb : o.b = .r b)
    (hc : o.c = none) (hf : s.ctx.isFull b = true) (hg : s.ctx.isFull a = true) (hw : s.ctx.canWrite a) :
    binary f o s = .ok .seq (s.setCtx (s.ctx.putX a (f (s.ctx.getX a) (s.ctx.getX b)))) := by
  simp [binary, ha, hb, hc, readOpd_r, M.bind_ok (readX_run hf), M.bind_ok (readX_run hg), M.bind_ok (prepDst_r hw)]
  rfl

theorem binary_reg_run {f : Word → Word → Word} {o : Ops} {s : State} {a b k : Fin 64} (ha : o.a = .r a)
    (hb : o.b = .r b) (hc : o.c = some k) (hf : s.ctx.isFull b = true) (hg : s.ctx.isFull k = true)
    (hw : s.ctx.canWrite a) :
    binary f o s = .ok .seq (s.setCtx (s.ctx.putX a (f (s.ctx.getX b) (s.ctx.getX k)))) := by
  simp [binary, ha, hb, hc, readOpd_r, M.bind_ok (readX_run hf), M.bind_ok (readX_run hg), M.bind_ok (prepDst_r hw)]
  rfl

end Sys2Proof.Machine
end

