-- ==== Sys2Proof/Laws/Access.lean ====
section
/-! SUPPORT. The shared operations of accesses, run: address checks, releases, and weak and strong accesses sent. -/

namespace Sys2Proof.Machine

/-- The checks of an address (R170): a trap with the address, or its place; the state is as before. -/
theorem checkPlace_run (va : Word) (n : Nat) (s : State) :
    checkPlace va n s = if va.toNat % n ≠ 0 then .error (.trap 0x05 va) s
      else match place (s.regionOf s.ctx) s.myCore va n with
        | none => .error (.trap 0x08 va) s
        | some p => .ok p s := by
  unfold checkPlace
  split
  · rfl
  · simp only [M.bind_get_run]
    cases place (s.regionOf s.ctx) s.myCore va n <;> rfl

/-- Memory held by the XU (R49): a trap with the address, or nothing. -/
theorem checkXu_run (va : Word) (n : Nat) (s : State) :
    checkXu va n s = if heldByXu s (s.regionOf s.ctx).asid va n then .error (.trap 0x08 va) s else .ok () s := by
  simp only [checkXu, M.bind_get_run, M.bind_region_run]
  split <;> rfl

/-- A release (R88, R98): failed stores are reported, or it completes, or the thread parks; only its completion changes
the state. -/
theorem release_run (k : WaitKind) (obj : Word) (sc : Nat) (s : State) :
    release k obj sc s =
      if (!s.ctx.sfaults.isEmpty && s.ctx.stores.isEmpty) = true then .error .storeFault s
      else if (s.ctx.quiet && s.ctx.sfaults.isEmpty) = true then
        .ok () (releaseMark s (.thread s.ctx.cid) ⟨sc, some s.myCore⟩)
      else .error (.park k obj) s := by
  simp only [release, M.bind_ctx_run]
  split
  · rfl
  · split <;> rfl

/-- The room for a weak store (R172). -/
theorem needStoreRoom_run (s : State) :
    needStoreRoom s = if 16 ≤ s.ctx.stores.length then .error (.park .none 0) s else .ok () s := by
  simp only [needStoreRoom, M.bind_ctx_run]
  split <;> rfl

/-- The turn of a strong operation (R92). -/
theorem needStrong_run (s : State) :
    needStrong s = if s.ctx.strong.isSome then .error (.park .none 0) s else .ok () s := by
  simp only [needStrong, M.bind_ctx_run]
  split <;> rfl

/-- The context with a weak load on its way. -/
def Ctx.sentLoad (c : Ctx) (id n : Nat) (elems : List (Nat × Word × Option Nat)) (dst : LoadDst) (inputs : RegSet) : Ctx :=
  let c := { c with loads := c.loads ++ [⟨id, c.seq, c.pc, n, elems, dst, inputs⟩] }
  match dst with
  | .operand => c
  | _ => c.awaitReg dst.num

/-- A weak load sent (R172): it takes a fresh number, joins the loads of the thread, and its return becomes due. -/
theorem sendLoad_run (n : Nat) (elems : List (Nat × Word × Option Nat)) (dst : LoadDst) (inputs : RegSet) (s : State) :
    sendLoad n elems dst inputs s =
      let t := { s with ids := s.ids + 1 }.mod (·.sentLoad s.ids n elems dst inputs)
      .ok () (t.due (.registerFill t.ctx.cid s.ids)) := rfl

/-- The context with a weak store on its way. -/
def Ctx.sentStore (c : Ctx) (id : Nat) (elems : List (Word × Option Nat × List Byte)) : Ctx :=
  { c with stores := c.stores ++ [⟨id, c.seq, elems, none⟩] }

/-- A weak store that is not performed at once is sent (R172). -/
theorem sendStore_run {elems : List (Word × Option Nat × List Byte)} {s : State} (h : elems ≠ [])
    (hc : atCore s.myCore (elems.map (·.2.1)) = false) (hr : s.ctx.stores.length < 16) :
    sendStore elems s =
      .ok () (({ s with ids := s.ids + 1 }.mod (·.sentStore s.ids elems)).due (.weakStorePerformed s.ctx.cid s.ids)) := by
  have he : elems.isEmpty = false := by simpa using h
  simp only [sendStore, M.bind_get_run, he, hc, Bool.false_and, Bool.false_eq_true, if_false]
  rw [M.bind_ok (by rw [needStoreRoom_run, if_neg (by omega)])]
  rfl

/-- A strong operation that leaves its destination pending is sent, and the instruction completes (R172). -/
theorem sendStrong_run (op : StrongOp) (va : Word) (key : Nat) (dst : Fin 64) (acq frame : Bool) (scope : Nat) (s : State) :
    sendStrong op va key dst acq scope false frame s =
      let t := { s with ids := s.ids + 1 }.mod (fun c =>
        c.sentStrong ⟨s.ids, c.seq, c.pc, s.myCore, op, va, key, dst, acq, scope, false, frame⟩)
      .ok .seq (t.dueNear key (.strongAccessPerformed t.ctx.cid s.ids)) := rfl

/-- One that holds the thread parks it. -/
theorem sendStrong_hold (op : StrongOp) (va : Word) (key : Nat) (dst : Fin 64) (acq frame : Bool) (scope : Nat) (s : State) :
    sendStrong op va key dst acq scope true frame s =
      let t := { s with ids := s.ids + 1 }.mod (fun c =>
        c.sentStrong ⟨s.ids, c.seq, c.pc, s.myCore, op, va, key, dst, acq, scope, true, frame⟩)
      .error (.park .none 0) (t.dueNear key (.strongAccessPerformed t.ctx.cid s.ids)) := rfl

/-- A trap in the Trap state kills with DOUBLE (R293). -/
theorem takeTrap_double {s : State} {e : Exc} (h : s.ctx.inTrap = true) : takeTrap s e = kill s s.ctx.cid (e.kill true) := by
  simp [takeTrap, h]

/-- A trap without a handler kills (R293, R294). -/
theorem takeTrap_kill {s : State} {e : Exc} (h : s.ctx.inTrap = false)
    (hk : e.cause = 0x04 ∨ e.cause = 0x0A ∨ e.cause = 0x0D ∨ (s.regionOf s.ctx).tvec = 0) :
    takeTrap s e = kill s s.ctx.cid (e.kill false) := by
  simp only [takeTrap, h, Bool.false_eq_true, if_false]
  rw [if_pos hk]

/-- No part of memory changes where an instruction parks or goes away. -/
theorem settle_park_mem (k : WaitKind) (obj : Word) (s : State) : (settle (.error (.park k obj) s)).mem = s.mem := rfl
theorem settle_away_mem (s : State) : (settle (.error .away s)).mem = s.mem := rfl

/-! Elements of vector registers (R197). -/

theorem ofElems_sum (w : Nat) (l : List Nat) (k acc : Nat) :
    (l.zipIdx k).foldl (fun (acc : Nat) (e : Nat × Nat) => acc + e.1 % 2 ^ w * 2 ^ (w * e.2)) acc =
      acc + 2 ^ (w * k) * l.foldr (fun a r => a % 2 ^ w + 2 ^ w * r) 0 := by
  induction l generalizing k acc with
  | nil => simp
  | cons a l ih =>
    rw [List.zipIdx_cons, List.foldl_cons, ih, List.foldr_cons, show w * (k + 1) = w * k + w by ring, pow_add]
    ring

theorem packed_lt (w : Nat) (l : List Nat) : l.foldr (fun a r => a % 2 ^ w + 2 ^ w * r) 0 < 2 ^ (w * l.length) := by
  induction l with
  | nil => simp
  | cons a l ih =>
    rw [List.foldr_cons, List.length_cons, show w * (l.length + 1) = w + w * l.length by ring, pow_add]
    have := Nat.mod_lt a (Nat.two_pow_pos w)
    have := Nat.mul_le_mul_left (2 ^ w) (Nat.succ_le_of_lt ih)
    rw [Nat.mul_succ] at this
    omega

theorem packed_elem (w : Nat) (l : List Nat) {i : Nat} (hi : i < l.length) :
    l.foldr (fun a r => a % 2 ^ w + 2 ^ w * r) 0 / 2 ^ (w * i) % 2 ^ w = l[i] % 2 ^ w := by
  induction l generalizing i with
  | nil => simp at hi
  | cons a l ih =>
    rw [List.foldr_cons]
    cases i with
    | zero => simp
    | succ i =>
      rw [show w * (i + 1) = w + w * i by ring, pow_add, ← Nat.div_div_eq_div_mul,
        Nat.add_mul_div_left _ _ (Nat.two_pow_pos w), Nat.div_eq_of_lt (Nat.mod_lt _ (Nat.two_pow_pos w)), Nat.zero_add,
        ih (by simpa using hi)]
      rfl

/-- An element of a register built from elements. -/
theorem elemOf_ofElems {w : Nat} {l : List Nat} (hl : w * l.length ≤ 1024) {i : Nat} (hi : i < l.length) :
    elemOf w (ofElems w l) i = l[i] % 2 ^ w := by
  have h := packed_lt w l
  have hb : l.foldr (fun a r => a % 2 ^ w + 2 ^ w * r) 0 < 2 ^ 1024 :=
    h.trans_le (Nat.pow_le_pow_right (by norm_num) hl)
  rw [elemOf, ofElems, ofElems_sum, Nat.mul_zero, Nat.pow_zero, Nat.one_mul, Nat.zero_add, BitVec.toNat_ofNat,
    Nat.mod_eq_of_lt hb, packed_elem w l hi]

/-- An element of a merged result (R199). -/
theorem elemOf_mergeV {k : VCfg} (hk : k.w * k.n ≤ 1024) (m : VMask) (old : VWord) (f : Nat → Nat) {i : Nat} (hi : i < k.n) :
    elemOf k.w (mergeV k m old f) i =
      if activeAt k.vl m.m i then f i % 2 ^ k.w else if m.zero then 0 else elemOf k.w old i := by
  rw [mergeV, elemOf_ofElems (by simpa using hk) (by simpa using hi)]
  simp only [List.getElem_map, List.getElem_range]
  split
  · rfl
  · split
    · exact Nat.zero_mod _
    · rw [elemOf, Nat.mod_mod]

end Sys2Proof.Machine
end

