-- ==== Sys2Proof/Laws/Memory.lean ====
section
/-! SUPPORT. The laws of memory: reading what was written, and that every operation keeps the canonical form. -/

namespace Sys2Proof.Machine

/-- The canonical form as an order and a condition on each entry. -/
theorem Memory.wf_iff (m : List Host.Cell) :
    Memory.wf m = true ↔ m.Pairwise (fun c d => c.1 < d.1) ∧ ∀ c ∈ m, c.2 ≠ unlisted := by
  induction m with
  | nil => simp [Memory.wf]
  | cons c m ih =>
    cases m with
    | nil => simp [Memory.wf]
    | cons d l =>
      simp only [Memory.wf, Bool.and_eq_true, bne_iff_ne, decide_eq_true_eq, ih, List.pairwise_cons, List.mem_cons,
        forall_eq_or_imp]
      constructor
      · rintro ⟨⟨h1, h2⟩, ⟨h3, h4⟩, h5, h6⟩
        exact ⟨⟨⟨h2, fun e he => h2.trans (h3 e he)⟩, h3, h4⟩, h1, h5, h6⟩
      · rintro ⟨⟨⟨h2, -⟩, h3, h4⟩, h1, h5, h6⟩
        exact ⟨⟨h1, h2⟩, ⟨h3, h4⟩, h5, h6⟩

theorem Memory.wf_nil : Memory.wf [] = true := rfl

theorem Memory.wf_filter {m : List Host.Cell} (p : Host.Cell → Bool) (h : Memory.wf m = true) :
    Memory.wf (m.filter p) = true := by
  rw [Memory.wf_iff] at *
  exact ⟨h.1.filter _, fun c hc => h.2 c (List.mem_of_mem_filter hc)⟩

/-- The entries of a written memory: the written one, where its byte is listed, and the others. -/
theorem Mem.mem_write {m : List Host.Cell} {a : Nat} {v : Byte} {c : Host.Cell} (h : c ∈ Mem.write m a v) :
    (c = (a, v) ∧ v ≠ unlisted) ∨ c ∈ m := by
  induction m with
  | nil =>
    simp only [Mem.write] at h
    split at h <;> simp_all
  | cons e m ih =>
    obtain ⟨b, w⟩ := e
    simp only [Mem.write] at h
    split at h
    · split at h <;> simp_all
    · split at h
      · split at h <;> simp_all
        rcases h with h | h <;> simp [h]
      · rcases List.mem_cons.1 h with h | h
        · simp [h]
        · rcases ih h with h | h
          · exact .inl h
          · exact .inr (by simp [h])

/-- One byte written keeps the canonical form. -/
theorem Memory.wf_write {m : List Host.Cell} (a : Nat) (v : Byte) (h : Memory.wf m = true) :
    Memory.wf (Mem.write m a v) = true := by
  induction m with
  | nil =>
    simp only [Mem.write]
    split
    · rfl
    · simpa [Memory.wf]
  | cons e m ih =>
    obtain ⟨b, w⟩ := e
    rw [Memory.wf_iff] at h
    obtain ⟨hs, hv⟩ := h
    rw [List.pairwise_cons] at hs
    have hm : Memory.wf m = true := (Memory.wf_iff m).2 ⟨hs.2, fun c hc => hv c (by simp [hc])⟩
    have hw : w ≠ unlisted := hv (b, w) (by simp)
    simp only [Mem.write]
    split
    · rename_i hab
      split
      · exact (Memory.wf_iff _).2 ⟨List.pairwise_cons.2 hs, hv⟩
      · rename_i hn
        refine (Memory.wf_iff _).2 ⟨List.pairwise_cons.2 ⟨?_, List.pairwise_cons.2 hs⟩, ?_⟩
        · intro c hc
          rcases List.mem_cons.1 hc with rfl | hc
          · exact hab
          · exact hab.trans (hs.1 c hc)
        · intro c hc
          rcases List.mem_cons.1 hc with rfl | hc
          · exact hn
          · exact hv c hc
    · split
      · rename_i hab
        subst hab
        split
        · exact hm
        · rename_i hn
          refine (Memory.wf_iff _).2 ⟨List.pairwise_cons.2 hs, ?_⟩
          intro c hc
          rcases List.mem_cons.1 hc with rfl | hc
          · exact hn
          · exact hv c (by simp [hc])
      · rename_i h1 h2
        have hi := (Memory.wf_iff _).1 (ih hm)
        refine (Memory.wf_iff _).2 ⟨List.pairwise_cons.2 ⟨?_, hi.1⟩, ?_⟩
        · intro c hc
          rcases Mem.mem_write hc with ⟨rfl, -⟩ | hc
          · simp only
            omega
          · exact hs.1 c hc
        · intro c hc
          rcases List.mem_cons.1 hc with rfl | hc
          · exact hw
          · exact hi.2 c hc

/-- Bytes written keep the canonical form. -/
theorem Memory.wf_writeN {m : List Host.Cell} (a : Nat) (l : List Byte) (h : Memory.wf m = true) :
    Memory.wf (Mem.writeN m a l) = true := by
  induction l generalizing m a with
  | nil => exact h
  | cons b l ih => exact ih (a + 1) (Memory.wf_write a b h)

/-- Below its first entry a memory in canonical form lists nothing. -/
theorem Mem.read_below {m : List Host.Cell} {a : Nat} (h : ∀ c ∈ m, a < c.1) : Mem.read m a = unlisted := by
  induction m with
  | nil => rfl
  | cons e m ih =>
    have := h e (by simp)
    rw [Mem.read, if_neg (by omega), ih fun c hc => h c (by simp [hc])]

/-- A byte that was written is read back. -/
theorem Mem.read_write_self {m : List Host.Cell} (a : Nat) (v : Byte) (h : Memory.wf m = true) :
    Mem.read (Mem.write m a v) a = v := by
  induction m with
  | nil =>
    simp only [Mem.write]
    split
    · rename_i hv; rw [hv]; rfl
    · simp [Mem.read]
  | cons e m ih =>
    obtain ⟨b, w⟩ := e
    have hw := (Memory.wf_iff _).1 h
    have hs := List.pairwise_cons.1 hw.1
    have hm : Memory.wf m = true := (Memory.wf_iff m).2 ⟨hs.2, fun c hc => hw.2 c (by simp [hc])⟩
    simp only [Mem.write]
    split
    · rename_i hab
      split
      · rename_i hv
        rw [Mem.read, if_neg (by omega), hv]
        exact Mem.read_below fun c hc => hab.trans (hs.1 c hc)
      · simp [Mem.read]
    · split
      · rename_i hab
        subst hab
        split
        · rename_i hv
          rw [hv]
          exact Mem.read_below hs.1
        · simp [Mem.read]
      · rename_i h1 h2
        rw [Mem.read, if_neg (by omega), ih hm]

/-- Every other byte stays. -/
theorem Mem.read_write_ne (m : List Host.Cell) {a c : Nat} (v : Byte) (h : c ≠ a) :
    Mem.read (Mem.write m a v) c = Mem.read m c := by
  induction m with
  | nil =>
    simp only [Mem.write]
    split
    · rfl
    · simp [Mem.read, Ne.symm h]
  | cons e m ih =>
    obtain ⟨b, w⟩ := e
    simp only [Mem.write]
    split
    · split
      · rfl
      · rw [Mem.read, if_neg (Ne.symm h)]
    · split
      · rename_i hab
        subst hab
        split <;> simp [Mem.read, Ne.symm h]
      · simp [Mem.read, ih]

/-- Bytes outside a write of several stay. -/
theorem Mem.read_writeN_outside (m : List Host.Cell) (a : Nat) (l : List Byte) {c : Nat} (h : c < a ∨ a + l.length ≤ c) :
    Mem.read (Mem.writeN m a l) c = Mem.read m c := by
  induction l generalizing m a with
  | nil => rfl
  | cons b l ih =>
    simp only [List.length_cons] at h
    rw [Mem.writeN, ih _ _ (by omega), Mem.read_write_ne m b (by omega)]

/-- Each byte of a write of several is read back. -/
theorem Mem.read_writeN {m : List Host.Cell} (a : Nat) (l : List Byte) (h : Memory.wf m = true) {i : Nat}
    (hi : i < l.length) : Mem.read (Mem.writeN m a l) (a + i) = l[i] := by
  induction l generalizing m a i with
  | nil => simp at hi
  | cons b l ih =>
    rw [Mem.writeN]
    cases i with
    | zero =>
      rw [Mem.read_writeN_outside _ _ _ (by omega), Nat.add_zero]
      exact Mem.read_write_self a b h
    | succ i =>
      have hl : i < l.length := by simpa using hi
      have := ih (m := Mem.write m a b) (a + 1) (Memory.wf_write a b h) hl
      rw [show a + (i + 1) = a + 1 + i by omega, this]
      rfl

theorem Mem.length_readN (m : List Host.Cell) (a n : Nat) : (Mem.readN m a n).length = n := by
  induction n generalizing a with
  | zero => rfl
  | succ n ih => simp [Mem.readN, ih]

theorem Mem.getElem_readN (m : List Host.Cell) (a n : Nat) {i : Nat} (h : i < (Mem.readN m a n).length) :
    (Mem.readN m a n)[i] = Mem.read m (a + i) := by
  induction n generalizing a i with
  | zero => simp [Mem.readN] at h
  | succ n ih =>
    cases i with
    | zero => rfl
    | succ i =>
      simp only [Mem.readN, List.getElem_cons_succ]
      rw [ih (a + 1), show a + 1 + i = a + (i + 1) by omega]

/-- The written bytes are read back whole. -/
theorem Mem.readN_writeN {m : List Host.Cell} (a : Nat) (l : List Byte) (h : Memory.wf m = true) :
    Mem.readN (Mem.writeN m a l) a l.length = l := by
  apply List.ext_getElem (by rw [Mem.length_readN])
  intro i h1 h2
  rw [Mem.getElem_readN, Mem.read_writeN a l h h2]

/-- Bytes read apart from those written are as before. -/
theorem Mem.readN_writeN_apart (m : List Host.Cell) (a : Nat) (l : List Byte) {c n : Nat}
    (h : c + n ≤ a ∨ a + l.length ≤ c) : Mem.readN (Mem.writeN m a l) c n = Mem.readN m c n := by
  apply List.ext_getElem (by simp [Mem.length_readN])
  intro i h1 h2
  rw [Mem.length_readN] at h1
  rw [Mem.getElem_readN, Mem.getElem_readN, Mem.read_writeN_outside m a l (by omega)]

/-- Bytes replaced keep the canonical form. -/
theorem Memory.wf_fill {m : List Host.Cell} (key n : Nat) (f : Nat → Byte) (h : Memory.wf m = true) :
    Memory.wf (Mem.fill m key n f) = true := by
  rw [Memory.wf_iff] at *
  have hr : ((List.range n).map (fun i => (key + i, f i))).Pairwise (fun c d : Host.Cell => c.1 < d.1) := by
    rw [List.pairwise_map]
    exact List.pairwise_lt_range.imp fun {a b} hab => by simpa using hab
  have hin : ∀ c ∈ ((List.range n).map (fun i => (key + i, f i))).filter (fun c : Host.Cell => c.2 != unlisted),
      (key ≤ c.1 ∧ c.1 < key + n) ∧ c.2 ≠ unlisted := by
    intro c hc
    obtain ⟨hc, hu⟩ := List.mem_filter.1 hc
    obtain ⟨i, hi, rfl⟩ := List.mem_map.1 hc
    have := List.mem_range.1 hi
    exact ⟨⟨by simp, by simpa using this⟩, by simpa using hu⟩
  constructor
  · rw [Mem.fill, List.append_assoc, List.pairwise_append, List.pairwise_append]
    refine ⟨h.1.filter _, ⟨hr.filter _, h.1.filter _, ?_⟩, ?_⟩
    · intro c hc d hd
      have h1 := hin c hc
      have h2 : key + n ≤ d.1 := by simpa using (List.mem_filter.1 hd).2
      omega
    · intro c hc d hd
      have h1 : c.1 < key := by simpa using (List.mem_filter.1 hc).2
      rcases List.mem_append.1 hd with hd | hd
      · have := (hin d hd).1
        omega
      · have h2 : key + n ≤ d.1 := by simpa using (List.mem_filter.1 hd).2
        omega
  · intro c hc
    rw [Mem.fill, List.append_assoc] at hc
    rcases List.mem_append.1 hc with hc | hc
    · exact h.2 c (List.mem_of_mem_filter hc)
    · rcases List.mem_append.1 hc with hc | hc
      · exact (hin c hc).2
      · exact h.2 c (List.mem_of_mem_filter hc)

/-- The pinned lines that a write of the device waits for are all that its waiting changes. -/
theorem unpinFor_only (key n fuel : Nat) (s : State) : ∃ p r, unpinFor key n fuel s = { s with pins := p, records := r } := by
  induction fuel generalizing s with
  | zero => exact ⟨s.pins, s.records, rfl⟩
  | succ k ih =>
    unfold unpinFor
    split
    · exact ⟨s.pins, s.records, rfl⟩
    · rename_i p _
      obtain ⟨p', r', h⟩ := ih (consumePin s p.1 p.2.1)
      rw [h]
      unfold consumePin
      split <;> exact ⟨p', r', rfl⟩

/-- What a store performed does to memory. -/
theorem State.store_mem (s : State) (key : Nat) (bs : List Byte) (a : Agent) (seq : Nat) (m : Option Mark)
    (via : Option Via) : (s.store key bs a seq m via).mem = Mem.writeN s.mem key bs := by
  unfold State.store
  split
  · obtain ⟨p, r, h⟩ := unpinFor_only key bs.length (pinFuel s) s
    rw [h]
  · rfl

/-- A store performed keeps the canonical form. -/
theorem State.store_wf {s : State} (key : Nat) (bs : List Byte) (a : Agent) (seq : Nat) (m : Option Mark)
    (h : Memory.wf s.mem = true) : Memory.wf (s.store key bs a seq m).mem = true := by
  rw [State.store_mem]
  exact Memory.wf_writeN key bs h

/-- A page frame set to zero keeps the canonical form, and reads as zeros. -/
theorem zeroFrame_wf {s : State} (die pa : Nat) (h : Memory.wf s.mem = true) :
    Memory.wf (zeroFrame s die pa).mem = true :=
  Memory.wf_filter _ h

/-- A die's explicit levels at 0 keep the canonical form. -/
theorem clearLevels_wf {s : State} (die : Nat) (h : Memory.wf s.mem = true) : Memory.wf (clearLevels s die).mem = true :=
  Memory.wf_filter _ h

/-- An index area filled keeps the canonical form. -/
theorem fillArea_wf {s : State} (ks : List (Nat × Nat)) (h : Memory.wf s.mem = true) :
    Memory.wf (fillArea s ks).mem = true := by
  suffices H : ∀ (g : Nat → Nat → Byte) (m : List Host.Cell), Memory.wf m = true →
      Memory.wf (ks.foldl (fun m k => Mem.fill m k.1 k.2 (g k.1)) m) = true from
    H (fun k i => BitVec.ofNat 8 ((Config.freeWord s.tick (k + i)).toNat)) _ h
  intro g m hm
  induction ks generalizing m with
  | nil => exact hm
  | cons k ks ih => exact ih _ (Memory.wf_fill k.1 k.2 (g k.1) hm)

/-- A program loaded keeps the canonical form. -/
theorem loadMem_wf {m : List Host.Cell} (hs : List Half) (h : Memory.wf m = true) : Memory.wf (loadMem m hs) = true := by
  suffices H : ∀ (l : List (Nat × Nat)) (m : List Host.Cell), Memory.wf m = true →
      Memory.wf (l.foldl (fun m e => Mem.writeN m (ordKey 0 e.1) (toBytes 8 e.2)) m) = true from
    Memory.wf_writeN _ _ (H _ _ h)
  intro l m hm
  induction l generalizing m with
  | nil => exact hm
  | cons e l ih => exact ih _ (Memory.wf_writeN _ _ hm)

theorem reset_mem_wf : Memory.wf State.reset.mem = true := rfl

end Sys2Proof.Machine
end

