-- ==== Sys2Proof/Laws/PerInstr.lean ====
section
/-! SUPPORT. Per instruction: the row that its key names builds it back, so that encoding and decoding speak of one row. -/

namespace Sys2Proof.Laws.Numbered

/-- The key of an instruction names a row of its page and major that builds it; an instruction without a key has at most one
halfword. -/
def Statement (i : Instr) : Prop :=
  match i.key with
  | some (p, m, j, o) => ∃ r, (rowsOf p m)[j]? = some r ∧ r.build o = i ∧ r.page = p ∧ r.major = m
  | none => (encode i).length ≤ 1

theorem mov (o : Ops) : Statement (.mov o) := ⟨_, rfl, rfl, rfl, rfl⟩
theorem add (o : Ops) : Statement (.add o) := ⟨_, rfl, rfl, rfl, rfl⟩
theorem sub (o : Ops) : Statement (.sub o) := ⟨_, rfl, rfl, rfl, rfl⟩
theorem and (o : Ops) : Statement (.and o) := ⟨_, rfl, rfl, rfl, rfl⟩
theorem or (o : Ops) : Statement (.or o) := ⟨_, rfl, rfl, rfl, rfl⟩
theorem xor (o : Ops) : Statement (.xor o) := ⟨_, rfl, rfl, rfl, rfl⟩
theorem andn (o : Ops) : Statement (.andn o) := ⟨_, rfl, rfl, rfl, rfl⟩
theorem shl (o : Ops) : Statement (.shl o) := ⟨_, rfl, rfl, rfl, rfl⟩
theorem shr (o : Ops) : Statement (.shr o) := ⟨_, rfl, rfl, rfl, rfl⟩
theorem sha (o : Ops) : Statement (.sha o) := ⟨_, rfl, rfl, rfl, rfl⟩
theorem rol (o : Ops) : Statement (.rol o) := ⟨_, rfl, rfl, rfl, rfl⟩
theorem slt (o : Ops) : Statement (.slt o) := ⟨_, rfl, rfl, rfl, rfl⟩
theorem sltu (o : Ops) : Statement (.sltu o) := ⟨_, rfl, rfl, rfl, rfl⟩
theorem seq (o : Ops) : Statement (.seq o) := ⟨_, rfl, rfl, rfl, rfl⟩
theorem min (o : Ops) : Statement (.min o) := ⟨_, rfl, rfl, rfl, rfl⟩
theorem max (o : Ops) : Statement (.max o) := ⟨_, rfl, rfl, rfl, rfl⟩
theorem addi (o : Ops) : Statement (.addi o) := ⟨_, rfl, rfl, rfl, rfl⟩
theorem movi (o : Ops) : Statement (.movi o) := ⟨_, rfl, rfl, rfl, rfl⟩
theorem ld (o : Ops) : Statement (.ld o) := ⟨_, rfl, rfl, rfl, rfl⟩
theorem st (o : Ops) : Statement (.st o) := ⟨_, rfl, rfl, rfl, rfl⟩
theorem beqz (o : Ops) : Statement (.beqz o) := ⟨_, rfl, rfl, rfl, rfl⟩
theorem bnez (o : Ops) : Statement (.bnez o) := ⟨_, rfl, rfl, rfl, rfl⟩
theorem br (o : Ops) : Statement (.br o) := ⟨_, rfl, rfl, rfl, rfl⟩
theorem call (o : Ops) : Statement (.call o) := ⟨_, rfl, rfl, rfl, rfl⟩
theorem mul (o : Ops) : Statement (.mul o) := ⟨_, rfl, rfl, rfl, rfl⟩
theorem mulh (o : Ops) : Statement (.mulh o) := ⟨_, rfl, rfl, rfl, rfl⟩
theorem mulhu (o : Ops) : Statement (.mulhu o) := ⟨_, rfl, rfl, rfl, rfl⟩
theorem div (o : Ops) : Statement (.div o) := ⟨_, rfl, rfl, rfl, rfl⟩
theorem divu (o : Ops) : Statement (.divu o) := ⟨_, rfl, rfl, rfl, rfl⟩
theorem rem (o : Ops) : Statement (.rem o) := ⟨_, rfl, rfl, rfl, rfl⟩
theorem remu (o : Ops) : Statement (.remu o) := ⟨_, rfl, rfl, rfl, rfl⟩
theorem minu (o : Ops) : Statement (.minu o) := ⟨_, rfl, rfl, rfl, rfl⟩
theorem maxu (o : Ops) : Statement (.maxu o) := ⟨_, rfl, rfl, rfl, rfl⟩
theorem clz (o : Ops) : Statement (.clz o) := ⟨_, rfl, rfl, rfl, rfl⟩
theorem ctz (o : Ops) : Statement (.ctz o) := ⟨_, rfl, rfl, rfl, rfl⟩
theorem popc (o : Ops) : Statement (.popc o) := ⟨_, rfl, rfl, rfl, rfl⟩
theorem abs (o : Ops) : Statement (.abs o) := ⟨_, rfl, rfl, rfl, rfl⟩
theorem neg (o : Ops) : Statement (.neg o) := ⟨_, rfl, rfl, rfl, rfl⟩
theorem bfx (o : Ops) : Statement (.bfx o) := ⟨_, rfl, rfl, rfl, rfl⟩
theorem bfi (o : Ops) : Statement (.bfi o) := ⟨_, rfl, rfl, rfl, rfl⟩
theorem vmov (o : Ops) : Statement (.vmov o) := ⟨_, rfl, rfl, rfl, rfl⟩
theorem vadd (o : Ops) : Statement (.vadd o) := ⟨_, rfl, rfl, rfl, rfl⟩
theorem vsub (o : Ops) : Statement (.vsub o) := ⟨_, rfl, rfl, rfl, rfl⟩
theorem vmul (o : Ops) : Statement (.vmul o) := ⟨_, rfl, rfl, rfl, rfl⟩
theorem vfma (o : Ops) : Statement (.vfma o) := ⟨_, rfl, rfl, rfl, rfl⟩
theorem vmin (o : Ops) : Statement (.vmin o) := ⟨_, rfl, rfl, rfl, rfl⟩
theorem vmax (o : Ops) : Statement (.vmax o) := ⟨_, rfl, rfl, rfl, rfl⟩
theorem vand (o : Ops) : Statement (.vand o) := ⟨_, rfl, rfl, rfl, rfl⟩
theorem vor (o : Ops) : Statement (.vor o) := ⟨_, rfl, rfl, rfl, rfl⟩
theorem vxor (o : Ops) : Statement (.vxor o) := ⟨_, rfl, rfl, rfl, rfl⟩
theorem vshl (o : Ops) : Statement (.vshl o) := ⟨_, rfl, rfl, rfl, rfl⟩
theorem vshr (o : Ops) : Statement (.vshr o) := ⟨_, rfl, rfl, rfl, rfl⟩
theorem vsha (o : Ops) : Statement (.vsha o) := ⟨_, rfl, rfl, rfl, rfl⟩
theorem vbcst (o : Ops) : Statement (.vbcst o) := ⟨_, rfl, rfl, rfl, rfl⟩
theorem vneg (o : Ops) : Statement (.vneg o) := ⟨_, rfl, rfl, rfl, rfl⟩
theorem vabs (o : Ops) : Statement (.vabs o) := ⟨_, rfl, rfl, rfl, rfl⟩
theorem vld (o : Ops) : Statement (.vld o) := ⟨_, rfl, rfl, rfl, rfl⟩
theorem vst (o : Ops) : Statement (.vst o) := ⟨_, rfl, rfl, rfl, rfl⟩
theorem nop (o : Ops) : Statement (.nop o) := ⟨_, rfl, rfl, rfl, rfl⟩
theorem tend (o : Ops) : Statement (.tend o) := ⟨_, rfl, rfl, rfl, rfl⟩
theorem yield (o : Ops) : Statement (.yield o) := ⟨_, rfl, rfl, rfl, rfl⟩
theorem ret (o : Ops) : Statement (.ret o) := ⟨_, rfl, rfl, rfl, rfl⟩
theorem jmpr (o : Ops) : Statement (.jmpr o) := ⟨_, rfl, rfl, rfl, rfl⟩
theorem callr (o : Ops) : Statement (.callr o) := ⟨_, rfl, rfl, rfl, rfl⟩
theorem loopx (o : Ops) : Statement (.loopx o) := ⟨_, rfl, rfl, rfl, rfl⟩
theorem phase (o : Ops) : Statement (.phase o) := ⟨_, rfl, rfl, rfl, rfl⟩
theorem fence (o : Ops) : Statement (.fence o) := ⟨_, rfl, rfl, rfl, rfl⟩
theorem bar (o : Ops) : Statement (.bar o) := ⟨_, rfl, rfl, rfl, rfl⟩
theorem waitany (o : Ops) : Statement (.waitany o) := ⟨_, rfl, rfl, rfl, rfl⟩
theorem waitall (o : Ops) : Statement (.waitall o) := ⟨_, rfl, rfl, rfl, rfl⟩
theorem ffr (o : Ops) : Statement (.ffr o) := ⟨_, rfl, rfl, rfl, rfl⟩
theorem trap (o : Ops) : Statement (.trap o) := ⟨_, rfl, rfl, rfl, rfl⟩
theorem tclr (o : Ops) : Statement (.tclr o) := ⟨_, rfl, rfl, rfl, rfl⟩
theorem ifnc (o : Ops) : Statement (.ifnc o) := ⟨_, rfl, rfl, rfl, rfl⟩
theorem bsig (sig : BitVec 11) : Statement (.bsig sig) := Nat.le_refl _
theorem pool (len : BitVec 11) : Statement (.pool len) := Nat.le_refl _
theorem ldb (o : Ops) : Statement (.ldb o) := ⟨_, rfl, rfl, rfl, rfl⟩
theorem ldbu (o : Ops) : Statement (.ldbu o) := ⟨_, rfl, rfl, rfl, rfl⟩
theorem ldh (o : Ops) : Statement (.ldh o) := ⟨_, rfl, rfl, rfl, rfl⟩
theorem ldhu (o : Ops) : Statement (.ldhu o) := ⟨_, rfl, rfl, rfl, rfl⟩
theorem ldw (o : Ops) : Statement (.ldw o) := ⟨_, rfl, rfl, rfl, rfl⟩
theorem ldwu (o : Ops) : Statement (.ldwu o) := ⟨_, rfl, rfl, rfl, rfl⟩
theorem ldd (o : Ops) : Statement (.ldd o) := ⟨_, rfl, rfl, rfl, rfl⟩
theorem stb (o : Ops) : Statement (.stb o) := ⟨_, rfl, rfl, rfl, rfl⟩
theorem sth (o : Ops) : Statement (.sth o) := ⟨_, rfl, rfl, rfl, rfl⟩
theorem stw (o : Ops) : Statement (.stw o) := ⟨_, rfl, rfl, rfl, rfl⟩
theorem std (o : Ops) : Statement (.std o) := ⟨_, rfl, rfl, rfl, rfl⟩
theorem lds (o : Ops) : Statement (.lds o) := ⟨_, rfl, rfl, rfl, rfl⟩
theorem sts (o : Ops) : Statement (.sts o) := ⟨_, rfl, rfl, rfl, rfl⟩
theorem lea (o : Ops) : Statement (.lea o) := ⟨_, rfl, rfl, rfl, rfl⟩
theorem pf (o : Ops) : Statement (.pf o) := ⟨_, rfl, rfl, rfl, rfl⟩
theorem ldp (o : Ops) : Statement (.ldp o) := ⟨_, rfl, rfl, rfl, rfl⟩
theorem ldf (o : Ops) : Statement (.ldf o) := ⟨_, rfl, rfl, rfl, rfl⟩
theorem ldfc (o : Ops) : Statement (.ldfc o) := ⟨_, rfl, rfl, rfl, rfl⟩
theorem stf (o : Ops) : Statement (.stf o) := ⟨_, rfl, rfl, rfl, rfl⟩
theorem sto (o : Ops) : Statement (.sto o) := ⟨_, rfl, rfl, rfl, rfl⟩
theorem sete (o : Ops) : Statement (.sete o) := ⟨_, rfl, rfl, rfl, rfl⟩
theorem tstf (o : Ops) : Statement (.tstf o) := ⟨_, rfl, rfl, rfl, rfl⟩
theorem amoadd (o : Ops) : Statement (.amoadd o) := ⟨_, rfl, rfl, rfl, rfl⟩
theorem amoand (o : Ops) : Statement (.amoand o) := ⟨_, rfl, rfl, rfl, rfl⟩
theorem amoor (o : Ops) : Statement (.amoor o) := ⟨_, rfl, rfl, rfl, rfl⟩
theorem amoxor (o : Ops) : Statement (.amoxor o) := ⟨_, rfl, rfl, rfl, rfl⟩
theorem amomin (o : Ops) : Statement (.amomin o) := ⟨_, rfl, rfl, rfl, rfl⟩
theorem amomax (o : Ops) : Statement (.amomax o) := ⟨_, rfl, rfl, rfl, rfl⟩
theorem amominu (o : Ops) : Statement (.amominu o) := ⟨_, rfl, rfl, rfl, rfl⟩
theorem amomaxu (o : Ops) : Statement (.amomaxu o) := ⟨_, rfl, rfl, rfl, rfl⟩
theorem amoswp (o : Ops) : Statement (.amoswp o) := ⟨_, rfl, rfl, rfl, rfl⟩
theorem amocas (o : Ops) : Statement (.amocas o) := ⟨_, rfl, rfl, rfl, rfl⟩
theorem amofadd (o : Ops) : Statement (.amofadd o) := ⟨_, rfl, rfl, rfl, rfl⟩
theorem amoinc (o : Ops) : Statement (.amoinc o) := ⟨_, rfl, rfl, rfl, rfl⟩
theorem amodec (o : Ops) : Statement (.amodec o) := ⟨_, rfl, rfl, rfl, rfl⟩
theorem vdiv (o : Ops) : Statement (.vdiv o) := ⟨_, rfl, rfl, rfl, rfl⟩
theorem vsqrt (o : Ops) : Statement (.vsqrt o) := ⟨_, rfl, rfl, rfl, rfl⟩
theorem vminu (o : Ops) : Statement (.vminu o) := ⟨_, rfl, rfl, rfl, rfl⟩
theorem vmaxu (o : Ops) : Statement (.vmaxu o) := ⟨_, rfl, rfl, rfl, rfl⟩
theorem vfms (o : Ops) : Statement (.vfms o) := ⟨_, rfl, rfl, rfl, rfl⟩
theorem vfnma (o : Ops) : Statement (.vfnma o) := ⟨_, rfl, rfl, rfl, rfl⟩
theorem vcvt (o : Ops) : Statement (.vcvt o) := ⟨_, rfl, rfl, rfl, rfl⟩
theorem vsel (o : Ops) : Statement (.vsel o) := ⟨_, rfl, rfl, rfl, rfl⟩
theorem vcmp (fn : Fin 10) (o : Ops) : Statement (.vcmp fn o) := by
  fin_cases fn <;> exact ⟨_, rfl, rfl, rfl, rfl⟩
theorem vred (fn : Fin 10) (o : Ops) : Statement (.vred fn o) := by
  fin_cases fn <;> exact ⟨_, rfl, rfl, rfl, rfl⟩
theorem vscan (fn : Fin 3) (o : Ops) : Statement (.vscan fn o) := by
  fin_cases fn <;> exact ⟨_, rfl, rfl, rfl, rfl⟩
theorem vperm (o : Ops) : Statement (.vperm o) := ⟨_, rfl, rfl, rfl, rfl⟩
theorem vslup (o : Ops) : Statement (.vslup o) := ⟨_, rfl, rfl, rfl, rfl⟩
theorem vsldn (o : Ops) : Statement (.vsldn o) := ⟨_, rfl, rfl, rfl, rfl⟩
theorem vcomp (o : Ops) : Statement (.vcomp o) := ⟨_, rfl, rfl, rfl, rfl⟩
theorem viota (o : Ops) : Statement (.viota o) := ⟨_, rfl, rfl, rfl, rfl⟩
theorem vgetl (o : Ops) : Statement (.vgetl o) := ⟨_, rfl, rfl, rfl, rfl⟩
theorem vsetl (o : Ops) : Statement (.vsetl o) := ⟨_, rfl, rfl, rfl, rfl⟩
theorem vlds (o : Ops) : Statement (.vlds o) := ⟨_, rfl, rfl, rfl, rfl⟩
theorem vsts (o : Ops) : Statement (.vsts o) := ⟨_, rfl, rfl, rfl, rfl⟩
theorem vgath (o : Ops) : Statement (.vgath o) := ⟨_, rfl, rfl, rfl, rfl⟩
theorem vscat (o : Ops) : Statement (.vscat o) := ⟨_, rfl, rfl, rfl, rfl⟩
theorem vldl (o : Ops) : Statement (.vldl o) := ⟨_, rfl, rfl, rfl, rfl⟩
theorem vstl (o : Ops) : Statement (.vstl o) := ⟨_, rfl, rfl, rfl, rfl⟩
theorem mand (o : Ops) : Statement (.mand o) := ⟨_, rfl, rfl, rfl, rfl⟩
theorem mor (o : Ops) : Statement (.mor o) := ⟨_, rfl, rfl, rfl, rfl⟩
theorem mxor (o : Ops) : Statement (.mxor o) := ⟨_, rfl, rfl, rfl, rfl⟩
theorem mnot (o : Ops) : Statement (.mnot o) := ⟨_, rfl, rfl, rfl, rfl⟩
theorem mpop (o : Ops) : Statement (.mpop o) := ⟨_, rfl, rfl, rfl, rfl⟩
theorem mff (o : Ops) : Statement (.mff o) := ⟨_, rfl, rfl, rfl, rfl⟩
theorem mtox (o : Ops) : Statement (.mtox o) := ⟨_, rfl, rfl, rfl, rfl⟩
theorem mfromx (o : Ops) : Statement (.mfromx o) := ⟨_, rfl, rfl, rfl, rfl⟩
theorem vsett (o : Ops) : Statement (.vsett o) := ⟨_, rfl, rfl, rfl, rfl⟩
theorem vexp2 (o : Ops) : Statement (.vexp2 o) := ⟨_, rfl, rfl, rfl, rfl⟩
theorem vlog2 (o : Ops) : Statement (.vlog2 o) := ⟨_, rfl, rfl, rfl, rfl⟩
theorem vrcp (o : Ops) : Statement (.vrcp o) := ⟨_, rfl, rfl, rfl, rfl⟩
theorem vrsq (o : Ops) : Statement (.vrsq o) := ⟨_, rfl, rfl, rfl, rfl⟩
theorem vsin (o : Ops) : Statement (.vsin o) := ⟨_, rfl, rfl, rfl, rfl⟩
theorem vcos (o : Ops) : Statement (.vcos o) := ⟨_, rfl, rfl, rfl, rfl⟩
theorem vtanh (o : Ops) : Statement (.vtanh o) := ⟨_, rfl, rfl, rfl, rfl⟩
theorem gang (o : Ops) : Statement (.gang o) := ⟨_, rfl, rfl, rfl, rfl⟩
theorem disb (o : Ops) : Statement (.disb o) := ⟨_, rfl, rfl, rfl, rfl⟩
theorem gid (o : Ops) : Statement (.gid o) := ⟨_, rfl, rfl, rfl, rfl⟩
theorem pmrg (o : Ops) : Statement (.pmrg o) := ⟨_, rfl, rfl, rfl, rfl⟩
theorem pxch (o : Ops) : Statement (.pxch o) := ⟨_, rfl, rfl, rfl, rfl⟩
theorem cpy (o : Ops) : Statement (.cpy o) := ⟨_, rfl, rfl, rfl, rfl⟩
theorem cpys (o : Ops) : Statement (.cpys o) := ⟨_, rfl, rfl, rfl, rfl⟩
theorem menq (o : Ops) : Statement (.menq o) := ⟨_, rfl, rfl, rfl, rfl⟩
theorem mqry (o : Ops) : Statement (.mqry o) := ⟨_, rfl, rfl, rfl, rfl⟩
theorem mcan (o : Ops) : Statement (.mcan o) := ⟨_, rfl, rfl, rfl, rfl⟩
theorem dcfg (o : Ops) : Statement (.dcfg o) := ⟨_, rfl, rfl, rfl, rfl⟩
theorem dqry (o : Ops) : Statement (.dqry o) := ⟨_, rfl, rfl, rfl, rfl⟩
theorem fenter (o : Ops) : Statement (.fenter o) := ⟨_, rfl, rfl, rfl, rfl⟩
theorem fleave (o : Ops) : Statement (.fleave o) := ⟨_, rfl, rfl, rfl, rfl⟩
theorem fopen (o : Ops) : Statement (.fopen o) := ⟨_, rfl, rfl, rfl, rfl⟩
theorem fjoin (o : Ops) : Statement (.fjoin o) := ⟨_, rfl, rfl, rfl, rfl⟩
theorem fpub (o : Ops) : Statement (.fpub o) := ⟨_, rfl, rfl, rfl, rfl⟩
theorem fret (o : Ops) : Statement (.fret o) := ⟨_, rfl, rfl, rfl, rfl⟩
theorem fretOwn (o : Ops) : Statement (.fretOwn o) := ⟨_, rfl, rfl, rfl, rfl⟩
theorem dget (o : Ops) : Statement (.dget o) := ⟨_, rfl, rfl, rfl, rfl⟩
theorem dgetSt (o : Ops) : Statement (.dgetSt o) := ⟨_, rfl, rfl, rfl, rfl⟩
theorem dset (o : Ops) : Statement (.dset o) := ⟨_, rfl, rfl, rfl, rfl⟩
theorem faddr (o : Ops) : Statement (.faddr o) := ⟨_, rfl, rfl, rfl, rfl⟩
theorem fadd (o : Ops) : Statement (.fadd o) := ⟨_, rfl, rfl, rfl, rfl⟩
theorem fsub (o : Ops) : Statement (.fsub o) := ⟨_, rfl, rfl, rfl, rfl⟩
theorem fmul (o : Ops) : Statement (.fmul o) := ⟨_, rfl, rfl, rfl, rfl⟩
theorem fdiv (o : Ops) : Statement (.fdiv o) := ⟨_, rfl, rfl, rfl, rfl⟩
theorem fsqrt (o : Ops) : Statement (.fsqrt o) := ⟨_, rfl, rfl, rfl, rfl⟩
theorem fmin (o : Ops) : Statement (.fmin o) := ⟨_, rfl, rfl, rfl, rfl⟩
theorem fmax (o : Ops) : Statement (.fmax o) := ⟨_, rfl, rfl, rfl, rfl⟩
theorem fabs (o : Ops) : Statement (.fabs o) := ⟨_, rfl, rfl, rfl, rfl⟩
theorem fneg (o : Ops) : Statement (.fneg o) := ⟨_, rfl, rfl, rfl, rfl⟩
theorem fsgnj (o : Ops) : Statement (.fsgnj o) := ⟨_, rfl, rfl, rfl, rfl⟩
theorem fma (o : Ops) : Statement (.fma o) := ⟨_, rfl, rfl, rfl, rfl⟩
theorem fms (o : Ops) : Statement (.fms o) := ⟨_, rfl, rfl, rfl, rfl⟩
theorem fnma (o : Ops) : Statement (.fnma o) := ⟨_, rfl, rfl, rfl, rfl⟩
theorem feq (o : Ops) : Statement (.feq o) := ⟨_, rfl, rfl, rfl, rfl⟩
theorem flt (o : Ops) : Statement (.flt o) := ⟨_, rfl, rfl, rfl, rfl⟩
theorem fle (o : Ops) : Statement (.fle o) := ⟨_, rfl, rfl, rfl, rfl⟩
theorem fclass (o : Ops) : Statement (.fclass o) := ⟨_, rfl, rfl, rfl, rfl⟩
theorem fcvti (o : Ops) : Statement (.fcvti o) := ⟨_, rfl, rfl, rfl, rfl⟩
theorem fcvtu (o : Ops) : Statement (.fcvtu o) := ⟨_, rfl, rfl, rfl, rfl⟩
theorem icvtf (o : Ops) : Statement (.icvtf o) := ⟨_, rfl, rfl, rfl, rfl⟩
theorem ucvtf (o : Ops) : Statement (.ucvtf o) := ⟨_, rfl, rfl, rfl, rfl⟩
theorem fcvtf (o : Ops) : Statement (.fcvtf o) := ⟨_, rfl, rfl, rfl, rfl⟩
theorem beq (o : Ops) : Statement (.beq o) := ⟨_, rfl, rfl, rfl, rfl⟩
theorem bne (o : Ops) : Statement (.bne o) := ⟨_, rfl, rfl, rfl, rfl⟩
theorem blt (o : Ops) : Statement (.blt o) := ⟨_, rfl, rfl, rfl, rfl⟩
theorem bge (o : Ops) : Statement (.bge o) := ⟨_, rfl, rfl, rfl, rfl⟩
theorem bltu (o : Ops) : Statement (.bltu o) := ⟨_, rfl, rfl, rfl, rfl⟩
theorem bgeu (o : Ops) : Statement (.bgeu o) := ⟨_, rfl, rfl, rfl, rfl⟩
theorem loop (o : Ops) : Statement (.loop o) := ⟨_, rfl, rfl, rfl, rfl⟩
theorem loopi (o : Ops) : Statement (.loopi o) := ⟨_, rfl, rfl, rfl, rfl⟩
theorem csrr (o : Ops) : Statement (.csrr o) := ⟨_, rfl, rfl, rfl, rfl⟩
theorem csrw (o : Ops) : Statement (.csrw o) := ⟨_, rfl, rfl, rfl, rfl⟩
theorem csrs (o : Ops) : Statement (.csrs o) := ⟨_, rfl, rfl, rfl, rfl⟩
theorem csrc (o : Ops) : Statement (.csrc o) := ⟨_, rfl, rfl, rfl, rfl⟩
theorem post (o : Ops) : Statement (.post o) := ⟨_, rfl, rfl, rfl, rfl⟩
theorem spawn (o : Ops) : Statement (.spawn o) := ⟨_, rfl, rfl, rfl, rfl⟩
theorem launch (o : Ops) : Statement (.launch o) := ⟨_, rfl, rfl, rfl, rfl⟩
theorem tcrd (o : Ops) : Statement (.tcrd o) := ⟨_, rfl, rfl, rfl, rfl⟩
theorem rwait (o : Ops) : Statement (.rwait o) := ⟨_, rfl, rfl, rfl, rfl⟩
theorem homeq (o : Ops) : Statement (.homeq o) := ⟨_, rfl, rfl, rfl, rfl⟩
theorem rld (o : Ops) : Statement (.rld o) := ⟨_, rfl, rfl, rfl, rfl⟩
theorem rst (o : Ops) : Statement (.rst o) := ⟨_, rfl, rfl, rfl, rfl⟩
theorem ramo (o : Ops) : Statement (.ramo o) := ⟨_, rfl, rfl, rfl, rfl⟩
theorem rfill (o : Ops) : Statement (.rfill o) := ⟨_, rfl, rfl, rfl, rfl⟩
theorem rstat (o : Ops) : Statement (.rstat o) := ⟨_, rfl, rfl, rfl, rfl⟩
theorem eret (o : Ops) : Statement (.eret o) := ⟨_, rfl, rfl, rfl, rfl⟩
theorem eretR (o : Ops) : Statement (.eretR o) := ⟨_, rfl, rfl, rfl, rfl⟩
theorem park (o : Ops) : Statement (.park o) := ⟨_, rfl, rfl, rfl, rfl⟩
theorem kill (o : Ops) : Statement (.kill o) := ⟨_, rfl, rfl, rfl, rfl⟩
theorem scrub (o : Ops) : Statement (.scrub o) := ⟨_, rfl, rfl, rfl, rfl⟩
theorem invva (o : Ops) : Statement (.invva o) := ⟨_, rfl, rfl, rfl, rfl⟩
theorem invasid (o : Ops) : Statement (.invasid o) := ⟨_, rfl, rfl, rfl, rfl⟩
theorem wfe (o : Ops) : Statement (.wfe o) := ⟨_, rfl, rfl, rfl, rfl⟩
theorem slotset (o : Ops) : Statement (.slotset o) := ⟨_, rfl, rfl, rfl, rfl⟩
theorem resume (o : Ops) : Statement (.resume o) := ⟨_, rfl, rfl, rfl, rfl⟩
theorem resumeKill (o : Ops) : Statement (.resumeKill o) := ⟨_, rfl, rfl, rfl, rfl⟩
theorem taskDispatch (slot : Nat) : Statement (.taskDispatch slot) := Nat.zero_le _
theorem shareInterval : Statement (.shareInterval) := Nat.zero_le _
theorem preemptionSave (cid : Nat) : Statement (.preemptionSave cid) := Nat.zero_le _
theorem imageSaveDone (cid : Nat) : Statement (.imageSaveDone cid) := Nat.zero_le _
theorem slotScrubDone (slot : Nat) (ok : Bool) : Statement (.slotScrubDone slot ok) := Nat.zero_le _
theorem registerFill (cid id : Nat) : Statement (.registerFill cid id) := Nat.zero_le _
theorem weakLoadFault (cid id : Nat) : Statement (.weakLoadFault cid id) := Nat.zero_le _
theorem heldLoadFaultTrap (cid : Nat) : Statement (.heldLoadFaultTrap cid) := Nat.zero_le _
theorem weakStoreFault (cid id : Nat) : Statement (.weakStoreFault cid id) := Nat.zero_le _
theorem weakStorePerformed (cid id : Nat) : Statement (.weakStorePerformed cid id) := Nat.zero_le _
theorem waitLimitExpiry (cid : Nat) : Statement (.waitLimitExpiry cid) := Nat.zero_le _
theorem yieldComplete (cid : Nat) : Statement (.yieldComplete cid) := Nat.zero_le _
theorem wfeTimeout (cid : Nat) : Statement (.wfeTimeout cid) := Nat.zero_le _
theorem feWordStateChange (key : Nat) : Statement (.feWordStateChange key) := Nat.zero_le _
theorem pinnedLineUnpin (region id : Nat) : Statement (.pinnedLineUnpin region id) := Nat.zero_le _
theorem claimSweepStart (die : Nat) : Statement (.claimSweepStart die) := Nat.zero_le _
theorem claimRequestArrival (r : ClaimReq) : Statement (.claimRequestArrival r) := Nat.zero_le _
theorem claimGrantArrival (sweep : Nat) (out : ClaimOutcome) : Statement (.claimGrantArrival sweep out) := Nat.zero_le _
theorem claimRelease (r : ClaimReq) : Statement (.claimRelease r) := Nat.zero_le _
theorem deferredRequestAdmit (die : Nat) : Statement (.deferredRequestAdmit die) := Nat.zero_le _
theorem postArrival (p : PostMsg) : Statement (.postArrival p) := Nat.zero_le _
theorem regionAdmission (id : Nat) : Statement (.regionAdmission id) := Nat.zero_le _
theorem launchResult (cid : Nat) (reg : Fin 64) (code : Nat) : Statement (.launchResult cid reg code) := Nat.zero_le _
theorem regionComplete (region : Nat) : Statement (.regionComplete region) := Nat.zero_le _
theorem copyComplete (id : Nat) : Statement (.copyComplete id) := Nat.zero_le _
theorem matrixRecordIssue (die : Nat) : Statement (.matrixRecordIssue die) := Nat.zero_le _
theorem matrixRecordComplete (region id : Nat) : Statement (.matrixRecordComplete region id) := Nat.zero_le _
theorem partnerSumsArrival (region id : Nat) : Statement (.partnerSumsArrival region id) := Nat.zero_le _
theorem pairTimeout (region id : Nat) : Statement (.pairTimeout region id) := Nat.zero_le _
theorem chainHoldTimeout (clus hold : Nat) : Statement (.chainHoldTimeout clus hold) := Nat.zero_le _
theorem indexBuildComplete (id : Nat) : Statement (.indexBuildComplete id) := Nat.zero_le _
theorem stippleQueryReturn (cid : Nat) : Statement (.stippleQueryReturn cid) := Nat.zero_le _
theorem remoteReply (dest : BitVec 16) (seq : BitVec 32) (r : Reply) : Statement (.remoteReply dest seq r) := Nat.zero_le _
theorem rfillArrival (m : RfillMsg) : Statement (.rfillArrival m) := Nat.zero_le _
theorem rfillOutcome (cid : Nat) (code : Nat) : Statement (.rfillOutcome cid code) := Nat.zero_le _
theorem pxchDataArrival (cid : Nat) (a : Fin 16) (data : VWord) : Statement (.pxchDataArrival cid a data) := Nat.zero_le _
theorem migrationSlotRequest (cid : Nat) : Statement (.migrationSlotRequest cid) := Nat.zero_le _
theorem migrationArrival (cid slot : Nat) : Statement (.migrationArrival cid slot) := Nat.zero_le _
theorem pageGrowthFill (die : Nat) (asid : BitVec 16) (va : Word) : Statement (.pageGrowthFill die asid va) := Nat.zero_le _
theorem fabricRequestArrival (r : Request) : Statement (.fabricRequestArrival r) := Nat.zero_le _
theorem requestRetry (dest : BitVec 16) (seq : BitVec 32) : Statement (.requestRetry dest seq) := Nat.zero_le _
theorem packageLost (node : BitVec 16) : Statement (.packageLost node) := Nat.zero_le _
theorem lostNoticeArrival (node : BitVec 16) : Statement (.lostNoticeArrival node) := Nat.zero_le _
theorem packageFence : Statement (.packageFence) := Nat.zero_le _
theorem flitSlotReceive (port : Fin 8) (f : Flit) : Statement (.flitSlotReceive port f) := Nat.zero_le _
theorem nakReplay (port : Fin 8) : Statement (.nakReplay port) := Nat.zero_le _
theorem linkRetrain (port : Fin 8) : Statement (.linkRetrain port) := Nat.zero_le _
theorem linkDown (port : Fin 8) : Statement (.linkDown port) := Nat.zero_le _
theorem keySwitchSend (port : Fin 8) : Statement (.keySwitchSend port) := Nat.zero_le _
theorem keyLow (port : Fin 8) : Statement (.keyLow port) := Nat.zero_le _
theorem linkHold (port : Fin 8) : Statement (.linkHold port) := Nat.zero_le _
theorem holdTimeout (port : Fin 8) (start : Nat) : Statement (.holdTimeout port start) := Nat.zero_le _
theorem lctlDown (port : Fin 8) (b : Bool) : Statement (.lctlDown port b) := Nat.zero_le _
theorem lctlArm (port : Fin 8) (b : Bool) : Statement (.lctlArm port b) := Nat.zero_le _
theorem lkeyWrite (port : Fin 8) (w : Word) : Statement (.lkeyWrite port w) := Nat.zero_le _
theorem fstatWrite (w : Word) : Statement (.fstatWrite w) := Nat.zero_le _
theorem vtypeWrite (w : Word) : Statement (.vtypeWrite w) := Nat.zero_le _
theorem plumbWrite (w : Word) : Statement (.plumbWrite w) := Nat.zero_le _
theorem fabricWrite (w : Word) : Statement (.fabricWrite w) := Nat.zero_le _
theorem csrWrite (who : CsrAgent) (n : Nat) (w : Word) : Statement (.csrWrite who n w) := Nat.zero_le _
theorem launchDoorbell (tail : BitVec 32) : Statement (.launchDoorbell tail) := Nat.zero_le _
theorem launchQueueEntry : Statement (.launchQueueEntry) := Nat.zero_le _
theorem ownerWrite (m : Master) (w : Word) : Statement (.ownerWrite m w) := Nat.zero_le _
theorem nextWrite (m : Master) (w : Word) : Statement (.nextWrite m w) := Nat.zero_le _
theorem mboxWrite (m : Master) (w : Word) : Statement (.mboxWrite m w) := Nat.zero_le _
theorem dhaltWrite (m : Master) (w : Word) : Statement (.dhaltWrite m w) := Nat.zero_le _
theorem hostRegisterWrite (m : Master) (off : Nat) (w : Word) : Statement (.hostRegisterWrite m off w) := Nat.zero_le _
theorem hostAccess (a : HostAcc) : Statement (.hostAccess a) := Nat.zero_le _
theorem smbusRegisterWrite (b : SmbusBytes) : Statement (.smbusRegisterWrite b) := Nat.zero_le _
theorem smbusRegisterRead (b : SmbusBytes) : Statement (.smbusRegisterRead b) := Nat.zero_le _
theorem eventQueueDrain : Statement (.eventQueueDrain) := Nat.zero_le _
theorem measure : Statement (.measure) := Nat.zero_le _
theorem openLineage : Statement (.openLineage) := Nat.zero_le _
theorem sealAndContinue : Statement (.sealAndContinue) := Nat.zero_le _
theorem sealAndStop : Statement (.sealAndStop) := Nat.zero_le _
theorem restore : Statement (.restore) := Nat.zero_le _
theorem closeLineage : Statement (.closeLineage) := Nat.zero_le _
theorem ident : Statement (.ident) := Nat.zero_le _
theorem counterAdvanceArrival (a : Advance) : Statement (.counterAdvanceArrival a) := Nat.zero_le _
theorem counterAdvanceAck (peer : BitVec 128) (lineage : BitVec 128) (counter : BitVec 40) (full : Bool) :
    Statement (.counterAdvanceAck peer lineage counter full) := Nat.zero_le _
theorem counterAdvanceResend (peer : BitVec 128) (lineage : BitVec 128) :
    Statement (.counterAdvanceResend peer lineage) := Nat.zero_le _
theorem packageReset (boot : BootResult) : Statement (.packageReset boot) := Nat.zero_le _
theorem freeze : Statement (.freeze) := Nat.zero_le _
theorem thermalTrip : Statement (.thermalTrip) := Nat.zero_le _
theorem scanStart (core : Nat) : Statement (.scanStart core) := Nat.zero_le _
theorem scanEnd (core : Nat) (pass : Bool) : Statement (.scanEnd core pass) := Nat.zero_le _
theorem coreRetirement (core : Nat) : Statement (.coreRetirement core) := Nat.zero_le _
theorem correctedError (array unit : Nat) (die : Nat) (addr : Word) :
    Statement (.correctedError array unit die addr) := Nat.zero_le _
theorem uncorrectableError (e : ArrayError) : Statement (.uncorrectableError e) := Nat.zero_le _
theorem patrolRead (die : Nat) (addr : Nat) (flipped : Bool) : Statement (.patrolRead die addr flipped) := Nat.zero_le _
theorem strongAccessPerformed (cid id : Nat) : Statement (.strongAccessPerformed cid id) := Nat.zero_le _
theorem invalidationComplete (cid : Nat) : Statement (.invalidationComplete cid) := Nat.zero_le _
theorem scrubComplete (cid : Nat) : Statement (.scrubComplete cid) := Nat.zero_le _
theorem linkUp (port : Fin 8) (stated : BitVec 48) (peerGen : BitVec 8) :
    Statement (.linkUp port stated peerGen) := Nat.zero_le _
theorem powerLoss : Statement (.powerLoss) := Nat.zero_le _
theorem stewardMessage (cid : Nat) : Statement (.stewardMessage cid) := Nat.zero_le _

end Sys2Proof.Laws.Numbered
end

