-- ==== Sys2Proof/Tests/Slice0.lean ====
section
/-! SUPPORT. Tests: words written out from the encoding tables, what well-formedness refuses, one step of instructions
on small states, and for each statement a state that meets its premises. -/

namespace Sys2Proof.Tests

open Sys2Proof Sys2Proof.Machine

set_option Elab.async false

/-- Operands in register form. -/
def ops (a b : Fin 64) (c : Option (Fin 64)) (q : BitVec 4) (imm : Int) : Ops := { q, a := .r a, b := .r b, c, imm }

/-- Each run of halfwords decodes, as a whole, to its instruction. -/
abbrev Decodes (l : List (List Half × Instr)) : Prop := ∀ e ∈ l, decode e.1 = .ok e.2 e.1.length


theorem test_decode_alu_a : Decodes [
    ([0x0035], .mov (ops 3 5 none 0 0)),
    ([0x0135], .add (ops 3 5 none 0 0)),
    ([0x0235], .sub (ops 3 5 none 0 0)),
    ([0x0335], .and (ops 3 5 none 0 0)),
    ([0x0435], .or (ops 3 5 none 0 0)),
    ([0x0535], .xor (ops 3 5 none 0 0)),
    ([0x0635], .andn (ops 3 5 none 0 0)),
    ([0x0735], .shl (ops 3 5 none 0 0)),
    ([0x0835], .shr (ops 3 5 none 0 0)),
    ([0x0935], .sha (ops 3 5 none 0 0)),
    ([0x0A35], .rol (ops 3 5 none 0 0)),
    ([0x0B35], .slt (ops 3 5 none 0 0)),
    ([0x0C35], .sltu (ops 3 5 none 0 0)),
    ([0x0D35], .seq (ops 3 5 none 0 0)),
    ([0x0E35], .min (ops 3 5 none 0 0)),
    ([0x0F35], .max (ops 3 5 none 0 0))] := by decide +kernel

theorem test_decode_formats_page0 : Decodes [
    ([0x13FD], .addi (ops 3 0 none 0 (-3))),
    ([0x23FD], .movi (ops 3 0 none 0 (-3))),
    ([0x3357], .ld (ops 3 5 none 0 56)),
    ([0x4357], .st (ops 3 5 none 0 56)),
    ([0x53FD], .beqz (ops 3 0 none 0 (-3))),
    ([0x63FD], .bnez (ops 3 0 none 0 (-3))),
    ([0x7FFD], .br (ops 0 0 none 0 (-3))),
    ([0x8FFD], .call (ops 0 0 none 0 (-3))),
    ([0xB357], .vld (ops 3 5 none 0 896)),
    ([0xC357], .vst (ops 3 5 none 0 896))] := by decide +kernel

theorem test_decode_alu_b : Decodes [
    ([0x9035], .mul (ops 3 5 none 0 0)),
    ([0x9135], .mulh (ops 3 5 none 0 0)),
    ([0x9235], .mulhu (ops 3 5 none 0 0)),
    ([0x9335], .div (ops 3 5 none 0 0)),
    ([0x9435], .divu (ops 3 5 none 0 0)),
    ([0x9535], .rem (ops 3 5 none 0 0)),
    ([0x9635], .remu (ops 3 5 none 0 0)),
    ([0x9735], .minu (ops 3 5 none 0 0)),
    ([0x9835], .maxu (ops 3 5 none 0 0)),
    ([0x9935], .clz (ops 3 5 none 0 0)),
    ([0x9A35], .ctz (ops 3 5 none 0 0)),
    ([0x9B35], .popc (ops 3 5 none 0 0)),
    ([0x9C35], .abs (ops 3 5 none 0 0)),
    ([0x9D35], .neg (ops 3 5 none 0 0)),
    ([0x9E35], .bfx (ops 3 5 none 0 0)),
    ([0xF407, 0x9F35], .bfi (ops 3 5 (some 7) 0 0))] := by decide +kernel

theorem test_decode_vector_page0 : Decodes [
    ([0xA035], .vmov (ops 3 5 none 0 0)),
    ([0xA135], .vadd (ops 3 5 none 0 0)),
    ([0xA235], .vsub (ops 3 5 none 0 0)),
    ([0xA335], .vmul (ops 3 5 none 0 0)),
    ([0xF407, 0xA435], .vfma (ops 3 5 (some 7) 0 0)),
    ([0xA535], .vmin (ops 3 5 none 0 0)),
    ([0xA635], .vmax (ops 3 5 none 0 0)),
    ([0xA735], .vand (ops 3 5 none 0 0)),
    ([0xA835], .vor (ops 3 5 none 0 0)),
    ([0xA935], .vxor (ops 3 5 none 0 0)),
    ([0xAA35], .vshl (ops 3 5 none 0 0)),
    ([0xAB35], .vshr (ops 3 5 none 0 0)),
    ([0xAC35], .vsha (ops 3 5 none 0 0)),
    ([0xAD35], .vbcst (ops 3 5 none 0 0)),
    ([0xAE35], .vneg (ops 3 5 none 0 0)),
    ([0xAF35], .vabs (ops 3 5 none 0 0))] := by decide +kernel

theorem test_decode_control_page0 : Decodes [
    ([0xD000], .nop (ops 0 0 none 0 0)),
    ([0xD100], .tend (ops 0 0 none 0 0)),
    ([0xD209], .yield (ops 0 0 none 0 9)),
    ([0xD300], .ret (ops 0 0 none 0 0)),
    ([0xD405], .jmpr (ops 0 5 none 0 0)),
    ([0xD505], .callr (ops 0 5 none 0 0)),
    ([0xD602], .loopx (ops 0 0 none 0 2)),
    ([0xD703], .phase (ops 0 0 none 0 3)),
    ([0xD803], .fence (ops 0 0 none 0 3)),
    ([0xD932], .bar (ops 3 0 none 0 2)),
    ([0xDA35], .waitany (ops 3 5 none 0 0)),
    ([0xDB35], .waitall (ops 3 5 none 0 0)),
    ([0xDC35], .ffr (ops 3 5 none 0 0)),
    ([0xDD09], .trap (ops 0 0 none 0 9)),
    ([0xDE05], .tclr (ops 0 5 none 0 0)),
    ([0xDF00], .ifnc (ops 0 0 none 0 0))] := by decide +kernel

theorem test_decode_bsig_pool : Decodes [
    ([0xE2A5], .bsig 0x2A5),
    ([0xEAA5], .pool 0x2A5)] := by decide +kernel

theorem test_decode_page1_major0 : Decodes [
    ([0xF810, 0x0035], .ldb (ops 3 5 none 0 0)),
    ([0xF810, 0x0135], .ldbu (ops 3 5 none 0 0)),
    ([0xF810, 0x0235], .ldh (ops 3 5 none 0 0)),
    ([0xF810, 0x0335], .ldhu (ops 3 5 none 0 0)),
    ([0xF810, 0x0435], .ldw (ops 3 5 none 0 0)),
    ([0xF810, 0x0535], .ldwu (ops 3 5 none 0 0)),
    ([0xF810, 0x0635], .ldd (ops 3 5 none 0 0)),
    ([0xF810, 0x0735], .stb (ops 3 5 none 0 0)),
    ([0xF810, 0x0835], .sth (ops 3 5 none 0 0)),
    ([0xF810, 0x0935], .stw (ops 3 5 none 0 0)),
    ([0xF810, 0x0A35], .std (ops 3 5 none 0 0)),
    ([0xF816, 0x0B35], .lds (ops 3 5 none 6 0)),
    ([0xF816, 0x0C35], .sts (ops 3 5 none 6 0)),
    ([0xF810, 0x0D35], .lea (ops 3 5 none 0 0)),
    ([0xF810, 0x0E25], .pf (ops 2 5 none 0 0)),
    ([0xF810, 0x0F35], .ldp (ops 3 5 none 0 0))] := by decide +kernel

theorem test_decode_page1_major1 : Decodes [
    ([0xF816, 0x1035], .ldf (ops 3 5 none 6 0)),
    ([0xF816, 0x1135], .ldfc (ops 3 5 none 6 0)),
    ([0xF816, 0x1235], .stf (ops 3 5 none 6 0)),
    ([0xF816, 0x1335], .sto (ops 3 5 none 6 0)),
    ([0xF816, 0x1405], .sete (ops 0 5 none 6 0)),
    ([0xF816, 0x1535], .tstf (ops 3 5 none 6 0))] := by decide +kernel

theorem test_decode_page1_major2 : Decodes [
    ([0xF816, 0x2035], .amoadd (ops 3 5 none 6 0)),
    ([0xF816, 0x2135], .amoand (ops 3 5 none 6 0)),
    ([0xF816, 0x2235], .amoor (ops 3 5 none 6 0)),
    ([0xF816, 0x2335], .amoxor (ops 3 5 none 6 0)),
    ([0xF816, 0x2435], .amomin (ops 3 5 none 6 0)),
    ([0xF816, 0x2535], .amomax (ops 3 5 none 6 0)),
    ([0xF816, 0x2635], .amominu (ops 3 5 none 6 0)),
    ([0xF816, 0x2735], .amomaxu (ops 3 5 none 6 0)),
    ([0xF816, 0x2835], .amoswp (ops 3 5 none 6 0)),
    ([0xF816, 0xF5AC, 0x2935], .amocas (ops 19 37 (some 44) 6 0)),
    ([0xF816, 0x2A35], .amofadd (ops 3 5 none 6 0)),
    ([0xF816, 0x2B35], .amoinc (ops 3 5 none 6 0)),
    ([0xF816, 0x2C35], .amodec (ops 3 5 none 6 0))] := by decide +kernel

theorem test_decode_page2_major0 : Decodes [
    ([0xF82D, 0x0035], .vdiv (ops 3 5 none 13 0)),
    ([0xF82D, 0x0135], .vsqrt (ops 3 5 none 13 0)),
    ([0xF82D, 0x0235], .vminu (ops 3 5 none 13 0)),
    ([0xF82D, 0x0335], .vmaxu (ops 3 5 none 13 0)),
    ([0xF82D, 0xF407, 0x0435], .vfms (ops 3 5 (some 7) 13 0)),
    ([0xF82D, 0xF407, 0x0535], .vfnma (ops 3 5 (some 7) 13 0)),
    ([0xF82D, 0x0635], .vcvt (ops 3 5 none 13 0)),
    ([0xF82D, 0xF407, 0x0735], .vsel (ops 3 5 (some 7) 13 0))] := by decide +kernel

theorem test_decode_page2_major1 : Decodes [
    ([0xF82D, 0xF407, 0x1235], .vcmp 2 (ops 3 5 (some 7) 13 0))] := by decide +kernel

theorem test_decode_page2_major2 : Decodes [
    ([0xF82D, 0x2135], .vred 1 (ops 3 5 none 13 0))] := by decide +kernel

theorem test_decode_page2_major3 : Decodes [
    ([0xF82D, 0x3135], .vscan 1 (ops 3 5 none 13 0))] := by decide +kernel

theorem test_decode_page2_major4 : Decodes [
    ([0xF82D, 0xF407, 0x4035], .vperm (ops 3 5 (some 7) 13 0)),
    ([0xF82D, 0x4135], .vslup (ops 3 5 none 13 0)),
    ([0xF82D, 0x4235], .vsldn (ops 3 5 none 13 0)),
    ([0xF82D, 0x4335], .vcomp (ops 3 5 none 13 0)),
    ([0xF82D, 0x4430], .viota (ops 3 0 none 13 0)),
    ([0xF82D, 0x4535], .vgetl (ops 3 5 none 13 0)),
    ([0xF82D, 0x4635], .vsetl (ops 3 5 none 13 0))] := by decide +kernel

theorem test_decode_page2_major5 : Decodes [
    ([0xF82D, 0x5035], .vlds (ops 3 5 none 13 0)),
    ([0xF82D, 0x5135], .vsts (ops 3 5 none 13 0)),
    ([0xF82D, 0xF487, 0x5235], .vgath (ops 3 37 (some 7) 13 0)),
    ([0xF82D, 0xF487, 0x5335], .vscat (ops 3 37 (some 7) 13 0)),
    ([0xF82D, 0xF487, 0x5435], .vldl (ops 3 37 (some 7) 13 0)),
    ([0xF82D, 0xF487, 0x5535], .vstl (ops 3 37 (some 7) 13 0))] := by decide +kernel

theorem test_decode_page2_major6 : Decodes [
    ([0xF820, 0x6035], .mand (ops 3 5 none 0 0)),
    ([0xF820, 0x6135], .mor (ops 3 5 none 0 0)),
    ([0xF820, 0x6235], .mxor (ops 3 5 none 0 0)),
    ([0xF820, 0x6335], .mnot (ops 3 5 none 0 0)),
    ([0xF820, 0x6435], .mpop (ops 3 5 none 0 0)),
    ([0xF820, 0x6535], .mff (ops 3 5 none 0 0)),
    ([0xF820, 0x663D], .mtox (ops 3 13 none 0 0)),
    ([0xF820, 0x67B5], .mfromx (ops 11 5 none 0 0))] := by decide +kernel

theorem test_decode_page2_major7 : Decodes [
    ([0xF820, 0x7035], .vsett (ops 3 5 none 0 0))] := by decide +kernel

theorem test_decode_page3_major0 : Decodes [
    ([0xF83D, 0x0035], .vexp2 (ops 3 5 none 13 0)),
    ([0xF83D, 0x0135], .vlog2 (ops 3 5 none 13 0)),
    ([0xF83D, 0x0235], .vrcp (ops 3 5 none 13 0)),
    ([0xF83D, 0x0335], .vrsq (ops 3 5 none 13 0)),
    ([0xF83D, 0x0435], .vsin (ops 3 5 none 13 0)),
    ([0xF83D, 0x0535], .vcos (ops 3 5 none 13 0)),
    ([0xF83D, 0x0635], .vtanh (ops 3 5 none 13 0))] := by decide +kernel

theorem test_decode_page3_major1 : Decodes [
    ([0xF830, 0x1034], .gang (ops 3 0 none 0 4)),
    ([0xF830, 0x1100], .disb (ops 0 0 none 0 0)),
    ([0xF830, 0x1230], .gid (ops 3 0 none 0 0))] := by decide +kernel

theorem test_decode_page3_major2 : Decodes [
    ([0xF830, 0x2035], .pmrg (ops 3 5 none 0 0)),
    ([0xF830, 0x2135], .pxch (ops 3 5 none 0 0))] := by decide +kernel

theorem test_decode_page4_major0 : Decodes [
    ([0xF840, 0x0035], .cpy (ops 3 5 none 0 0)),
    ([0xF840, 0x0135], .cpys (ops 3 5 none 0 0))] := by decide +kernel

theorem test_decode_page4_major1 : Decodes [
    ([0xF840, 0x1035], .menq (ops 3 5 none 0 0)),
    ([0xF840, 0x1135], .mqry (ops 3 5 none 0 0)),
    ([0xF840, 0x1235], .mcan (ops 3 5 none 0 0))] := by decide +kernel

theorem test_decode_page4_major2 : Decodes [
    ([0xF840, 0x2035], .dcfg (ops 3 5 none 0 0)),
    ([0xF840, 0x2135], .dqry (ops 3 5 none 0 0))] := by decide +kernel

theorem test_decode_page5_major0 : Decodes [
    ([0xF850, 0x0069], .fenter (ops 6 0 none 0 9)),
    ([0xF850, 0x0169], .fleave (ops 6 0 none 0 9)),
    ([0xF850, 0xF4AC, 0x0235], .fopen (ops 3 37 (some 44) 0 0)),
    ([0xF850, 0x0365], .fjoin (ops 6 5 none 0 0)),
    ([0xF850, 0x0400], .fpub (ops 0 0 none 0 0)),
    ([0xF850, 0x0560], .fret (ops 6 0 none 0 0)),
    ([0xF850, 0x0561], .fretOwn (ops 6 1 none 0 0)),
    ([0xF850, 0x0636], .dget (ops 3 0 none 0 6)),
    ([0xF850, 0x063E], .dgetSt (ops 3 0 none 0 14)),
    ([0xF850, 0x0765], .dset (ops 6 5 none 0 0)),
    ([0xF850, 0x0836], .faddr (ops 3 0 none 0 6))] := by decide +kernel

theorem test_decode_page6_major0 : Decodes [
    ([0xF865, 0x0035], .fadd (ops 3 5 none 5 0)),
    ([0xF865, 0x0135], .fsub (ops 3 5 none 5 0)),
    ([0xF865, 0x0235], .fmul (ops 3 5 none 5 0)),
    ([0xF865, 0x0335], .fdiv (ops 3 5 none 5 0)),
    ([0xF865, 0x0435], .fsqrt (ops 3 5 none 5 0)),
    ([0xF861, 0x0535], .fmin (ops 3 5 none 1 0)),
    ([0xF861, 0x0635], .fmax (ops 3 5 none 1 0)),
    ([0xF861, 0x0735], .fabs (ops 3 5 none 1 0)),
    ([0xF861, 0x0835], .fneg (ops 3 5 none 1 0)),
    ([0xF861, 0x0935], .fsgnj (ops 3 5 none 1 0)),
    ([0xF865, 0xF5AC, 0x0A35], .fma (ops 19 37 (some 44) 5 0)),
    ([0xF865, 0xF5AC, 0x0B35], .fms (ops 19 37 (some 44) 5 0)),
    ([0xF865, 0xF5AC, 0x0C35], .fnma (ops 19 37 (some 44) 5 0))] := by decide +kernel

theorem test_decode_page6_major1 : Decodes [
    ([0xF861, 0x1035], .feq (ops 3 5 none 1 0)),
    ([0xF861, 0x1135], .flt (ops 3 5 none 1 0)),
    ([0xF861, 0x1235], .fle (ops 3 5 none 1 0)),
    ([0xF861, 0x1335], .fclass (ops 3 5 none 1 0)),
    ([0xF865, 0x1435], .fcvti (ops 3 5 none 5 0)),
    ([0xF865, 0x1535], .fcvtu (ops 3 5 none 5 0)),
    ([0xF865, 0x1635], .icvtf (ops 3 5 none 5 0)),
    ([0xF865, 0x1735], .ucvtf (ops 3 5 none 5 0)),
    ([0xF865, 0x1835], .fcvtf (ops 3 5 none 5 0))] := by decide +kernel

theorem test_decode_page7_major0 : Decodes [
    ([0xF870, 0x03FD], .beq (ops 3 0 none 0 (-3))),
    ([0xF871, 0x03FD], .bne (ops 3 0 none 1 (-3))),
    ([0xF872, 0x03FD], .blt (ops 3 0 none 2 (-3))),
    ([0xF873, 0x03FD], .bge (ops 3 0 none 3 (-3))),
    ([0xF874, 0x03FD], .bltu (ops 3 0 none 4 (-3))),
    ([0xF875, 0x03FD], .bgeu (ops 3 0 none 5 (-3)))] := by decide +kernel

theorem test_decode_page7_major1 : Decodes [
    ([0xF870, 0x13FD], .loop (ops 3 0 none 0 (-3))),
    ([0xF871, 0x19FD], .loopi (ops 9 0 none 1 (-3)))] := by decide +kernel

theorem test_decode_page7_major2 : Decodes [
    ([0xF870, 0x2308], .csrr (ops 3 0 none 0 8)),
    ([0xF871, 0x2308], .csrw (ops 3 0 none 1 8)),
    ([0xF872, 0x2308], .csrs (ops 3 0 none 2 8)),
    ([0xF873, 0x2308], .csrc (ops 3 0 none 3 8))] := by decide +kernel

theorem test_decode_page8_major0 : Decodes [
    ([0xF880, 0x0005], .post (ops 0 5 none 0 0)),
    ([0xF880, 0x0135], .spawn (ops 3 5 none 0 0)),
    ([0xF880, 0x0235], .launch (ops 3 5 none 0 0)),
    ([0xF880, 0x0335], .tcrd (ops 3 5 none 0 0)),
    ([0xF880, 0x0435], .rwait (ops 3 5 none 0 0)),
    ([0xF880, 0x0535], .homeq (ops 3 5 none 0 0))] := by decide +kernel

theorem test_decode_page8_major1 : Decodes [
    ([0xF88E, 0x1035], .rld (ops 3 5 none 14 0)),
    ([0xF88E, 0x1135], .rst (ops 3 5 none 14 0)),
    ([0xF88E, 0x1235], .ramo (ops 3 5 none 14 0)),
    ([0xF880, 0x1335], .rfill (ops 3 5 none 0 0)),
    ([0xF880, 0x1430], .rstat (ops 3 0 none 0 0))] := by decide +kernel

theorem test_decode_page63_major0 : Decodes [
    ([0xFBF0, 0x0001], .eret (ops 0 1 none 0 0)),
    ([0xFBF0, 0x0002], .eretR (ops 0 2 none 0 0)),
    ([0xFBF0, 0xF5AC, 0x0135], .park (ops 19 37 (some 44) 0 0)),
    ([0xFBF0, 0x0235], .kill (ops 3 5 none 0 0)),
    ([0xFBF0, 0xF4AC, 0x0305], .scrub (ops 0 37 (some 44) 0 0)),
    ([0xFBF0, 0xF4AC, 0x0405], .invva (ops 0 37 (some 44) 0 0)),
    ([0xFBF0, 0x0505], .invasid (ops 0 5 none 0 0)),
    ([0xFBF0, 0x0635], .wfe (ops 3 5 none 0 0)),
    ([0xFBF0, 0xF4AC, 0x0705], .slotset (ops 0 37 (some 44) 0 0)),
    ([0xFBF0, 0x0835], .resume (ops 3 5 none 0 0)),
    ([0xFBF0, 0xF5AC, 0x0835], .resumeKill (ops 19 37 (some 44) 0 0))] := by decide +kernel

/-! Well-formed instructions, and one ill-formed term for each check. -/

theorem test_wf_ok : Instr.wf (.add (ops 20 21 (some 40) 0 0)) = true ∧ Instr.wf (.movi (ops 3 0 none 0 0x12345678)) = true ∧
    Instr.wf (.ld (ops 10 9 none 0 32)) = true ∧ Instr.wf (.add { q := 0, a := .f 2 200, b := .f 1 3, c := none, imm := 0 }) = true ∧
    Instr.wf (.csrr (ops 20 0 (some 0) 0 8)) = true ∧ Instr.wf (.bfi (ops 7 8 (some 9) 0 0)) = true := by decide +kernel
/-- A vector field above 15, a mask above 7, a display entry above 7 (R125, Table 10.3). -/
theorem test_wf_role : Instr.wf (.vadd (ops 16 1 (some 2) 0 0)) = false ∧ Instr.wf (.mand (ops 8 1 none 0 0)) = false ∧
    Instr.wf (.dset (ops 8 1 (some 0) 0 0)) = false ∧ Instr.wf (.ldp (ops 63 1 (some 0) 0 0)) = false := by decide +kernel
/-- An unused field that is not 0 (R128). -/
theorem test_wf_unused : Instr.wf (.tend (ops 1 0 none 0 0)) = false ∧ Instr.wf (.mov (ops 1 2 (some 3) 0 0)) = false := by
  decide +kernel
/-- A FRAME where no x operand stands, and a second FRAME without the first (R126). -/
theorem test_wf_frame : Instr.wf (.vadd { q := 0, a := .r 1, b := .f 1 2, c := none, imm := 0 }) = false ∧
    Instr.wf (.addi { q := 0, a := .f 1 2, b := .r 0, c := none, imm := 1 }) = false ∧
    Instr.wf (.add { q := 0, a := .f 1 2, b := .r 3, c := none, imm := 0 }) = false := by decide +kernel
/-- A wide register without REG, REG missing where it is required, and REG where it is undefined (R125, R141, R144). -/
theorem test_wf_reg : Instr.wf (.add (ops 20 1 none 0 0)) = false ∧ Instr.wf (.bfi (ops 7 8 none 0 0)) = false ∧
    Instr.wf (.br (ops 0 0 (some 0) 0 1)) = false := by decide +kernel
/-- A Q that the row does not take (R128, R129). -/
theorem test_wf_q : Instr.wf (.ldb (ops 1 2 none 1 0)) = false ∧ Instr.wf (.fadd (ops 1 2 none 8 0)) = false ∧
    Instr.wf (.fmin (ops 1 2 none 2 0)) = false ∧ Instr.wf (.rld (ops 1 2 none 3 0)) = false ∧
    Instr.wf (.csrw (ops 1 0 none 0 8)) = false ∧ Instr.wf (.add (ops 1 2 none 1 0)) = false := by decide +kernel
/-- An immediate out of its bounds, beyond four IMM words, or no multiple of its scale (R121). -/
theorem test_wf_imm : Instr.wf (.phase (ops 0 0 none 0 4)) = false ∧ Instr.wf (.gang (ops 1 0 none 0 3)) = false ∧
    Instr.wf (.movi (ops 1 0 none 0 (2 ^ 47))) = false ∧ Instr.wf (.ld (ops 1 2 none 0 4)) = false ∧
    Instr.wf (.yield (ops 0 0 none 0 (-1))) = false ∧ Instr.wf (.mov (ops 1 2 none 0 1)) = false := by decide +kernel
/-- A control register that does not exist (R153). -/
theorem test_wf_csr : Instr.wf (.csrr (ops 1 0 none 0 0x00D)) = false := by decide +kernel
/-- A fifth prefix, a slot beyond four IMM words, and a permanently undefined base word (R123, R124, R130). -/
theorem test_wf_chain : Instr.wf (.csrr (ops 1 0 (some 0) 0 8)) = true ∧
    Instr.wf (.rld { q := 12, a := .f 1 200, b := .f 1 2, c := some 0, imm := 0 }) = false ∧
    Instr.wf (.mov { q := 0, a := .r 1, b := .f 1 (2 ^ 47), c := none, imm := 0 }) = false ∧
    Instr.wf (.mov (ops 0 0 none 0 0)) = false := by decide +kernel

/-! Refused words (R123, R130). -/

theorem test_undefined_words : decode [0x0000] = .undefined 0 ∧ decode [0xFFFF] = .undefined 0 ∧ decode [0xF001] = .missing 1 ∧
    decode [0xD101] = .undefined 0 ∧ decode [0xFAA0, 0x0000] = .undefined 1 ∧ decode [0xF900, 0x0123] = .undefined 1 ∧
    decode [0x9F78] = .undefined 0 ∧ decode [0xF873, 0x2440] = .undefined 1 := by decide +kernel
/-- The worked listings of chapters 7 and 8. -/
theorem test_listings : Decodes [([0x9056], .mul (ops 5 6 none 0 0)), ([0xF556, 0x9445], .divu (ops 20 21 (some 22) 0 0)),
    ([0xF409, 0x9F78], .bfi (ops 7 8 (some 9) 0 0)), ([0x01A6], .add (ops 10 6 none 0 0)),
    ([0xF870, 0xF500, 0x2408], .csrr (ops 20 0 (some 0) 0 8)), ([0xF871, 0x2503], .csrw (ops 5 0 none 1 3)),
    ([0xD702], .phase (ops 0 0 none 0 2)), ([0xD803], .fence (ops 0 0 none 0 3))] := by decide +kernel
/-- What the encoder gives for them. -/
theorem test_encode : encode (.divu (ops 20 21 (some 22) 0 0)) = [0xF556, 0x9445] ∧
    encode (.beq { q := 0, a := .r 20, b := .r 0, c := some 21, imm := 9 }) = [0xF870, 0xF515, 0x0409] ∧
    encode (.movi (ops 3 0 none 0 0x12345678)) = [0xF001, 0xF08D, 0xF056, 0x2378] ∧
    encode (.ld (ops 10 9 none 0 32)) = [0x3A94] ∧ encode (.bsig 0x74D) = [0xE74D] := by decide +kernel
/-- The opcode table's numbering of bits. -/
theorem test_table_word : decodeTableWord 16 0x0135 = some (.add (ops 3 5 none 0 0)) ∧
    decodeTableWord 32 0xFBF00001 = some (.eret (ops 0 1 none 0 0)) := by decide +kernel

/-! Small states: one context in slot 0, in region 7, which has a handler at 0x4000 and every barrier. -/

/-- A region with a handler, every barrier and all of the explicit levels. -/
def reg7 : Region := { Region.blank with
  id := 7, asid := 1, live := true
  rcb := (((((Region.blank.rcb.set 9 0xFFFF000000000010).set 10 0x4000).set 20 0x4000000000000).set 21 0x100000000000).set 22
    0x40000000000000).set 23 0x400000000000000 }

/-- A running supervisor context whose register n holds n. -/
def c0 : Ctx := { Ctx.blank with cid := 1, region := 7, task := 9, pc := 0x1000, npc := 0x1002, level := .sup, x := Vector.ofFn (fun i => BitVec.ofNat 64 i.val) }

/-- The same at user level. -/
def u0 : Ctx := { c0 with level := .user }

/-- A state whose slot 0 holds a context. -/
def one (c : Ctx) : State := ({ State.reset with regions := [(7, reg7)], clock := 160 } : State).setCtx c

/-- The same with the page of 0x10000 mapped in ASID 1. -/
def mapped (c : Ctx) : State := { one c with mem := loadMem [] [] }

theorem one_issues (c : Ctx) : (one c).Issues c := rfl

theorem mapped_issues (c : Ctx) : (mapped c).Issues c := rfl

/-- What an instruction leaves of the context of slot 0. -/
def leaves {α : Type} (i : Instr) (s : State) (f : Ctx → α) : Option α :=
  match exec i s with
  | .next t => (t.slot 0).ctx.map f
  | _ => none

/-! Scalar instructions (chapter 8), with results worked by hand from its tables. -/

/-- x3 and x5 hold the given words. -/
def with35 (a b : Word) : Ctx := (c0.putX 3 a).putX 5 b
def alu (i : Ops → Instr) (a b : Word) : Option Word := leaves (i (ops 3 5 none 0 0)) (one (with35 a b)) (·.getX 3)

theorem test_add_wraps : alu .add 0xFFFFFFFFFFFFFFFF 1 = some 0 ∧ alu .sub 0 1 = some 0xFFFFFFFFFFFFFFFF := by decide +kernel
theorem test_logic : alu .andn 0b1100 0b1010 = some 0b0100 ∧ alu .xor 0b1100 0b1010 = some 0b0110 := by decide +kernel
theorem test_shift_count : alu .shl 1 65 = some 2 ∧ alu .sha 0x8000000000000000 63 = some 0xFFFFFFFFFFFFFFFF ∧
    alu .rol 0x8000000000000001 4 = some 0x18 := by decide +kernel
theorem test_compare : alu .slt 0xFFFFFFFFFFFFFFFF 0 = some 1 ∧ alu .sltu 0xFFFFFFFFFFFFFFFF 0 = some 0 ∧
    alu .min 0xFFFFFFFFFFFFFFFF 1 = some 0xFFFFFFFFFFFFFFFF ∧ alu .minu 0xFFFFFFFFFFFFFFFF 1 = some 1 := by decide +kernel
theorem test_divide_by_zero : alu .div 7 0 = some 0xFFFFFFFFFFFFFFFF ∧ alu .rem 7 0 = some 7 ∧
    alu .divu 7 0 = some 0xFFFFFFFFFFFFFFFF ∧ alu .remu 7 0 = some 7 := by decide +kernel
theorem test_divide_overflow : alu .div 0x8000000000000000 0xFFFFFFFFFFFFFFFF = some 0x8000000000000000 ∧
    alu .rem 0x8000000000000000 0xFFFFFFFFFFFFFFFF = some 0 := by decide +kernel
theorem test_high_products : alu .mulh 0xFFFFFFFFFFFFFFFF 2 = some 0xFFFFFFFFFFFFFFFF ∧
    alu .mulhu 0xFFFFFFFFFFFFFFFF 2 = some 1 := by decide +kernel
theorem test_counts : alu .clz 9 1 = some 63 ∧ alu .ctz 9 0 = some 64 ∧ alu .popc 9 0xFF00 = some 8 := by decide +kernel
/-- The example after R143: spec = 0x0810 on an old x7 of 0. -/
theorem test_bfi_example : leaves (.bfi (ops 7 8 (some 9) 0 0)) (one (((c0.putX 7 0).putX 8 0xABCD).putX 9 0x0810)) (·.getX 7) =
    some 0xCD0000 := by decide +kernel
theorem test_bfx_sign : alu .bfx 0x00F0 0x8404 = some 0xFFFFFFFFFFFFFFFF ∧ alu .bfx 0x00F0 0x0404 = some 0xF := by decide +kernel
theorem test_x0_discards : leaves (.movi (ops 0 0 none 0 5)) (one c0) (·.getX 0) = some 0 := by decide +kernel
theorem test_reg_form : leaves (.sub (ops 20 21 (some 40) 0 0)) (one c0) (·.getX 20) = some (21 - 40) := by decide +kernel
theorem test_empty_parks : leaves (.add (ops 3 5 none 0 0)) (one (c0.setFull 5 false)) (fun c => (c.run, c.getX 3)) =
    some (.parked, 3) := by decide +kernel
theorem test_fp : alu .fadd 0x3FF0000000000000 0x4000000000000000 = some 0x4008000000000000 ∧
    alu .fdiv 0 0 = some 0x7FF8000000000000 ∧ alu .fmin 0 0x8000000000000000 = some 0x8000000000000000 := by decide +kernel
theorem test_fcvti_saturates : alu .fcvti 0 0x7FF0000000000000 = some 0x7FFFFFFFFFFFFFFF ∧ alu .fcvti 0 0x7FF8000000000000 = some 0 := by
  decide +kernel
/-- Table 6.4. -/
theorem test_skim8_table : skimEncode (f32.decode 0x3F800000) = 0x60 ∧ skimEncode (f32.decode 0xC0400000) = 0xF8 ∧
    skimEncode (f32.decode 0x40A80000) = 0x22 ∧ skimEncode (f32.decode 0x41780000) = 0x10 ∧
    skimEncode (f32.decode 0x42C80000) = 0x09 ∧ skimEncode (f32.decode 0x442F0000) = 0x05 ∧
    skimEncode (f32.decode 0x39C00000) = 0x03 ∧ skimEncode .nan = 0x80 := by decide +kernel

theorem test_branch : leaves (.beqz (ops 0 0 none 0 (-3))) (one c0) (·.pc) = some 0xFFA ∧
    leaves (.bnez (ops 0 0 none 0 (-3))) (one c0) (·.pc) = some 0x1002 := by decide +kernel
theorem test_call : leaves (.call (ops 0 0 none 0 8)) (one c0) (fun c => (c.pc, c.getX 1)) = some (0x1010, 0x1002) := by decide +kernel
/-- CALLR calls the old value of x1 (R145). -/
theorem test_callr_x1 : leaves (.callr (ops 0 1 none 0 0)) (one (c0.putX 1 0x2000)) (fun c => (c.pc, c.getX 1)) =
    some (0x2000, 0x1002) := by decide +kernel
theorem test_loopi : leaves (.loopi (ops 3 0 none 1 5)) (one c0) (fun c => (c.pc, c.loops.map (fun l => (l.start, l.stop, l.left)))) =
    some (0x1002, [(0x1002, 0x100A, 3)]) := by decide +kernel
theorem test_loop_end : leaves (.nop (ops 0 0 none 0 0)) (one { c0 with loops := [⟨0xFF0, 0x1002, 2, {}⟩] }) (fun c =>
    (c.pc, c.loops.map (·.left))) = some (0xFF0, [1]) := by decide +kernel
theorem test_trap : leaves (.trap (ops 0 0 none 0 9)) (one u0) (fun c => (c.pc, c.tepc, c.tcause, c.tval, c.level, c.tstat)) =
    some (0x4000, 0x1002, 0x10, 9, .sup, 2) := by decide +kernel
theorem test_eret : leaves (.eret (ops 0 1 none 0 0)) (one { c0 with tstat := 2, tepc := 0x1002 }) (fun c => (c.pc, c.level, c.tstat)) =
    some (0x1002, .user, 0) := by decide +kernel
theorem test_eret_user : leaves (.eret (ops 0 1 none 0 0)) (one u0) (fun c => (c.tcause, c.tval)) = some (0x0C, 0x1000) := by
  decide +kernel
theorem test_csrr : leaves (.csrr (ops 20 0 (some 0) 0 8)) (one c0) (·.getX 20) = some 160 := by decide +kernel
/-- A reserved ET leaves ET, and VL is clamped under it (R198). -/
theorem test_csrw_vtype : leaves (.csrw (ops 5 0 none 1 0)) (one (c0.putX 5 0xF0FF)) (fun c => (vtET c.vtype, vtVL c.vtype)) =
    some (3, 16) := by decide +kernel
theorem test_csr_privilege : leaves (.csrr (ops 5 0 none 0 0x101)) (one u0) (·.tcause) = some 0x0C := by decide +kernel

/-! Memory (chapters 4, 5, 8 and 9). -/

theorem test_ld_pending : leaves (.ld (ops 10 9 none 0 32)) (one (c0.putX 9 0x10000)) (fun c =>
    (c.isFull 10, c.loads.map (·.elems) == [[(0, 0x10020, none)]], c.pc)) = some (false, true, 0x1002) := by decide +kernel
theorem test_ld_misaligned : leaves (.ld (ops 10 9 none 0 0)) (one (c0.putX 9 0x10001)) (fun c => (c.tcause, c.tval, c.tepc)) =
    some (0x05, 0x10001, 0x1000) := by decide +kernel
theorem test_lea : leaves (.lea (ops 10 9 (some 4) 0 (-6))) (one (c0.putX 9 0x10000)) (·.getX 10) = some 0xFFFE := by decide +kernel
theorem test_st_sent : leaves (.st (ops 3 9 none 0 8)) (one (c0.putX 9 0x10000)) (fun c => c.stores.map (fun p => p.elems)) =
    some [[(0x10008, none, [3, 0, 0, 0, 0, 0, 0, 0])]] := by decide +kernel
theorem test_fe_on_ordinary : leaves (.ldf (ops 10 9 none 0 0)) (one (c0.putX 9 0x10000)) (·.tcause) = some 0x0F := by decide +kernel
theorem test_amocas_sent : leaves (.amocas (ops 3 9 (some 5) 0 0)) (one (c0.putX 9 0x10000)) (fun c => c.tcause) = some 0x06 := by
  decide +kernel

/-! States and operands that meet the hypotheses of the statements, clause by clause. -/

/-- The shape of scalar results: both forms, and x0 as the destination. -/
theorem witness_scalar : (one c0).Issues c0 ∧ c0.insFull (ops 3 5 none 0 0) 3 5 ∧ c0.insFull (ops 0 63 (some 63) 0 0) 0 63 ∧
    c0.isFull (ops 3 5 (some 63) 0 0).cx = true ∧ c0.isFull 0 = true ∧ c0.canWrite 0 ∧ c0.canWrite 63 ∧ c0.canWrite 3 := by
  unfold Ctx.canWrite
  exact ⟨one_issues c0, (by decide +kernel : c0.isFull (3 : Fin 64) = true ∧ c0.isFull (5 : Fin 64) = true),
    (by decide +kernel : c0.isFull (63 : Fin 64) = true ∧ c0.isFull (63 : Fin 64) = true), by decide +kernel⟩

/-- A frame slot whose weak load has come, and one whose load has not been made. -/
def cFrame : Ctx := { c0 with d := c0.d.set 2 0x20000 }

theorem witness_ScalarOperandForms :
    (∃ x y s2 s3, ReadsTwo (ops 3 5 none 0 0) (one c0) x y s2 ∧ Writes (.r 3) (x + y) s2 s3) ∧
    (∃ x y s2 s3, ReadsTwo { q := 0, a := .r 3, b := .f 2 0, c := some 5, imm := 0 } (one { cFrame with got := [(0, 8)] }) x y s2 ∧
      Writes (.r 3) (x + y) s2 s3) ∧
    (∃ x s3, readOpd (.r 5) 0 (one c0) = .ok x (one c0) ∧ Writes (.r 3) x (one c0) s3) ∧
    (∃ z, readX 5 (one c0) = .ok z (one c0) ∧ readOpd (.r 3) 1 (one c0) = .ok 3 (one c0)) :=
  ⟨⟨3, 5, _, _, ⟨_, rfl, rfl⟩, _, _, rfl, rfl⟩, ⟨8, 5, _, _, ⟨_, rfl, rfl⟩, _, _, rfl, rfl⟩, ⟨5, _, rfl, _, _, rfl, rfl⟩, 5, rfl, rfl⟩

theorem witness_FrameOperandReads : InnerSlot cFrame 2 0 0x20000 ∧ Accessible (one cFrame) 0x20000 8 (.ord 0) ∧
    (({ cFrame with got := [(0, 8)] } : Ctx).got.find? (·.1 == 0) = some (0, 8) ∧ ({ cFrame with got := [(0, 8)] } : Ctx).canWrite 3) ∧
    (cFrame.got.find? (·.1 == 0) = none ∧ cFrame.loads = [] ∧ cFrame.lfaults = []) := by
  unfold InnerSlot Accessible Ctx.canWrite; decide +kernel

theorem witness_FrameOperandWrites : (one cFrame).Issues cFrame ∧ InnerSlot cFrame 2 511 0x20FF8 ∧
    Accessible (one cFrame) 0x20FF8 8 (.ord 0) ∧ cFrame.isFull 3 = true ∧
    heldByXu (one cFrame) ((one cFrame).regionOf cFrame).asid 0x20FF8 8 = false ∧ cFrame.stores.length < 16 := by
  unfold InnerSlot Accessible; exact ⟨one_issues _, by decide +kernel⟩

theorem witness_FpEncodings : f64 ∈ ieeeFormats ∧ f16 ∈ ieeeFormats ∧ f16.infBits - 1 < f16.infBits := by
  refine ⟨by simp [ieeeFormats], by simp [ieeeFormats], by decide⟩

theorem witness_FpRoundsOnce : (f32.decode 0x3F800000).rat = some 1 ∧ (f32.decode 0).rat = some 0 ∧
    (f32.decode 0x80000000).rat = some 0 ∧ (f16.decode 0x0001).rat = some (1 / 16777216) := by
  refine ⟨?_, ?_, ?_, ?_⟩ <;> norm_num [Fp.rat, FloatFmt.decode, FloatFmt.signBit, FloatFmt.bias, f32, f16]

theorem witness_FpDivideAndRoot : ((f32.decode 0xBF800000).rat = some (-1) ∧ (-1 : ℚ) ≠ 0) ∧ (f32.decode 0).rat = some 0 := by
  refine ⟨⟨?_, ?_⟩, ?_⟩ <;> norm_num [Fp.rat, FloatFmt.decode, FloatFmt.signBit, FloatFmt.bias, f32]

theorem witness_FpSpecialValues : f32.decode 0x7FC00000 = .nan ∧ f32.decode 0x7F800000 = .inf false ∧ f32.decode 0xFF800000 = .inf true ∧
    f32.decode 0x80000000 = .num true 0 (-149) ∧ f32.decode 1 = .num false 1 (-149) := by decide +kernel

theorem witness_FpSpecialValues_signs : (f32.decode 0xBF800000).rat = some (-1) ∧ (-1 : ℚ) < 0 ∧ (f32.decode 0x3F800000).rat = some (-(-1)) := by
  refine ⟨?_, ?_, ?_⟩ <;> norm_num [Fp.rat, FloatFmt.decode, FloatFmt.signBit, FloatFmt.bias, f32]

theorem witness_FpOrder : f16.decode 0x7E00 = .nan ∧ f16.decode 0 ≠ .nan ∧ (f16.decode 0x8000).rat = some 0 ∧
    (f16.decode 0xBC00).rat = some (-1) := by
  refine ⟨by decide +kernel, by decide +kernel, ?_, ?_⟩ <;>
    norm_num [Fp.rat, FloatFmt.decode, FloatFmt.signBit, FloatFmt.bias, f16]

theorem witness_FpConversions : (-2 ^ 63 : ℤ) ≤ 0 ∧ (0 : ℤ) < 2 ^ 63 - 1 ∧ (Fp.num true 5 (-1)).rat = some (-5 / 2) := by
  refine ⟨by norm_num, by norm_num, by norm_num [Fp.rat]⟩

theorem witness_ConditionalBranches : (one c0).Issues c0 ∧ ((one c0).slot (one c0).leader).ctx = some c0 ∧
    (c0.setFull 5 false).isFull 5 = false ∧ (c0.isFull 5 = true ∧ c0.isFull 6 = true) ∧ c0.isFull 0 = true := by
  exact ⟨one_issues c0, by decide +kernel⟩

theorem witness_BranchAndCall : (one c0).Issues c0 ∧ c0.canWrite 1 ∧
    landingBad (one c0) (one c0).ctx (one c0).myCore 0x2000 = false := by
  unfold Ctx.canWrite; exact ⟨one_issues c0, by decide +kernel⟩

/-- The checks of computed branches: an odd target, one above 2^56, and the last that is below. -/
theorem witness_ComputedBranches : ((one c0).slot (one c0).leader).ctx = some c0 ∧ c0.isFull 1 = true ∧
    (0xFFFFFFFFFFFFFF : Word).getLsbD 0 = true ∧ ((0x100000000000000 : Word).getLsbD 0 = false ∧ 2 ^ 56 ≤ (0x100000000000000 : Word).toNat) ∧
    ((0xFFFFFFFFFFFFFE : Word).getLsbD 0 = false ∧ (0xFFFFFFFFFFFFFE : Word).toNat < 2 ^ 56) := by decide +kernel

/-- PLUMB on, with a halfword at 0x1000 of ordinary memory that is no BSIG word, and one that is. -/
def sPlumb (h : BitVec 16) : State := State.reset.withFetchWord 16 h.toNat
theorem witness_LandingRule : c0.plumb.extractLsb' 0 2 = 0 ∧
    (∃ c, ((sPlumb 0xE74D).slot 0).ctx = some c ∧ (fetchHalf (sPlumb 0xE74D) { c with plumb := 1 } 0 c.pc).1 = .ok 0xE74D) ∧
    (∃ c, ((sPlumb 0xD000).slot 0).ctx = some c ∧ (fetchHalf (sPlumb 0xD000) { c with plumb := 1 } 0 c.pc).1 = .ok 0xD000) ∧
    (match (fetchHalf (one c0) { c0 with plumb := 1 } 0 0x1000).1 with | .error _ => true | .ok _ => false) = true := by
  refine ⟨by decide +kernel, ⟨_, rfl, by decide +kernel⟩, ⟨_, rfl, by decide +kernel⟩, by decide +kernel⟩

/-- Targets behind and after the loop, a full loop stack, counts of 0 and 1, and LOOPX at its bounds. -/
theorem witness_LoopInstructions : ((tgt c0 (ops 5 0 none 0 1)).toNat ≤ c0.npc.toNat) ∧ (c0.npc.toNat < (tgt c0 (ops 5 0 none 0 2)).toNat) ∧
    c0.loops.length ≠ 4 ∧ ({ c0 with loops := List.replicate 4 ⟨0, 0, 1, {}⟩ } : Ctx).loops.length = 4 ∧
    ({ c0 with loops := List.replicate 4 ⟨0, 0, 1, {}⟩ } : Ctx).loops[3]? = some ⟨0, 0, 1, {}⟩ := by decide +kernel

theorem witness_CompletionAndLoopEnd : c0.inTrap = false ∧ c0.replay = none ∧ ({ c0 with tstat := 2 } : Ctx).inTrap = true := by decide +kernel

theorem witness_TrapEntry : (one u0).Issues u0 ∧ CanTrap (one u0) u0 { cause := 0xFF, val := 1, epc := 0x1000 } := by
  unfold CanTrap; exact ⟨one_issues u0, by decide +kernel⟩

theorem witness_TrapKills : ({ c0 with tstat := 2 } : Ctx).inTrap = true ∧ c0.inTrap = false ∧
    ((({ State.reset with regions := [(7, Region.blank)] } : State).setCtx c0).regionOf c0).tvec = 0 := by decide +kernel

theorem witness_TrapAndPool : CanTrap ((one u0).setCtx (u0.complete (.trapAfter 0x10 0))) (u0.complete (.trapAfter 0x10 0))
    { cause := 0x10, val := 9, epc := u0.npc } := by
  unfold CanTrap; decide +kernel

theorem witness_TrapReturn : (one c0).Issues c0 ∧ c0.level = .sup ∧ c0.inGang = false ∧ c0.inTrap = false ∧
    (({ c0 with tstat := 2, tepc := 1 } : Ctx).inTrap = true ∧ ({ c0 with tstat := 2, tepc := 1 } : Ctx).tepc.getLsbD 0 = true) ∧
    ({ c0 with tstat := 10, tepc := 2, tlpc := 4 } : Ctx).tstat.getLsbD 3 = true := by
  exact ⟨one_issues c0, by decide +kernel⟩

theorem witness_CsrReads : c0.mayUse 0x3FF ∧ u0.mayUse 0xFF ∧ c0.canWrite 63 ∧ (0x10B, 1) ∈ csrTable (one c0) c0 ∧
    (0x000, 0x3010) ∈ csrTable (one c0) c0 := by
  unfold Ctx.mayUse Ctx.canWrite; decide +kernel

/-- A register read of an outstanding load that CSRR would write, and the slots of a core at their reset values. -/
theorem witness_CsrReads_locked : ({ c0 with loads := [⟨5, 2, 0x1000, 8, [(0, 0x10000, none)], .x 10 false, RegSet.of [9]⟩] } : Ctx).lockedBy (·.has 9) ≠ none ∧
    c0.lockedBy (·.has 9) = none ∧ c0.inTrap = false ∧ c0.inGang = false ∧ c0.mayUse 0x10C ∧ c0.mayUse 0x10D := by
  unfold Ctx.mayUse; decide +kernel

theorem witness_CsrPrivilege : 0x400 ≤ (ops 1 0 none 0 0x400).imm.toNat ∧ (0x100 ≤ (ops 1 0 none 0 0x100).imm.toNat ∧ u0.level = .user) := by
  decide +kernel

theorem witness_CsrWrites : c0.isFull 5 = true ∧ c0.mayUse (ops 5 0 none 0 0x109).imm.toNat ∧
    (ops 5 0 none 0 0x109).imm = ((0x109 : Nat) : ℤ) ∧ u0.mayUse (ops 5 0 none 0 1).imm.toNat := by
  unfold Ctx.mayUse; decide +kernel

theorem witness_CsrFields : c0.vtypeFree ∧ c0.mayUse (ops 5 0 none 0 0x100).imm.toNat := by
  unfold Ctx.vtypeFree Ctx.mayUse; decide +kernel

theorem witness_Page63Privilege : (one u0).Issues u0 ∧ u0.level = .user ∧ ({ c0 with gstat := 1 } : Ctx).inGang = true := by
  exact ⟨one_issues u0, by decide +kernel⟩

/-- Addresses: x9 names ordinary memory, x8 the core's scratchpad. -/
def cAddr : Ctx := (c0.putX 9 0x10000).putX 8 0x00FF000000000000

theorem witness_WeakLoads :
    (effAddr (ops 10 9 none 0 32) false [] (one cAddr) = .ok 0x10020 (one cAddr) ∧ cAddr.canWrite 10 ∧
      Reachable (one cAddr) 0x10020 8 (.ord 0) ∧ ¬AtOnce (one cAddr) cAddr (.ord 0) 0x10020 8) ∧
    (effAddr (ops 10 8 none 0 0) true [] (one cAddr) = .ok 0x00FF000000000000 (one cAddr) ∧
      Reachable (one cAddr) 0x00FF000000000000 8 (.arr (2 ^ 42)) ∧
      AtOnce (one cAddr) cAddr (.arr (2 ^ 42)) 0x00FF000000000000 8 ∧ poisoned (one cAddr) (2 ^ 42) 8 = false) := by
  unfold Reachable Accessible State.stays AtOnce Ctx.canWrite
  refine ⟨⟨rfl, by decide +kernel⟩, rfl, by decide +kernel⟩

theorem witness_WeakLoads_frame : let o : Ops := { q := 0, a := .f 2 0, b := .r 9, c := none, imm := 0 }
    let c : Ctx := cFrame.putX 9 0x10000
    InnerSlot c 2 0 0x20000 ∧ Accessible (one c) 0x20000 8 (.ord 0) ∧ heldByXu (one c) ((one c).regionOf c).asid 0x20000 8 = false ∧
    c.stores.length < 16 ∧ effAddr o true [] (one c) = .ok 0x10000 (one c) ∧ Reachable (one c) 0x10000 4 (.ord 0) ∧
    ({ c with got := [(2, 8)] } : Ctx).got.find? (·.1 == 2) = some (2, 8) ∧ c.got.find? (·.1 == 2) = none ∧
    ¬AtOnce (one c) c (.ord 0) 0x10000 4 ∧ c.loads = [] ∧ c.lfaults = [] := by
  unfold InnerSlot Accessible Reachable Accessible State.stays AtOnce; refine ⟨by decide +kernel, by decide +kernel, by decide +kernel, by decide +kernel, rfl, by decide +kernel⟩

theorem witness_EffectiveAddress : cAddr.isFull 9 = true ∧ cAddr.isFull (ops 10 9 none 0 (-6)).cx = true ∧ (ops 10 9 none 0 (-6)).c = none ∧
    cAddr.canWrite 10 := by
  unfold Ctx.canWrite; decide +kernel

theorem witness_LoadPair : effAddr (ops 10 9 none 0 16) true [] (one cAddr) = .ok 0x10010 (one cAddr) ∧ cAddr.canWrite 62 ∧ cAddr.canWrite 63 ∧
    Reachable (one cAddr) 0x10010 16 (.ord 0) ∧ (0x10008 : Word).toNat % 16 ≠ 0 := by
  unfold Reachable Accessible State.stays Ctx.canWrite; exact ⟨rfl, by decide +kernel⟩

/-- The bytes of a group's claim table, held by the XU. -/
def held : State := { one cAddr with groups := [⟨⟨1, 0x10000⟩, 1, true, 0, 0, 1, 0, 0, 0, 0, 0, [], [], [], []⟩] }

theorem witness_WeakStores : effAddr (ops 3 9 none 0 8) false [] (one cAddr) = .ok 0x10008 (one cAddr) ∧
    readOpd (.r 3) 1 (one cAddr) = .ok 3 (one cAddr) ∧ Accessible (one cAddr) 0x10008 8 (.ord 0) ∧ (one cAddr).stays (.ord 0) ∧
    heldByXu (one cAddr) ((one cAddr).regionOf cAddr).asid 0x10008 8 = false ∧
    ¬AtOnce (one cAddr) cAddr (.ord 0) 0x10008 8 ∧ cAddr.stores.length < 16 ∧
    16 ≤ ({ cAddr with stores := List.replicate 16 ⟨0, 0, [], none⟩ } : Ctx).stores.length := by
  unfold Accessible State.stays AtOnce; exact ⟨rfl, rfl, by decide +kernel⟩

theorem witness_WeakStores_held : heldByXu held (held.regionOf cAddr).asid 0x10008 8 = true := by decide +kernel

theorem witness_WeakStores_scratchpad : AtOnce (one cAddr) cAddr (.arr (2 ^ 42)) 0x00FF000000000000 8 ∧
    storePoisoned (one cAddr) (2 ^ 42) 8 = false := by
  unfold AtOnce; decide +kernel

theorem witness_AddressFaults : (0x10001 : Word).toNat % 8 ≠ 0 ∧ place ((one cAddr).regionOf cAddr) (one cAddr).myCore 0x0100000000000000 8 = none ∧
    (0x0100000000000000 : Word).toNat % 8 = 0 ∧ place ((one cAddr).regionOf cAddr) (one cAddr).myCore 0x00F0000000000000 8 = none ∧
    Accessible (one cAddr) 0x00EFFFFFFFFFFFF8 8 (.ord 0) ∧ effAddr (ops 3 9 none 0 1) true [] (one cAddr) = .ok 0x10001 (one cAddr) := by
  unfold Accessible; refine ⟨?_, ?_, ?_, ?_, ?_, rfl⟩ <;> decide +kernel

/-- A load on its way from ordinary memory, and a store. -/
def cLoad : Ctx := { c0 with seq := 4, loads := [⟨5, 2, 0x1000, 8, [(0, 0x10000, none)], .x 10 false, {}⟩], stores := [⟨6, 3, [(0x10008, none, [1, 2, 3, 4, 5, 6, 7, 8])], none⟩] }
def cStore : Ctx := { cLoad with loads := [] }

theorem witness_RegisterFill : (mapped cLoad).findCtx 1 = some cLoad ∧
    cLoad.loads.find? (·.id == 5) = some ⟨5, 2, 0x1000, 8, [(0, 0x10000, none)], .x 10 false, {}⟩ ∧
    cLoad.storesBefore 2 (locOf 0x10000 none) 8 = false ∧ cLoad.strongBefore 2 (locOf 0x10000 none) 8 = false ∧
    recalled (mapped cLoad) 1 2 ((mapped cLoad).regionOf cLoad).asid 0x10000 8 = false ∧
    (resolve (mapped cLoad) ((mapped cLoad).regionOf cLoad).asid (.ord (homeDie 0x10000)) 0x10000 8 .r).1 = .ok 0x50000 ∧
    c0.rfq.filter (·.1 == 10) = [] := by decide +kernel

theorem witness_LoadsNeverGoBack : ([1] : List Byte).length = 1 ∧ 0 < 1 := by decide

theorem witness_WeakStorePerformed : (mapped cStore).findCtx 1 = some cStore ∧
    cStore.stores.find? (·.id == 6) = some ⟨6, 3, [(0x10008, none, [1, 2, 3, 4, 5, 6, 7, 8])], none⟩ ∧
    cStore.storesBefore 3 (locOf 0x10008 none) 8 = false ∧ cStore.loadsBefore 3 (locOf 0x10008 none) 8 = false ∧
    cStore.strongBefore 3 (locOf 0x10008 none) 8 = false ∧
    recalled (mapped cStore) 1 3 ((mapped cStore).regionOf cStore).asid 0x10008 8 = false ∧
    (match resolve (mapped cStore) ((mapped cStore).regionOf cStore).asid (.ord (homeDie 0x10008)) 0x10008 8 .w with
      | (.ok key, s1) => key == 0x50008 && !pinned s1 key 8 && Memory.wf s1.mem
      | _ => false) = true := by decide +kernel

theorem witness_StoreReadBack : Memory.wf State.reset.mem = true ∧ (8 ≤ 8 * 1 ∧ 8 * 1 + 8 ≤ 8 + (leBytes 8 7).length) ∧
    ¬(8 ≤ 8 * 0 ∧ 8 * 0 + 8 ≤ 8 + (leBytes 8 7).length) := by decide +kernel

theorem witness_StrongOperations : cAddr.strong = none ∧ cAddr.canRelease ∧ Reachable (mapped cAddr) 0x10000 8 (.ord 0) ∧
    heldByXu (mapped cAddr) ((mapped cAddr).regionOf cAddr).asid 0x10000 8 = false ∧
    (match strongKey (.ord 0) 0x10000 .rw ((mapped cAddr).released cAddr 15) with
      | .ok key s1 => key == 0x50000 && decide ((s1.slot s1.cur).ctx = some cAddr)
      | _ => false) = true ∧ cAddr.isFull 3 = true ∧ cAddr.canWrite 3 := by
  unfold Ctx.canRelease Reachable Accessible State.stays Ctx.canWrite; decide +kernel

/-- A strong operation on its way. -/
def cStrong : Ctx := { c0 with seq := 4, strong := some ⟨5, 3, 0x1000, 0, .amo 0 1 0, 0x00FF000000000000, 2 ^ 42, 10, false, 0, false, false⟩ }
theorem witness_StrongAccessPerformed : (one cStrong).findCtx 1 = some cStrong ∧ cStrong.outer = [] ∧
    cStrong.strong = some ⟨5, 3, 0x1000, 0, .amo 0 1 0, 0x00FF000000000000, 2 ^ 42, 10, false, 0, false, false⟩ ∧
    cStrong.storesBefore 3 (2 ^ 42) 8 = false ∧ cStrong.loadsBefore 3 (2 ^ 42) 8 = false ∧ pinned (one cStrong) (2 ^ 42) 8 = false ∧
    mixed (2 ^ 42) 8 none (one cStrong).hist = false ∧
    poisoned (one cStrong) (2 ^ 42) 8 = false ∧ recalled (one cStrong) 1 3 1 0x00FF000000000000 8 = false ∧ Memory.wf (one cStrong).mem = true := by
  decide +kernel

theorem witness_FullEmptyOperations : effAddr (ops 10 8 none 0 0) true [] (one cAddr) = .ok 0x00FF000000000000 (one cAddr) ∧
    Accessible (one cAddr) 0x00FF000000000000 8 (.arr (2 ^ 42)) ∧ cAddr.strong = none ∧ cAddr.storesBefore (cAddr.seq + 1) (2 ^ 42) 8 = false ∧
    cAddr.loadsBefore (cAddr.seq + 1) (2 ^ 42) 8 = false ∧ cAddr.canRelease ∧ cAddr.canWrite 10 ∧ poisoned (one cAddr) (2 ^ 42) 8 = false ∧
    (isFull (one cAddr) (2 ^ 42) = false ∧ isFull (setFull (one cAddr) (2 ^ 42) true) (2 ^ 42) = true) := by
  unfold Accessible Ctx.canRelease Ctx.canWrite; exact ⟨rfl, by decide +kernel⟩

/-- A waiter for a word that has filled. -/
def cWaits : Ctx := { c0 with run := .parked, stage := 1, fe := some ⟨1, 2 ^ 42, 0x00FF000000000000, 0, 10, false, 0, false⟩, wait := some ⟨.fe, 0x00FF000000000000, 3⟩ }
theorem witness_FullEmptyWaiter : feWaiters (setFull (one cWaits) (2 ^ 42) true) (2 ^ 42) = [0] ∧
    poisoned (setFull (one cWaits) (2 ^ 42) true) (2 ^ 42) 8 = false ∧ ((setFull (one cWaits) (2 ^ 42) true).slot 0).ctx = some cWaits ∧
    feReady (setFull (one cWaits) (2 ^ 42) true) 1 (2 ^ 42) = true ∧ (setFull (one cWaits) (2 ^ 42) true).slotOf 1 = some 0 := by
  decide +kernel

theorem witness_PhaseFenceIfnc : c0.canRelease ∧ (cLoad.quiet = false ∧ cLoad.sfaults = []) ∧
    (({ c0 with sfaults := [⟨2, 0x10000, false⟩] } : Ctx).sfaults = ⟨2, 0x10000, false⟩ :: [] ∧ c0.stores = []) := by
  unfold Ctx.canRelease; decide +kernel

theorem witness_ReleaseAcquire : pairs ⟨2, some 0⟩ 2 (some 5) = true ∧
    ((one c0).store 0x50000 [1] (.thread 1) 2 none).hist = [] ++ ⟨0x50000, [0], [.thread 1], 2, [], none, [.thread 1], none, none⟩ :: [] ∧
    Agent.thread 1 ∈ [Agent.thread 1] ∧ (⟨0x50000, [0], [.thread 1], 2, [], none, [.thread 1], none, none⟩ : Record).meets 0x50000 1 = true := by
  decide +kernel

/-- Barriers at the bounds of their counts. -/
theorem witness_BarrierInstruction : c0.barrier = none ∧ c0.isFull 1 = true ∧ (decide (15 < 16) && ((one c0).regionOf c0).barm.testBit 15) = true ∧
    (decide (16 < 16) && ((one c0).regionOf c0).barm.testBit 16) = false ∧ c0.getX 0 = 0 ∧ 256 < (257 : Word).toNat ∧ (256 : Word).toNat ≤ 256 ∧
    c0.canRelease ∧ ((one c0).barrier (one c0).myClus 15).a = 0 ∧ ((one c0).barrier (one c0).myClus 15).a + 1 = (c0.getX 1).toNat ∧
    ((one c0).barrier (one c0).myClus 15).a + 1 ≠ (c0.getX 2).toNat := by
  unfold Ctx.canRelease; decide +kernel

theorem witness_BarrierInstruction_counts : (((one c0).setBarrier 0 15 ⟨2, 1, 0⟩).barrier 0 15).a ≠ 0 ∧
    (c0.getX 3).toNat ≠ (((one c0).setBarrier 0 15 ⟨2, 1, 0⟩).barrier 0 15).n ∧
    ({ c0 with barrier := some (15, 0) } : Ctx).barrier = some (15, 0) ∧ ((one c0).barrier 0 15).g = 0 ∧
    (((one c0).setBarrier 0 15 ⟨2, 0, 1⟩).barrier 0 15).g ≠ 0 := by decide +kernel

theorem witness_CompletionTags : c0.isFull 5 = true ∧ c0.canWrite 10 ∧
    (({ c0 with tags := 4 } : Ctx).cb &&& 4 = 0 ∧ ({ c0 with tags := 4 } : Ctx).tags &&& 4 ≠ 0) ∧ c0.tags &&& 4 = 0 ∧
    ({ c0 with cb := 4 } : Ctx).cb &&& 4 ≠ 0 := by
  unfold Ctx.canWrite; decide +kernel

/-- x2 at the top of a stack, and a display entry of a live outer frame of core 0's scratchpad in entry 0. -/
def cStack : Ctx := { c0.putX 2 0x10100 with d := (c0.d.set 1 0x100F0).set 2 0x1003000000000100 }
def framed (c : Ctx) (g : BitVec 12) (orel : Bool) : State :=
  (mapped c).setFtab 0 ((Vector.replicate 64 {}).set 0 { live := true, kind := 1, core := 0, base := 0x100, size := 64, count := 1, orel, gen := g })

theorem witness_FrameEnter : (mapped cStack).Issues cStack ∧ cStack.isFull 2 = true ∧ cStack.canWrite 2 ∧ cStack.untied 1 ∧
    ¬({ cStack with j := 2 } : Ctx).untied 1 ∧ (cStack.getX 2).toNat % 16 = 0 ∧ ((cStack.putX 2 0x10108).getX 2).toNat % 16 ≠ 0 ∧
    (stackRange (mapped cStack) cStack).1.toNat + frameSize 1 ≤ (cStack.getX 2).toNat ∧
    ((cStack.putX 2 0).getX 2).toNat < (stackRange (mapped cStack) cStack).1.toNat + frameSize 1 ∧
    Accessible (mapped cStack) 0x100F0 8 (.ord 0) ∧ heldByXu (mapped cStack) ((mapped cStack).regionOf cStack).asid 0x100F0 8 = false ∧
    (match resolve (mapped cStack) ((mapped cStack).regionOf cStack).asid (.ord 0) 0x100F0 8 .w with
      | (.ok key, s1) => key == 0x500F0 && decide ((s1.slot s1.cur).ctx = some cStack)
      | _ => false) = true ∧
    (match resolve (one cStack) ((one cStack).regionOf cStack).asid (.ord 0) 0x100F0 8 .w with
      | (.error .unmapped, _) => true
      | _ => false) = true := by
  unfold Ctx.canWrite Ctx.untied Accessible; exact ⟨mapped_issues _, by decide +kernel⟩

theorem witness_FrameLeave : kindOf (cStack.disp 2) ≠ 0 ∧ (kindOf ((cStack.putX 2 0x100F0).disp 1) = 0 ∧
    addrOf ((cStack.putX 2 0x100F0).disp 1) = ((cStack.putX 2 0x100F0).getX 2).toNat) ∧ Accessible (mapped cStack) 0x100F0 8 (.ord 0) ∧
    ({ cStack with got := [(0, 7)] } : Ctx).got.find? (·.1 == 0) = some (0, 7) ∧ cStack.got.find? (·.1 == 0) = none := by
  unfold Accessible; decide +kernel

/-- Descriptors of kind 1 and 3, an odd base, sizes of 0, 65,536 and 65,544, and a base whose entry is taken. -/
theorem witness_FrameOpen : readOpd (.r 5) 0 (framed (cStack.putX 5 0x1000000000000200) 3 false) =
      .ok 0x1000000000000200 (framed (cStack.putX 5 0x1000000000000200) 3 false) ∧
    kindOf 0x1000000000000200 = 1 ∧ kindOf 0x3000000000000200 = 3 ∧ addrOf 0x1000000000000204 % 8 ≠ 0 ∧
    ((65536 : Word).toNat % 8 = 0 ∧ (65536 : Word).toNat ≤ 65536 ∧ (65536 : Word) ≠ 0) ∧ 65536 < (65544 : Word).toNat ∧
    matchEntry (framed cStack 3 false) 0 0 0x1000000000000100 = some 0 ∧ matchEntry (framed cStack 3 false) 0 0 0x1000000000000200 = none ∧
    ((framed cStack 3 false).ftab 0)[1].live = false ∧ (∀ j, (h : j < 1) → ((framed cStack 3 false).ftab 0)[j].live = true) ∧
    (∀ i < 8, (place ((framed cStack 3 false).regionOf cStack) 0 (0x00FF000000000200 + BitVec.ofNat 64 i) 1).isSome = true) := by
  exact ⟨rfl, by decide +kernel⟩

theorem witness_FrameJoinAndReturn : matchEntry (framed cStack 3 false) 0 0 (cStack.disp 2) = some 0 ∧
    ((framed cStack 3 false).ftab 0)[0].gen = genOf (cStack.disp 2) ∧ ((framed cStack 4 false).ftab 0)[0].gen ≠ genOf (cStack.disp 2) ∧
    matchEntry (one cStack) 0 0 (cStack.disp 2) = none ∧ cStack.j.getLsbD 2 = false ∧ cStack.o.getLsbD 2 = false ∧
    ({ cStack with j := 4, o := 4 } : Ctx).j.getLsbD 2 = true ∧ ({ cStack with j := 4, o := 4 } : Ctx).o.getLsbD 2 = true ∧ cStack.outer = [] := by
  decide +kernel

theorem witness_DisplayInstructions : cStack.canWrite 10 ∧ cStack.strong = none ∧ kindOf (cStack.disp 1) = 0 ∧ kindOf (cStack.disp 2) ≠ 0 ∧
    slotVa (cStack.disp 2) 7 = some 0x00FF000000000138 ∧ slotVa 0x3000000000000000 0 = none ∧
    ((framed cStack 3 false).ftab 0)[0].size ≤ 8 * 8 ∧ 8 * 7 < ((framed cStack 3 false).ftab 0)[0].size ∧
    ({ cStack with outer := [⟨1, 1, 0, 2 ^ 42, 0, 0⟩] } : Ctx).outer ≠ [] := by
  unfold Ctx.canWrite; decide +kernel

/-! Vectors: 32 elements of 32 bits (ET 10), 8 of them below VL. -/

def cVec : Ctx := { cAddr with vtype := 0xA008 }

theorem witness_VectorArithmetic : (one cVec).Issues cVec ∧ cVec.et = 10 ∧ cVec.vl = 8 ∧ cVec.vReady (ops 3 5 (some 7) 9 0) true [5, 7] ∧
    cVec.vReady (ops 3 5 none 0 0) false [3, 5] ∧ ({ cVec with vtype := 0xC008 } : Ctx).et = 12 := by
  unfold Ctx.vReady Ctx.canWrite; exact ⟨one_issues _, by decide +kernel⟩

theorem witness_SpecialFunctions : isWide cVec.et = true ∧ isWide ({ cVec with vtype := 0x8008 } : Ctx).et = false ∧ f32.decode 0x7FC00000 = .nan ∧
    (f32.decode 0xC0000000).rat = some (-2) ∧ (-2 : ℚ) < 0 ∧ (f32.decode 0x3F800000).rat = some 1 ∧ (0 : ℚ) < 1 := by
  refine ⟨by decide +kernel, by decide +kernel, by decide +kernel, ?_, by norm_num, ?_, by norm_num⟩ <;>
  norm_num [Fp.rat, FloatFmt.decode, FloatFmt.signBit, FloatFmt.bias, f32]

theorem witness_Skim8Codes : skim8Value 0x80 = none ∧ (Fp.num true 3 (-1)).rat = some (-3 / 2) ∧ |(-3 / 2 : ℚ)| < 1024 ∧
    (2 : ℚ) ^ (-13 : ℤ) ≤ |(-3 / 2 : ℚ)| ∧ (Fp.num false 0 0).rat = some 0 ∧ |(0 : ℚ)| < (2 : ℚ) ^ (-13 : ℤ) ∧
    (Fp.num false 1 10).rat = some 1024 := by
  refine ⟨rfl, ?_, ?_, ?_, ?_, ?_, ?_⟩ <;> norm_num [Fp.rat, abs_div]

theorem witness_VectorSelect : (one cVec).Issues cVec ∧ cVec.vReady (ops 3 5 (some 7) 9 0) true [5, 7] := by
  unfold Ctx.vReady Ctx.canWrite; exact ⟨one_issues _, by decide +kernel⟩

/-- Conversions from as many elements, from fewer and from more. -/
theorem witness_VectorConvertBroadcast : readOpd (.r 5) 0 (one cVec) = .ok 5 (one cVec) ∧ cVec.canWrite (64 + 3) ∧ cVec.isFull (64 + 3) = true ∧
    cVec.count ≤ 1024 / etWidth 10 ∧ ¬cVec.count ≤ 1024 / etWidth 11 := by
  unfold Ctx.canWrite; exact ⟨rfl, by decide +kernel⟩

theorem witness_VectorCompareReduceScan : isFloat cVec.et = true ∧ ({ cVec with vtype := 0x2010 } : Ctx).et < 8 ∧ cVec.canWrite (80 + 1) ∧
    cVec.isFull (80 + 1) = true ∧ cVec.vl ≤ cVec.count ∧ cVec.vReady (ops 1 5 (some 7) 9 0) true [5, 7] ∧ cVec.canWrite 1 := by
  unfold Ctx.vReady Ctx.canWrite; decide +kernel

theorem witness_VectorPermutes : cVec.isFull (ops 3 5 (some 7) 9 0).cx = true ∧ cVec.vReady (ops 3 5 (some 7) 9 0) true [5, 7] ∧ 8 ≤ cVec.et ∧
    (cVec.getX 7).toNat < cVec.count ∧ ¬(cVec.getX 32).toNat < cVec.count := by
  unfold Ctx.vReady Ctx.canWrite; decide +kernel

theorem witness_MaskInstructions : cVec.isFull (80 + 2) = true ∧ cVec.canWrite (80 + 0) ∧ cVec.canWrite (80 + 7) ∧ cVec.vtypeFree ∧
    readOpd (.r 5) 0 (one cVec) = .ok 5 (one cVec) := by
  unfold Ctx.canWrite Ctx.vtypeFree; exact ⟨by decide +kernel, by decide +kernel, by decide +kernel, by decide +kernel, rfl⟩

theorem witness_VectorMemory : readOpd (.r 9) 0 (one cVec) = .ok 0x10000 (one cVec) ∧ cVec.vl ≠ 0 ∧ ({ cVec with vtype := 0xA000 } : Ctx).vl = 0 ∧
    (0x10000 : Word).toNat % (cVec.width / 8) = 0 ∧ place ((one cVec).regionOf cVec) 0 0x10000 (cVec.vl * (cVec.width / 8)) = some (.ord 0) ∧
    (one cVec).stays (.ord (homeDie 0x10000)) ∧ (0x10002 : Word).toNat % (cVec.width / 8) ≠ 0 ∧
    place ((one cVec).regionOf cVec) 0 0x00F0000000000000 (cVec.vl * (cVec.width / 8)) = none ∧ cVec.isFull (64 + 3) = true ∧
    cVec.positions (cVec.maskOf (ops 3 9 none 0 0) true) = [0, 1, 2, 3, 4, 5, 6, 7] := by
  unfold State.stays; exact ⟨rfl, by decide +kernel⟩

theorem witness_VectorMemory_elements : ¬ElemsAtOnce (one cVec) cVec [(0, 0x10000, .ord 0)] 4 ∧
    ElemsAtOnce (one cVec) cVec [(0, 0x00FF000000000000, .arr (2 ^ 42))] 4 ∧ poisoned (one cVec) (2 ^ 42) 4 = false ∧
    storePoisoned (one cVec) (2 ^ 42) 4 = false ∧ heldByXu held 1 0x10000 4 = true ∧ heldByXu (one cVec) 1 0x10000 4 = false := by
  unfold ElemsAtOnce; decide +kernel

theorem witness_LaneSlices : readOpd (.r 4) 0 (one cVec) = .ok 4 (one cVec) ∧ cVec.isFull (64 + 7) = true ∧
    ((one cVec).regionOf cVec).alloc 1 = (4096, 0) ∧ laneKey 0 15 4088 = 2 ^ 43 + 65528 ∧ Memory.wf (one cVec).mem = true := by
  exact ⟨rfl, by decide +kernel⟩

theorem witness_GangInstruction : (c0.gstat.getLsbD 0 = false ∧ c0.tstat.getLsbD 1 = false) ∧ c0.canWrite 10 ∧
    c0.got.find? (·.1 == gangMark) = none ∧ c0.pend = {} ∧ ({ c0 with got := [(gangMark, 160)] } : Ctx).got.find? (·.1 == gangMark) ≠ none ∧
    (liveCount (one c0) 7 0 + 8 - 1 ≤ reg7.mslot ∧
      ∀ u ∈ groupSlots 0 8, u = 0 ∨ (slotFree (one c0) u = true ∧ ((one c0).slot u).owner.toNat = reg7.shq)) ∧
    ¬liveCount (one c0) 7 0 + 8 - 1 ≤ 7 := by
  unfold Ctx.canWrite; decide +kernel

theorem witness_GangMembers : c0.gstat.getLsbD 0 = false ∧ ({ c0 with gstat := 7 } : Ctx).gstat.getLsbD 0 = true ∧ c0.canWrite 0 := by
  unfold Ctx.canWrite; decide +kernel

theorem witness_SoftmaxMerge : isWide cVec.et = true ∧ cVec.vReady (ops 3 5 none 0 0) false [3, 5] ∧ 2 * 3 + 1 < cVec.vl ∧ ¬2 * 4 + 1 < cVec.vl := by
  unfold Ctx.vReady Ctx.canWrite; decide +kernel

theorem witness_RegisterExchange : (ops 3 5 (some 1) 0 0).cx.val < 2 ∧ cVec.isFull (64 + 5) = true ∧ cVec.canWrite (64 + 3) ∧
    coreOk (one cVec) 2 = true ∧ ((one cVec).slot 0).getXchg 1 = none ∧ ((one cVec).slot 32).getXchg 1 = none ∧
    (((one cVec).slot 0).putXchg 1 (some (5, 2, 9))).getXchg 1 = some (5, 2, 9) ∧ (one cVec).findCtx 1 = some cVec ∧
    pxchWaiter (one cVec) 0 1 = none ∧
    pxchWaiter (({ one cVec with ids := 3 } : State).setSlot 32 { ctx := some { cVec with cid := 2, pxch := [(1, 0, 5)] } }) 0 1 = some (2, 5) ∧
    coreOk ((one cVec).setCore 2 { (one cVec).core 2 with present := false }) 2 = false := by
  unfold Ctx.canWrite; decide +kernel

/-! Engines: descriptors and records stand at VA 0x10000, whose page lies at 0x50000. -/

def withWords (c : Ctx) (ws : List Word) : State :=
  { mapped c with mem := Mem.writeN (mapped c).mem 0x50000 (ws.flatMap (fun w => toBytes 8 w.toNat)) }

/-- Whether a read gives words that pass a test. -/
def words (f : EStateM.Result Stop State (List Word)) (p : List Word → State → Bool) : Bool :=
  match f with
  | .ok l s => p l s
  | _ => false

/-- A copy of two runs of 8 bytes, 16 and 24 bytes apart. -/
def sCopy : State := withWords cAddr [0x10080, 0x10040, 2, 8, 0, 0, 2, 16, 24]

theorem witness_CopyInstructions_good : sCopy.Issues cAddr ∧ readOpd (.r 9) 0 sCopy = .ok 0x10000 sCopy ∧ (0x10000 : Word).toNat % 8 = 0 ∧
    (words (ownWords 0x10000 6 sCopy) (fun h s => h == [0x10080, 0x10040, 2, 8, 0, 0] &&
      words (ownWords (0x10000 + 48) 3 s) (fun l _ => l == [2, 16, 24]))) = true := by
  exact ⟨rfl, rfl, by decide +kernel⟩

/-- No dimension, and a dimension of 2^32 elements. -/
theorem witness_CopyInstructions_bad :
    (words (ownWords 0x10000 6 (withWords cAddr [0, 0, 0])) (fun h _ => h == [0, 0, 0, 0, 0, 0])) = true ∧
    (words (ownWords 0x10000 6 (withWords cAddr [0x10080, 0x10040, 2, 8, 0, 0, 0x100000000])) (fun h s => h == [0x10080, 0x10040, 2, 8, 0, 0] &&
      words (ownWords (0x10000 + 48) 3 s) (fun l _ => l == [0x100000000, 0, 0]))) = true ∧ (0x10004 : Word).toNat % 8 ≠ 0 := by
  decide +kernel

theorem witness_CopyInstructions_registers : c0.isFull 8 = true ∧ c0.isFull (8 + 1) = true ∧ c0.isFull (ops 3 8 (some 12) 0 0).cx = true ∧
    (c0.getX (ops 3 8 (some 12) 0 0).cx).extractLsb' 40 23 = 0 ∧
    (({ c0 with x := c0.x.set 12 (2 ^ 40) } : Ctx).getX (ops 3 8 (some 12) 0 0).cx).extractLsb' 40 23 ≠ 0 := by
  decide +kernel

/-- Tags that are free and taken, and a copy of no bytes. -/
theorem witness_CopyInstructions_tags : c0.tags.getLsbD (3 % 64) = false ∧ ({ c0 with tags := 8 } : Ctx).tags.getLsbD 3 = true ∧
    ((one c0).copies.filter (·.clus == (one c0).myClus)).length < 64 ∧
    ({ dst := 0, src := 0, dnode := none, snode := none, fill := false, len0 := 0, dims := [] } : CopyDesc).len0 = 0 := by
  decide +kernel

/-- A copy of the word at 0x10040 to 0x10080. -/
def dWord : CopyDesc := { dst := 0x10080, src := 0x10040, dnode := none, snode := none, fill := false, len0 := 8, dims := [] }
def kWord : Copy := ⟨5, 0, 0, 1, 0, 0, 9, 7, 1, 3, none, 0, .copy dWord, 0, false, [], none, none⟩
def sWord : State := { mapped c0 with copies := [kWord] }

theorem witness_CopyPerformed : sWord.copies.find? (·.id == 5) = some kWord ∧ sWord.halted (kWord.clus / 16) = false ∧
    copyWaits sWord kWord ⟨.engine 5, some (1, 0), 1, place ((sWord.region? 7).getD Region.blank) 0⟩ dWord = false ∧
    (match resolve (engineSees sWord 5 1 0) 1 (.ord (homeDie 0x10040)) 0x10040 8 .r with
      | (.ok key, s1) => key == 0x50040 && (match engineRead s1 (.engine 5) (some (1, 0)) key 8 (viaOf s1 1 0x10040) with
        | (_, s2) => (List.range 8).all (fun i => !heldByXu s2 1 (0x10080 + BitVec.ofNat 64 i) 1) &&
          (match resolve s2 1 (.ord (homeDie 0x10080)) 0x10080 8 .w with
            | (.ok key', s3) => key' == 0x50080 && !pinned s3 key' 8 && Memory.wf s3.mem
            | _ => false))
      | _ => false) = true ∧
    sWord.slotOf 1 = some 0 ∧ (sWord.slot 0).ctx = some c0 := by decide +kernel

/-- A copy that waits for its reply, and one on a halted die. -/
theorem witness_CopyPerformed_waits : ({ kWord with out := true } : Copy).out = true ∧
    ({ sWord with host := { sWord.host with dhalt := 1 } } : State).halted (kWord.clus / 16) = true ∧ kWord.pos = 0 ∧ kWord.back = none := by
  decide +kernel

/-! Matrix records. -/

/-- The words of a record of 4 rows of INT8 weights and activations, which loads its bank. -/
def mWords : List Word := [0x40000 + 2 ^ 34, 0, 0, 0, 0, 0, 0, 0, 0, 0, 0, 0, 0, 0, 0, 0]
def regRec : Region := { reg7 with rcb := reg7.rcb.set 9 0xFFFF000000020010 }
def sRec (ws : List Word) : State := { withWords cAddr ws with regions := [(7, regRec)] }

theorem witness_MatrixInstructions : (sRec mWords).Issues cAddr ∧ cAddr.canWrite 3 ∧ readOpd (.r 9) 0 (sRec mWords) = .ok 0x10000 (sRec mWords) ∧
    cAddr.canRelease ∧ (0x10000 : Word).toNat % 128 = 0 ∧
    (words (ownWords 0x10000 16 (releaseMark (sRec mWords) (.thread cAddr.cid) ⟨2, some (sRec mWords).myCore⟩)) (fun l _ => l == mWords)) = true ∧
    ((sRec mWords).regionOf cAddr).mrecs ≠ 0 ∧ (mWords.getD 0 0).extractLsb' 42 2 = 0 ∧ (mWords.getD 0 0).getLsbD 30 = false ∧
    ¬((sRec mWords).regionOf cAddr).mrecs ≤ ((sRec mWords).records.filter (fun k => k.region == 7 && k.state != .complete)).length := by
  unfold Ctx.canWrite Ctx.canRelease; exact ⟨rfl, by decide +kernel, rfl, by decide +kernel⟩

/-- A predecessor that does not exist yet, a region with no records, and one whose two are taken; a misaligned record. -/
theorem witness_MatrixInstructions_bad : (0x40000 + 2 ^ 34 + 2 ^ 42 : Word).extractLsb' 42 2 = 1 ∧ reg7.mrecs = 0 ∧ regRec.lastRec = 0 ∧
    regRec.lastRec < 1 ∧
    regRec.mrecs = 2 ∧ (0x10040 : Word).toNat % 128 ≠ 0 := by decide +kernel

/-- A record with those words, as it waits in a scheduler. -/
def mRec (id : Nat) (ws : List Word) (st : RecState) : MRec := ⟨7, id, Vector.ofFn (fun i => ws.getD i.val 0), 0x10000, 1, 0, 0, 0, 0, 0, id + 20, none, st, 0, 0, none, none, [], [], none, false⟩
def regRec1 : Region := { regRec with nextRec := 4 }
def sQueue (l : List MRec) : State := { sRec mWords with regions := [(7, regRec1)], records := l }

theorem witness_MatrixInstructions_queries : recOf (sQueue [mRec 3 mWords .waiting]) 7 3 = some (mRec 3 mWords .waiting) ∧
    regRec1.keeps 3 = true ∧ regRec1.keeps 4 = false ∧
    endWaits (sQueue [mRec 3 mWords .waiting]) (mRec 3 mWords .waiting) 13 = false ∧ (mRec 3 mWords .waiting).code < 256 ∧
    (mRec 3 mWords .waiting).isPartner = false ∧
    (mRec 3 mWords .waiting).tagv = false ∧ (mRec 3 mWords .running).state ≠ .waiting := by decide +kernel

/-- A record that fails a check, one of no rows, and one that follows a record that failed. -/
def mBad : List Word := mWords.set 0 (0x40000 + 2 ^ 34 + 0x60)
def mNone : List Word := mWords.set 0 0x40000
def mAfter : List Word := (mWords.set 0 (0x40000 + 2 ^ 34 + 2 ^ 42)).set 14 3

/-- A record without a counter waits for the same at its end whatever its code is. -/
theorem endWaits_any {s : State} {m : MRec} (h : m.cntv = false) (code : Nat) : endWaits s m code = endWaits s m 0 := by
  simp [endWaits, h]

theorem witness_MatrixSteps_issue : (sQueue []).halted 0 = false ∧
    ({ sQueue [] with host := { (sQueue []).host with dhalt := 1 } } : State).halted 0 = true ∧
    (∀ ws ∈ [mWords, mBad, mNone], (sQueue [mRec 3 ws .waiting]).records.filter (fun m => m.die == 0 && m.state == .waiting) = [mRec 3 ws .waiting] ∧
      (mRec 3 ws .waiting).code = 0 ∧ recReady (sQueue [mRec 3 ws .waiting]) (mRec 3 ws .waiting) = true ∧ (mRec 3 ws .waiting).isLead = false ∧
      (mRec 3 ws .waiting).isPartner = false ∧ predsDone (sQueue [mRec 3 ws .waiting]) (mRec 3 ws .waiting) = true ∧
      (mRec 3 ws .waiting).cntv = false ∧
      endWaits (sQueue [mRec 3 ws .waiting]) (mRec 3 ws .waiting) 0 = false) ∧
    recCheck (sQueue []) (mRec 3 mBad .waiting) = 2 ∧ recCheck (sQueue []) (mRec 3 mWords .waiting) = 0 ∧
    recCheck (sQueue []) (mRec 3 mNone .waiting) = 0 ∧
    (mRec 3 mNone .waiting).rows = 0 ∧ (mRec 3 mWords .waiting).rows = 4 ∧ (mRec 3 mWords .waiting).wld = true ∧
    chainOf (sQueue []) (mRec 3 mWords .waiting) = none ∧ inputsRecalled (sQueue [mRec 3 mWords .waiting]) (mRec 3 mWords .waiting) = false ∧
    rollerFree (sQueue []) 0 = true := by decide +kernel

theorem witness_MatrixSteps_after :
    let p : MRec := { mRec 3 mWords .complete with code := 4 }
    let s := sQueue [p, mRec 4 mAfter .waiting]
    s.records.filter (fun m => m.die == 0 && m.state == .waiting) = [mRec 4 mAfter .waiting] ∧ recReady s (mRec 4 mAfter .waiting) = true ∧
      predsDone s (mRec 4 mAfter .waiting) = false ∧ endWaits s (mRec 4 mAfter .waiting) 0 = false := by decide +kernel

theorem witness_MatrixSteps_lines :
    let m : MRec := { mRec 3 mWords .running with lines := [0x50080] }
    let s : State := { sQueue [m] with pins := [(7, 3, 0x50000)] }
    s.pins.find? (fun p => p.1 == 7 && p.2.1 == 3) = some (7, 3, 0x50000) ∧ recOf s 7 3 = some m := by decide +kernel

/-- The words of a lead, of its partner, and of a record whose drain a continuation takes up. -/
def mLead : List Word := mWords.set 0 (0x40000 + 2 ^ 34 + 0xC00000)
def mPart : List Word := (mWords.set 0 (0x40000 + 2 ^ 34 + 0x400000)).set 14 0x300000000
def mChain : List Word := mWords.set 0 (0x40000 + 2 ^ 34 + 0x200000)

theorem witness_MatrixSteps_ends : (∀ m ∈ [mRec 3 mWords .complete, { mRec 3 mWords .running with code := 5 }, mRec 3 mPart .running, mRec 3 mLead .running,
      mRec 3 mChain .running, mRec 3 mWords .running], recOf (sQueue [m]) 7 3 = some m ∧
      (sQueue [m]).pins.any (fun p => p.1 == 7 && p.2.1 == 3) = false ∧
      m.sums = none ∧ m.cntv = false ∧ m.drain = false ∧
      endWaits (sQueue [m]) m 0 = false) ∧
    (mRec 3 mPart .running).isPartner = true ∧ (mRec 3 mLead .running).isLead = true ∧ (mRec 3 mLead .running).isPartner = false ∧
    (mRec 3 mChain .running).chn = true ∧ (mRec 3 mWords .running).chn = false ∧ (mRec 3 mWords .running).isLead = false ∧
    (match drainOut (sQueue [mRec 3 mWords .running]) (mRec 3 mWords .running) [] with
      | some (code, s1) => code == 1 && s1.records == [mRec 3 mWords .running]
      | none => false) = true := by decide +kernel

theorem witness_MatrixSteps_pairs :
    let l : MRec := mRec 3 mLead .running
    let m : MRec := { mRec 4 mPart .running with drain := true }
    let s := sQueue [l, m]
    recOf s 7 4 = some m ∧ m.order ≠ l.order ∧ m.cntv = false ∧ recOf s 7 m.pred1 = some l ∧ l.isLead = true ∧
    (∀ k ∈ s.records, k.order = m.order → k = m) ∧
    (let l' : MRec := { l with drain := true }
     recOf (sQueue [l']) 7 3 = some l' ∧ l'.sums = none ∧
      (sQueue [l']).records.all (fun p => !(p.region == 7 && p.isPartner && p.pred1 == 3)) = true) ∧
    ({ l with sums := some [] } : MRec).sums ≠ none ∧ endWaits s m 0 = false ∧
    endWaits (sQueue [{ l with drain := true }]) { l with drain := true } 0 = false := by decide +kernel

theorem witness_MatrixSteps_holds : ((sQueue []).roller 0).drain.map (·.1) ≠ some 5 ∧
    (((sQueue []).setRoller 0 { drain := some (5, []) }).roller 0).drain.map (·.1) = some 5 := by decide +kernel

/-! The Stipple. -/

/-- An index descriptor of 2 points of 12 bytes at 0x10100, whose area is at 0x10200. -/
def sIndex : State := withWords { cVec with x := cVec.x.set 20 0x200000000 } [0x10100, 0x20000000C, 0x10200, 0x100, 0, 0, 0, 0]
def cIndex : Ctx := { cVec with x := cVec.x.set 20 0x200000000 }

theorem witness_StippleInstructions_build : sIndex.Issues cIndex ∧ readOpd (.r 9) 0 sIndex = .ok 0x10000 sIndex ∧
    (0x10000 : Word).toNat % 64 = 0 ∧ cIndex.canRelease ∧
    (words (ownWords 0x10000 8 sIndex) (fun l _ => l == [0x10100, 0x20000000C, 0x10200, 0x100, 0, 0, 0, 0])) = true ∧
    ((0x20000000C : Word).extractLsb' 0 32).toNat = 12 ∧ ((0x200000008 : Word).extractLsb' 0 32).toNat < 12 := by
  unfold Ctx.canRelease; exact ⟨rfl, rfl, by decide +kernel⟩

theorem witness_StippleInstructions_query : readOpd (.r 9) 1 sIndex = .ok 0x10000 sIndex ∧ cIndex.isFull (ops 9 9 (some 20) 0 0).cx = true ∧
    cIndex.getX (ops 9 9 (some 20) 0 0).cx = 0x200000000 ∧ (0x200000000 : Word).extractLsb' 41 23 = 0 ∧ (0x200000000 : Word).extractLsb' 32 7 = 2 ∧
    f32.decode 0 ≠ .nan ∧ (∀ i < 5, cIndex.isFull (64 + i) = true ∧ cIndex.canWrite (64 + i)) ∧ cIndex.canRelease ∧ cIndex.et = 10 ∧ cIndex.vl ≠ 0 ∧
    ({ cIndex with vtype := 0xA000 } : Ctx).vl = 0 ∧ (0x10000 : Word).toNat % 256 = 0 ∧ (0x10040 : Word).toNat % 256 ≠ 0 ∧
    ({ cIndex with vtype := 0x3010 } : Ctx).et ≠ 10 ∧ (0x600000000 + 2 ^ 39 : Word).getLsbD 39 = true := by
  unfold Ctx.canRelease Ctx.canWrite; exact ⟨rfl, by decide +kernel⟩

/-- Two points on the first axis, one of which lies within radius 1 of the origin. -/
theorem witness_StippleAnswers_points : f32.decode 0 ≠ .nan ∧
    (answer [(0x3F000000, 0, 0, 0), (0x40000000, 0, 0, 1)] 0x23F800000 0 0 0).1 = [0] := by decide +kernel

def dIndex : IndexDesc := ⟨0x10100, 2, 12, 0x10200, 0x100⟩
def kIndex : Copy := ⟨5, 0, 0, 1, 0, 0, 9, 7, 1, 3, some 0x10000, 0, .index dIndex, 0, false, [], none, none⟩
def sBuild : State := { sIndex with copies := [kIndex] }

theorem witness_StippleAnswers_build : sBuild.copies.find? (·.id == 5) = some kIndex ∧ kIndex.kind = .index dIndex ∧ kIndex.desc = some 0x10000 ∧
    ownKey sBuild ((sBuild.region? 7).getD Region.blank) 0 (0x10000 + 0x28) = some 0x50028 ∧ Memory.wf sBuild.mem = true ∧
    buildWaits sBuild kIndex 0x10000 dIndex = false ∧ storePoisoned sBuild 0x5002E 2 = false ∧
    sBuild.halted 0 = false ∧ ({ sBuild with host := { sBuild.host with dhalt := 1 } } : State).halted 0 = true := by decide +kernel

/-- A query of 8 elements against a built index. -/
def xIndex : Index := ⟨3, 0x50000, [(0x50200, 0x80)], true, [(0x3F000000, 0, 0, 0)]⟩
def qIndex : Query := ⟨6, 0x10800, 0x10000, 0x23F800000, 8, 0, some 0x50000, some 3⟩
def cAsks : Ctx := { cIndex with query := some qIndex, stage := 1, run := .away }
def sAsks : State := { withWords cAsks [0x10100, 0x20000000C, 0x10200, 0x100, 0x80, 2 ^ 48, 0, 0] with indexes := [xIndex] }

theorem witness_StippleAnswers_query : sAsks.findCtx 1 = some cAsks ∧ qIndex.place.bind (fun p => sAsks.indexes.find? (·.place == p)) = some xIndex ∧
    sAsks.halted 0 = false ∧ xIndex.ok = true ∧ qIndex.index = some xIndex.id ∧
    queryWaits sAsks { agent := .engine 6, own := none, asid := 1, place := place (sAsks.regionOf cAsks) 0 } qIndex (some xIndex) = false ∧
    (let v : Mover := { agent := .engine 6, own := none, asid := 1, place := place (sAsks.regionOf cAsks) 0 }
     match queryCheck v qIndex (some xIndex) (acquireMark sAsks v.agent 2 (seat 0)) with
      | (0, s1) => (match writeAnswers v 0x10800 ((List.range 8).map (fun i => (i, (answer xIndex.points 0x23F800000 (lane 32 (cAsks.getV 0) i)
          (lane 32 (cAsks.getV 1) i) (lane 32 (cAsks.getV 2) i)).1))) { s1 with tick := s1.tick + 1 } with
        | some (none, _) => true
        | _ => false)
      | _ => false) = true := by decide +kernel

/-! Tasks, regions and claims: region 7 posts to the group whose claim table stands at 0x10000. -/

def regG : Region := { reg7 with rcb := (reg7.rcb.set 4 0x10000).set 13 0x400 }
def gKey : GroupKey := ⟨1, 0x10000⟩
def grp (es : Tab Entry) (pending : List (Nat × Nat)) : Group := ⟨gKey, 1, true, 0, 0, 4, 0, 0, 0, 0, 0, es, pending, [], []⟩
def sGroup (g : Group) : State := { mapped c0 with regions := [(7, regG)], groups := [g], fabric := { joined := true } }

theorem witness_PostAndSpawn_post : (sGroup (grp [] [])).Issues c0 ∧ readOpd (.r 3) 0 (sGroup (grp [] [])) = .ok 3 (sGroup (grp [] [])) ∧
    regG.tsp ≠ 5 ∧
    (3 : Word).extractLsb' 32 16 = 0 ∧ isPresent (sGroup (grp [] [])) ((3 : Word).extractLsb' 48 16) = true ∧
    (3 : Word).extractLsb' 48 16 = (sGroup (grp [] [])).node ∧ (sGroup (grp [] [])).grp? regG.grpKey = some (grp [] []) ∧
    ((3 : Word).extractLsb' 0 32).toNat < (grp [] []).count ∧ ¬((4 : Word).extractLsb' 0 32).toNat < (grp [] []).count := by
  exact ⟨rfl, rfl, by decide +kernel⟩

/-- An element of another package that has joined. -/
theorem witness_PostAndSpawn_away :
    let s : State := { sGroup (grp [] []) with fabric := { (sGroup (grp [] [])).fabric with joined := true, present := [5] } }
    isPresent s ((0x0005000000000000 : Word).extractLsb' 48 16) = true ∧ (0x0005000000000000 : Word).extractLsb' 48 16 ≠ s.node := by decide +kernel

theorem witness_PostAndSpawn_spawn : c0.canWrite 10 ∧ (∀ i : Fin 64, 5 ≤ i → i ≤ 8 → c0.isFull i.val = true) ∧ c0.canRelease ∧
    ((one c0).core (one c0).myCore).deque.length < 16 ∧ (4 : Word).getLsbD 0 = false ∧ (4 : Word).extractLsb' 56 8 = 0 ∧
    (let s := (one c0).setCore 0 { (one c0).core 0 with deque := List.replicate 16 ⟨1, 7, 0, 0, 0, 0, 0⟩ }
     16 ≤ (s.core s.myCore).deque.length ∧ (regG.spill.getD s.myDie []).length < regG.quota / 4 / 64) ∧
    reg7.quota / 4 / 64 ≤ (reg7.spill.getD 0 []).length := by
  unfold Ctx.canWrite Ctx.canRelease; decide +kernel

theorem witness_LaunchInstruction : c0.canWrite 10 ∧ readOpd (.r 9) 0 (one cAddr) = .ok 0x10000 (one cAddr) ∧ (0x10000 : Word).toNat % 256 = 0 ∧
    cAddr.canRelease ∧
    (0x10080 : Word).toNat % 256 ≠ 0 := by
  unfold Ctx.canWrite Ctx.canRelease; exact ⟨by decide +kernel, rfl, by decide +kernel⟩

/-- A LAUNCH from context 1 whose RCB is to be read, and the words that it finds there. -/
def lReg : Launch := ⟨3, 1, 0x10000, none, some 7, false, 0, some 1, 10, none, false⟩
def sLaunch : State := { withWords c0 [0, 2 ^ 44] with launches := [(3, lReg)] }

theorem witness_LaunchInstruction_admission : Tab.get? sLaunch.launches 3 = some lReg ∧ lReg.rcb = none ∧
    lReg.parent.bind sLaunch.region? = some reg7 ∧
    sLaunch.slotOf 1 = some 0 ∧ (sLaunch.slot 0).ctx = some c0 ∧ reg7.still = false ∧ c0.got = [] ∧
    ({ reg7 with still := true } : Region).still = true ∧
    anyOwns sLaunch 1 0x10000 256 = false ∧ anyOwns { sLaunch with copies := [{ kWord with pos := 0 }] } 1 0x10000 256 = true ∧
    (match devWords (touchWords sLaunch 1 32 0x10000) 1 32 0x10000 with
      | .ok ws => ws.getD 1 0 == 2 ^ 44
      | _ => false) = true ∧
    (match devWords (touchWords sLaunch 1 32 0x20000000) 1 32 0x20000000 with
      | .error _ => true
      | _ => false) = true ∧ c0.rfq.filter (·.1 == 10) = [] := by decide +kernel

/-- The RCB of a region of tiles that passes every check. -/
def rcbGood : Vector Word 32 :=
  ((((Vector.replicate 32 0).set 0 0x10000).set 1 0x5000000000000).set 9 0x100000010).set 15 0x100010000 |>.set 1 0x500000000000

theorem witness_RegionAdmission_child :
    let p : Region := { reg7 with level := 7 }
    let l : Launch := { lReg with rcb := some rcbGood }
    Tab.get? ({ sLaunch with launches := [(3, l)] } : State).launches 3 = some l ∧ p.level = 7 ∧ reg7.level ≠ 7 ∧ l.bad = false ∧
    (((Vector.replicate 32 0 : Vector Word 32).set 1 (2 ^ 27)).getD 1 0).extractLsb' 27 5 ≠ 0 ∧
    refusal sLaunch l rcbGood { Region.blank with id := sLaunch.ids, rcb := inheritRcb rcbGood rcbGood, asid := 1, rcbva := 0x10000 } (some reg7) = none := by
  decide +kernel

/-- Fields as they may be with an entry at an odd address, and a claim table that a copy writes. -/
theorem witness_RegionAdmission_aligned :
    let own := rcbGood.set 0 0x10001
    let asked : Region := { Region.blank with id := sLaunch.ids, rcb := inheritRcb own own, asid := 1, rcbva := 0x10000 }
    (∀ f ∈ rcbReserved, (own.getD f.1 0).toNat / 2 ^ f.2.2 % 2 ^ (f.2.1 + 1 - f.2.2) = 0) ∧ (own.getD 1 0).extractLsb' 27 5 = 0 ∧
    badFields sLaunch asked = false ∧ (asked.w 0).toNat % 2 ≠ 0 ∧ ¬asked.tsp ≠ 5 ∧ regG.tsp ≠ 5 ∧
    tableOwned { sLaunch with copies := [{ kWord with kind := .copy { dWord with dst := 0x10000 } }] } 1 regG.ctab regG.elems regG.tsp (regG.w 5) (regG.w 6) = true := by
  decide +kernel

theorem witness_RegionAdmission_root :
    let l : Launch := { lReg with rcb := some rcbGood, parent := none, cid := none, entry := some 0 }
    Tab.get? ({ sLaunch with launches := [(3, l)] } : State).launches 3 = some l ∧
    refusal { sLaunch with launches := [] } l rcbGood
      { Region.blank with id := sLaunch.ids, rcb := rcbGood, asid := 1, rcbva := 0x10000, live := true, cookie := 0 } none = none := by decide +kernel

/-- A region with nothing left to do, and one that a task still holds. -/
def tOne : Task := ⟨9, 7, 5, false, false, none, none, 0, 1, [], false, [], [], none⟩

theorem witness_RegionCompletion :
    let r : Region := { reg7 with rcb := reg7.rcb.set 1 0x500000000000 }
    let s : State := { one c0 with regions := [(7, r)] }
    s.region? 7 = some r ∧ r.id = 7 ∧ r.live = true ∧ regionDone s r = true ∧ r.parent = none ∧ r.cntva = 0 ∧ r.tsp = 5 ∧ r.ofv = false ∧
    r.halted = 0 ∧ r.tsp = 5 ∧
    heldUp { s with copies := [{ kWord with kind := .copy { dWord with dst := 0x10000 } }] } s.ids 1 0x10000 8 = true ∧
    regionDone { s with tasks := [(9, tOne)] } r = false ∧
    regionDone { s with regions := [(7, r), (8, { r with id := 8, parent := some 7 })] } r = false := by decide +kernel

theorem witness_TaskQueries :
    let s : State := { one c0 with tasks := [(9, tOne)], regions := [(7, reg7), (8, { reg7 with id := 8, parent := some 7, rcbva := 9 })] }
    s.Issues c0 ∧ c0.canWrite 10 ∧ readOpd (.r 9) 0 s = .ok 9 s ∧ Tab.get? s.tasks c0.task = some tOne ∧ s.myCore < 1024 ∧
    s.launches.any (fun l => l.2.parent == some 7 && l.2.rcbva == 9) = false ∧
    childAt s 7 9 = some { reg7 with id := 8, parent := some 7, rcbva := 9 } ∧ reg7.live = true ∧ reg7.halted = 0 ∧
    (one c0).regions.all (fun e => !(e.2.parent == some 7 && e.2.rcbva == 9)) = true ∧
    ({ s with launches := [(3, { lReg with rcbva := 9 })] } : State).launches.any (fun l => l.2.parent == some 7 && l.2.rcbva == 9) = true := by
  unfold Ctx.canWrite; exact ⟨rfl, by decide +kernel, rfl, by decide +kernel⟩

/-- Windows of HOMEQ at their edges. -/
theorem witness_TaskQueries_home : (0x00EF000000000000 : Word).extractLsb' 48 8 < 0xF0 ∧ ¬(0x00F0000000000000 : Word).extractLsb' 48 8 < 0xF0 ∧
    (0x00FC000000000000 : Word).extractLsb' 48 8 < 0xFD ∧ ¬(0x00FD000000000000 : Word).extractLsb' 48 8 < 0xFD ∧
    (0x00FE000000000000 : Word).extractLsb' 48 8 = 0xFE ∧ (0x00FF000000000000 : Word).extractLsb' 48 8 = 0xFF := by decide

/-! Claims. -/

/-- A request for element 1 of the group by sweep 3 of this package. -/
def rClaim : ClaimReq := ⟨gKey, 1, true, 0, 3⟩

theorem witness_ClaimRequests : (sGroup (grp [] [])).grp? gKey = some (grp [] []) ∧ rClaim.elem < (grp [] []).count ∧
    (grp [] []).deferred.any (fun q => q.2.elem == 1) = false ∧ cacheFull (sGroup (grp [] [])) (entryDie gKey 1) = false ∧
    devKey (sGroup (grp [] [])) 1 (entryVa gKey 1) true = some 0x50048 ∧ (grp [] []).ever = true ∧
    devKey (sGroup (grp [] [])) 1 (entryVa gKey 1) false = some 0x50048 ∧ Memory.wf (sGroup (grp [] [])).mem = true ∧
    ((grp [] []).entry 1).fifo.length < 4096 ∧ ((grp [] []).entry 1).scnt < 4095 ∧ ((grp [] []).entry 1).xh = false ∧
    ((grp [(1, { xh := true })] []).entry 1).xh = true ∧ rClaim.node = (sGroup (grp [] [])).node := by decide +kernel

/-- An X claim with two S requests and an X request behind it. -/
theorem witness_ClaimReleases :
    let p : ClaimReq := { rClaim with x := false, sweep := 4 }
    let e : Entry := { xh := true, held := [rClaim], fifo := [p, { p with sweep := 5 }] ++ [{ rClaim with sweep := 6 }] }
    let s := sGroup (grp [(1, e)] [])
    s.grp? gKey = some (grp [(1, e)] []) ∧ (grp [(1, e)] []).entry 1 = e ∧ e.held = [rClaim] ∧ e.xh = true ∧ e.scnt = 0 ∧
    (∀ q ∈ [p, { p with sweep := 5 }], q.x = false ∧ q.node = s.node) ∧ (∀ q ∈ [({ rClaim with sweep := 6 } : ClaimReq)].head?, q.x = true) ∧
    ((grp [] []).entry 1).held = [] ∧ putEntry s gKey 1 e ≠ none ∧ putEntry { s with mem := [] } gKey 1 e = none ∧
    devKey s gKey.asid (entryVa gKey 1) true ≠ none ∧ devKey s gKey.asid (entryVa gKey 1) false ≠ none := by decide +kernel

/-- The sweep of element 1, whose only claim is its own. -/
def wOne : Sweep := ⟨3, 0, 7, 1, gKey, [(1, true)], 0, false, false, false, false, 0⟩

theorem witness_ClaimSweeps :
    let g := grp [(1, { pend := true, pendRegion := 7 })] [(5, 1)]
    nextPending (sGroup g) 0 = some (5, gKey, 1) ∧ isPresent (sGroup g) (sGroup g).node = true ∧
    devKey (sGroup g) 1 (entryVa gKey 1) true ≠ none ∧ devKey (sGroup g) 1 (entryVa gKey 1) false ≠ none ∧ (sGroup g).grp? gKey = some g ∧
    g.rad = 0 ∧ 1 < g.count ∧
    nextPending (sGroup (grp [] [])) 0 = none ∧ (sGroup g).groups.all (·.deferred.isEmpty) = true ∧
    (let s : State := { sGroup g with sweeps := [(3, wOne)] }
     Tab.get? s.sweeps 3 = some wOne ∧ wOne.granted = false ∧ wOne.next + 1 = wOne.set.length ∧
       ({ wOne with granted := true } : Sweep).granted = true) := by decide +kernel

/-- The claim set of an element of a region of radius 0, the second of two members to be asked for, and one deferred request. -/
theorem witness_ClaimSweeps_order :
    let g := grp [(1, { pend := true, pendRegion := 7 })] [(5, 1)]
    let w : Sweep := { wOne with set := [(1, true), (2, false)] }
    let s : State := { sGroup g with sweeps := [(3, w)] }
    let gd := { grp [] [] with deferred := [(4, rClaim)] }
    (match claimSet (touchWalk ((setEntry (sGroup g) gKey 1 { g.entry 1 with pend := false, run := true }).modGrp gKey
        (fun g => { g with pending := g.pending.filter (·.1 != 5) })).fresh.2 g 1) g 1 with
      | .ok l => l == [(1, true)]
      | .error _ => false) = true ∧
    (1 : Word).extractLsb' 48 16 = s.node ∧ absentCode s s.node = none ∧ w.set[w.next + 1]? = some (2, false) ∧
    (0x0005000000000002 : Word).extractLsb' 48 16 ≠ s.node ∧
    (allDeferred (sGroup gd)).filter (fun q => entryDie q.2.grp q.2.elem == entryDie gKey 1) = [(4, rClaim)] ∧
    gd.deferred.any (fun q => decide (q.1 < 4) && q.2.elem == 1) = false ∧ cacheFull (sGroup gd) (entryDie gKey 1) = false ∧
    devKey (sGroup gd) 1 (entryVa gKey 1) true ≠ none ∧ devKey (sGroup gd) 1 (entryVa gKey 1) false ≠ none ∧
    (gd.entry 1).fifo.length < 4096 ∧ (gd.entry 1).scnt < 4095 ∧
    4096 ≤ ({ xh := true, fifo := List.replicate 4096 rClaim } : Entry).fifo.length := by decide +kernel

theorem witness_ClaimSweeps_posts :
    let p : PostMsg := { grp := gKey, elem := 1, rcb := 0, region := 7, node := 0 }
    let s := sGroup (grp [] [])
    s.grp? p.grp = some (grp [] []) ∧ p.node = s.node ∧ (grp [] []).ever = true ∧ (grp [] []).live ≠ 0 ∧ homeRegion s p = some 7 ∧
    ((grp [] []).entry 1).pend = false ∧ ((grp [] []).entry 1).run = false ∧ ((grp [(1, { run := true })] []).entry 1).run = true ∧
    ({ grp [] [] with ever := false } : Group).heldReq.contains (.inr (p, 0)) = false ∧ (grp [] []).count ≤ 4 := by decide +kernel

/-! Dispatch, saves and scrubs. -/

/-- A region of tiles with work, a stack at 0x10000, and its gate at 0x10000. -/
def regT : Region := { reg7 with rcb := (reg7.rcb.set 9 0xFFFF000100020010).set 14 0x10000 |>.set 15 0x100010000 |>.set 1 0x500000000000, tiles := Vector.replicate 4 1 }
def sTile : State := { mapped c0 with regions := [(7, regT)] }

/-- Whether the slot of a new task's frame, at the top of the stack range of place 0, can be written. -/
def fits (s : State) : Bool :=
  (presetSlot s.fresh.2 regT s.ids (regT.stkb + BitVec.ofNat 64 ((0 + 1) * regT.stksz) - BitVec.ofNat 64 ((8 * regT.d1w + 15) / 16 * 16))).1

theorem witness_TaskDispatch : (workFor sTile 16).map (fun w => (w.1.id, w.2)) = some (7, .tile) ∧
    stackFor regT (nameDie 16) (Item.tile).key = some 0 ∧
    fits sTile = true ∧ fits { sTile with mem := [] } = false ∧ sTile.plfloor = 0 ∧ workFor sTile 0 = none ∧ slotFree sTile 0 = false := by
  decide +kernel

theorem witness_SavesAndScrubs :
    let q : SaveReq := ⟨0x10000, 1, none, none, false, 160⟩
    let c : Ctx := { c0 with save := some q }
    let s := mapped c
    s.slotOf 1 = some 0 ∧ (s.slot 0).ctx = some c ∧ s.halted (nameDie 0) = false ∧ c.mig = none ∧ q.parker = none ∧
    anyOwns s (s.regionOf c).asid q.img 4096 = false ∧
    faultDue { c with yieldTo := none } = false ∧
    faultDue { c with yieldTo := none, lfaults := [⟨2, 0x1000, 0x10000, false, .x 10 false, {}⟩] } = true ∧
    (let s0 := finishYield (disband s 0 2) 1
     let k : Ctx := { (ctxOf s0 0).forSave (s.launches.any (fun l => l.2.cid == some 1 && l.2.rcb.isNone)) with save := none }
     (writeImg s0 1 0x10000 (imageBytes s0 k 0 q.state s.clock)).isSome = true ∧ writeImg s0 1 0x20000000 [] = none) ∧
    ({ s with host := { s.host with dhalt := 1 } } : State).halted (nameDie 0) = true := by decide +kernel

theorem witness_SavesAndScrubs_share : sTile.halted (nameDie 16) = false ∧ activeQueues sTile (nameDie 16) = [0] ∧ (sTile.slot 16).fixed = false ∧
    (sTile.slot 16).ctx = none ∧ (sTile.slot 16).scrub = false ∧ (sTile.slot 16).freed ≤ sTile.clock ∧
    (sTile.slot 0).ctx = some c0 := by decide +kernel

theorem witness_SavesAndScrubs_scrub : (one c0 |>.slot 5).scrub = false ∧ (((one c0).setSlot 5 { scrub := true }).slot 5).scrub = true ∧
    (∀ i < 16, (((one c0).setSlot 21 { scrub := true }).slot (nameCore 21 * 16 + i)).ctx = none) := by decide +kernel

/-! Remote operations: package 5 is present; x20 names it and x21 this one; no package stands at 0x8000. -/

def away (s : State) : State := { s with fabric := { s.fabric with joined := true, present := [5] } }
def cFar : Ctx := { cAddr with x := ((cAddr.x.set 20 5).set 21 0).set 22 6 }
def sFar : State := away (mapped cFar)

theorem witness_RemoteInstructions : sFar.Issues cFar ∧ cFar.got = [] ∧ effAddr (ops 10 9 (some 20) 0 0) false [] sFar = .ok 0x10000 sFar ∧
    cFar.isFull (ops 10 9 (some 20) 0 0).cx = true ∧ cFar.getX (ops 10 9 (some 20) 0 0).cx = 5 ∧ cFar.canWrite 10 ∧ cFar.isFull 10 = true ∧
    (0x10000 : Word).toNat % 8 = 0 ∧ (0x10004 : Word).toNat % 8 ≠ 0 ∧ (place (sFar.regionOf sFar.ctx) sFar.myCore 0x10000 8).isSome = true ∧
    (0x10000 : Word).extractLsb' 48 8 ≠ 0xFF ∧ (0x10000 : Word).extractLsb' 48 8 ≠ 0xFE ∧ absentCode sFar 5 = none ∧ absentCode sFar 0x8000 = some 2 ∧
    cFar.strong = none ∧ cFar.stores = [] ∧ cFar.loads = [] ∧ cFar.outer = [] ∧ cFar.canRelease ∧ (2 : BitVec 4).getLsbD 1 = true := by
  unfold Ctx.canWrite Ctx.canRelease; exact ⟨rfl, rfl, rfl, by decide +kernel⟩

/-- The functions of RAMO at their edges, and an address that is forbidden. -/
theorem witness_RemoteInstructions_functions : ((0x90005 : Word).extractLsb' 16 4).toNat = 9 ∧ ((0xC0005 : Word).extractLsb' 16 4).toNat < 13 ∧
    13 ≤ ((0xD0005 : Word).extractLsb' 16 4).toNat ∧ cFar.isFull ((62 : Fin 64).val + 1) = true ∧
    place (sFar.regionOf sFar.ctx) sFar.myCore 0x00F0000000000000 8 = none ∧ (0x00FF000000000000 : Word).extractLsb' 48 8 = 0xFF := by decide +kernel

/-- Register 10 of slot 32 under incarnation 0, and a bad descriptor. -/
theorem witness_MessageInstructions : readOpd (.r 9) 1 (one cAddr) = .ok 0x10000 (one cAddr) ∧ (0x20000A : Word).extractLsb' 0 6 ≠ 0 ∧
    (0x20000A : Word).extractLsb' 30 2 = 0 ∧ (0x20000A : Word).extractLsb' 6 10 = 0 ∧ (c0.rstat.extractLsb' 40 8).toNat < 16 ∧
    16 ≤ (({ c0 with rstat := 0x100000000000 } : Ctx).rstat.extractLsb' 40 8).toNat ∧ c0.canRelease ∧ absentCode (away (one c0)) 0 = none ∧
    absentCode (away (one c0)) 0x8000 = some 2 ∧
    (0x200000 : Word).extractLsb' 0 6 = 0 ∧ c0.canWrite (ops 10 9 none 0 0).a.x ∧ c0.rstat.extractLsb' 40 8 = 0 := by
  unfold Ctx.canWrite Ctx.canRelease; exact ⟨rfl, by decide +kernel⟩

theorem witness_MessageInstructions_arrival : ((one c0).slot 0).ctx = some c0 ∧ ((one c0).slot 0).inc = 0 ∧ ((one c0).slot 0).scrub = false ∧
    coreOk (one c0) (nameCore 0) = true ∧ ((one c0).slot 5).ctx = none ∧ (one c0).slotOf 1 = some 0 ∧
    ({ c0 with rstat := 0x10000000000 } : Ctx).rstat.extractLsb' 40 8 ≠ 0 := by decide +kernel

/-- A request of package 5, whose join number is 1. -/
def rFar (b : ReqBody) : Request := ⟨5, 1, 2, 0, 0, 1, [], b⟩
def sJoined : State := { sFar with fabric := { sFar.fabric with joins := [(5, 1)] } }

theorem witness_RequestsAndReplies : sJoined.fabric.fenced = false ∧ Tab.get? sJoined.fabric.joins 5 = some 1 ∧
    sJoined.fabric.lost.contains 5 = false ∧
    (5 : BitVec 16) ≠ sJoined.node ∧ sJoined.fabric.replies.find? (fun e => e.1 == 5 && e.2.1 == 2) = none ∧ isOrd 0x10000 = true ∧
    anyOwns sJoined 1 0x10000 8 = false ∧ mixed 0x50000 8 (viaOf sJoined 1 0x10000) sJoined.hist = false ∧ (rFar (.rld 0x10000)).cov = [] ∧
    (match resolve sJoined 1 (.ord (homeDie 0x10000)) 0x10000 8 .r, resolve sJoined 1 (.ord (homeDie 0x10000)) 0x10000 8 .w with
      | (.ok key, s1), (.ok key', s2) => key == 0x50000 && key' == 0x50000 && Memory.wf s1.mem && Memory.wf s2.mem && !pinned s2 key' 8
      | _, _ => false) = true ∧ heldByXu sJoined 1 0x10000 8 = false := by decide +kernel

theorem witness_RequestsAndReplies_again :
    let s : State := { sJoined with fabric := { sJoined.fabric with replies := [(5, 2, .ack)] } }
    s.fabric.replies.find? (fun e => e.1 == 5 && e.2.1 == 2) = some (5, 2, .ack) ∧ s.fabric.fenced = false ∧
    ({ s with fabric := { s.fabric with fenced := true } } : State).fabric.fenced = true := by decide +kernel

theorem witness_RequestsAndReplies_reply :
    let q : Sent := ⟨5, ⟨0, 1, 3, 0, 0, 1, [], .rld 0x10000⟩, .thread 1⟩
    let c : Ctx := { c0 with remote := some ⟨0, 10, 0x10000, false, false, false, true⟩, stage := 1, run := .away }
    let s : State := { one c with fabric := { (one c).fabric with sent := [q] } }
    s.fabric.sent.find? (fun q => q.dest == 5 && q.req.seq == 3) = some q ∧ s.slotOf 1 = some 0 ∧ (s.slot 0).ctx = some c ∧
    s.fabric.sent.find? (fun q => q.dest == 5 && q.req.seq == 4) = none := by decide +kernel

theorem witness_RequestsAndReplies_trap : ∃ s : State, s.Issues ({ c0 with rstat := 6 } : Ctx) := ⟨one { c0 with rstat := 6 }, rfl⟩

theorem witness_LostPackages : (5 : BitVec 16) ≠ sFar.node ∧ sFar.fabric.lost.contains 5 = false ∧ (0 : BitVec 16) = sFar.node ∧
    sFar.fabric.fenced = false ∧
    (6 : BitVec 16) ≠ sFar.node ∧ sFar.fabric.lost.contains 6 = false ∧ isPresent sFar 5 = true := by decide +kernel

theorem witness_Migration :
    let c : Ctx := { c0 with mig := some (16384 + 1), stage := 1, run := .away }
    let s := one c
    s.slotOf 1 = some 0 ∧ (s.slot 0).ctx = some c ∧ c.loads = [] ∧ c.stores = [] ∧ c.strong = none ∧ c.outer = [] ∧ s.halted (nameDie 0) = false ∧
    s.halted 1 = false ∧ migSlot s (s.regionOf c) 1 = some 4096 ∧ migSlot s { reg7 with rcb := reg7.rcb.set 9 0 } 1 = none ∧
    cLoad.loads ≠ [] ∧ liveCount s 7 (nameDie 4096) < (s.regionOf c).mslot ∧ c.cid = 1 ∧ coreOk s (nameCore 4096) = true ∧
    liveCount s 7 (nameDie 4096) - 1 < (s.regionOf c).mslot ∧
    coreOk (s.setCore (nameCore 4096) { s.core (nameCore 4096) with present := false }) (nameCore 4096) = false := by decide +kernel

/-! Page 63. A second context stands in slot 32; x20 names its thread, x21 none, x22 the issuer. -/

def cRules : Ctx := { c0 with x := (((c0.x.set 20 0x200000).set 21 0x210000).set 22 0).set 23 0x10000 }
def c2 : Ctx := { c0 with cid := 2 }
def sTwo : State := ({ mapped cRules with ids := 3 } : State).setSlot 32 { ctx := some c2 }

theorem witness_KillInstruction : sTwo.Issues cRules ∧ cRules.mayRule ∧ cRules.isFull (ops 10 20 none 0 0).b.x = true ∧
    cRules.canWrite (ops 10 20 none 0 0).a.x.val ∧
    ¬BadIdent sTwo (cRules.getX 20) ∧ identSlot sTwo (cRules.getX 20) = some 32 ∧ (sTwo.slot 32).ctx = some c2 ∧
    (sTwo.regionOf c2).asid = (sTwo.regionOf cRules).asid ∧ sTwo.findCtx 2 = some c2 ∧ ¬BadIdent sTwo (cRules.getX 21) ∧
    identSlot sTwo (cRules.getX 21) = none ∧ BadIdent sTwo 1 ∧ c2.saving = false ∧
    ({ c2 with save := some ⟨0x10000, 1, none, none, true, 160⟩ } : Ctx).saving = true := by
  unfold Ctx.mayRule Ctx.canWrite BadIdent; exact ⟨rfl, by decide +kernel⟩

/-- After the kill of another thread the issuer still stands; after its own it does not. -/
theorem witness_KillInstruction_ends :
    let t := kill sTwo 2 { reason := 3, aux := 0, epc := 0, lpc := 0 }
    let t' := kill sTwo 1 { reason := 3, aux := 0, epc := 0, lpc := 0 }
    (t.slot t.cur).ctx = some cRules ∧ (t'.slot t'.cur).ctx = none := by decide +kernel

theorem witness_ParkInstruction : cRules.answer = none ∧ ({ cRules with answer := some 5 } : Ctx).answer = some 5 ∧
    cRules.isFull (ops 10 20 (some 23) 0 0).cx = true ∧
    (cRules.getX 23).toNat % 4096 = 0 ∧ identSlot sTwo (cRules.getX 22) = some sTwo.cur ∧ 32 ≠ sTwo.cur ∧ c2.save = none ∧
    devKey sTwo 1 0x10000 true = some 0x50000 ∧ devKey sTwo 1 0x10000 false = some 0x50000 ∧ Mem.num sTwo.mem 0x50000 8 = 0 ∧
    sTwo.slotOf 2 = some 32 ∧ Memory.wf sTwo.mem = true ∧ devKey (touchHead sTwo 1 0x20000000) 1 0x20000000 true = none ∧ c2.cid ≠ cRules.cid ∧
    Mem.num (withWords cRules [1]).mem 0x50000 8 ≠ 0 := by decide +kernel

/-- 16 bytes of the core's scratchpad, its edges, and the lane slices. -/
def cScrubs : Ctx := { cRules with x := (cRules.x.set 24 0x00FF000000000000).set 25 16 }

theorem witness_ScrubInstruction : (one cScrubs).Issues cScrubs ∧ cScrubs.mayRule ∧ cScrubs.isFull (ops 0 24 (some 25) 0 0).b.x = true ∧
    (cScrubs.getX 24).toNat % 8 = 0 ∧
    ((cScrubs.getX 25).extractLsb' 0 40).toNat % 8 = 0 ∧ (cScrubs.getX 25).extractLsb' 40 23 = 0 ∧ (cScrubs.getX 25).getLsbD 63 = false ∧
    scrubRange (one cScrubs).myCore 0x00FF000000000000 16 = .inr [2 ^ 42, 2 ^ 42 + 8] ∧
    (cScrubs.strong = none ∧ ([2 ^ 42, 2 ^ 42 + 8].any (fun k => pinned (one cScrubs) k 8 || cScrubs.storesBefore (cScrubs.seq + 1) k 8 ||
      cScrubs.loadsBefore (cScrubs.seq + 1) k 8)) = false) ∧ ({ cScrubs with x := cScrubs.x.set 25 (2 ^ 63 + 8) } : Ctx).getX 25 = 2 ^ 63 + 8 ∧
      scrubRange 0 0x10000 16 = .inl 0x10000 ∧
    (0x00FF00000003FFF8 : Word).extractLsb' 18 46 = (0xFF : BitVec 46) <<< 30 ∧ ((0x00FF00000003FFF8 : Word).extractLsb' 0 18).toNat + 8 ≤ 2 ^ 18 ∧
    ([2 ^ 42].any (fun k => pinned { one cScrubs with pins := [(7, 1, 2 ^ 42)] } k 8)) = true ∧ (2 ^ 63 : Word).extractLsb' 40 23 = 0 ∧
    (2 ^ 63 : Word).getLsbD 63 = true ∧ Memory.wf (one cScrubs).mem = true := by
  unfold Ctx.mayRule; exact ⟨rfl, by decide +kernel⟩

theorem witness_Invalidations : (one c0).Issues c0 ∧ c0.isFull (ops 0 20 (some 21) 0 0).cx = true ∧
    (let c : Ctx := { c0 with stage := 1, run := .parked, got := [(12, (1 : BitVec 16).setWidth 64), (11, 0x10000)] }
     (one c).slotOf 1 = some 0 ∧ ((one c).slot 0).ctx = some c ∧ c.got = [(12, (1 : BitVec 16).setWidth 64), (11, 0x10000)]) := by
  exact ⟨rfl, by decide +kernel⟩

theorem witness_EventWaits : c0.evt = 0 ∧ ({ c0 with evt := 4 } : Ctx).evt ≠ 0 ∧ (c0.getX 0).toNat = 0 ∧ (c0.getX 20).toNat ≠ 0 ∧ c0.wfeStart = none ∧
    (let c : Ctx := { c0 with wfeStart := some 160 }
     ((one c).slot 0).ctx = some c ∧ (∀ n, c.wfeStart = some n → n ≤ (one c).clock)) := by
  refine ⟨rfl, by decide, rfl, by decide, rfl, rfl, fun n h => ?_⟩
  cases h; decide

theorem witness_SlotsetInstruction : c0.mayRule ∧ c0.getX 48 &&& ~~~(0x33F : Word) = 0 ∧ (0x40 : Word) &&& ~~~(0x33F : Word) ≠ 0 ∧
    nameCore 15 = (one c0).myCore ∧
    nameCore 16 ≠ (one c0).myCore ∧ (0x8000 : Word).getLsbD (nameSlot 15) = true := by
  unfold Ctx.mayRule; decide +kernel

/-- Context 2 saved at 0x10000 with STATE 2, its slot free. -/
def mSaved : List Host.Cell :=
  Mem.writeN (Mem.writeN (mapped cRules).mem 0x50000 (toBytes 8 (headerWord c2 32 2).toNat)) 0x50C78 (toBytes 8 2)
def vSaved : Saved := ⟨1, 0x10000, 2, 32, 160, 1, Mem.readN mSaved 0x50000 4096, c2⟩
def sSaved : State := { mapped cRules with saved := [vSaved], mem := mSaved, ids := 3 }
def sRead : State := releaseMark sSaved (.thread 1) ⟨2, some 0⟩

theorem saved_found : findImage sRead 1 0x10000 = .inr (vSaved, 0x50000, applyImage c2 0 vSaved.image) := by
  have h : readImg sRead 1 0x10000 = some (0x50000, vSaved.image) := by
    have h1 : devKey sRead 1 0x10000 false = some 0x50000 := by decide +kernel
    have h2 : devKey sRead 1 0x10000 true = some 0x50000 := by decide +kernel
    have h3 : poisoned sRead 0x50000 4096 = false := by decide +kernel
    simp only [readImg, h1, h2, h3]
    rfl
  have h0 : imgWord vSaved.image 0 ≠ 0 := by decide +kernel
  have h1 : ¬(bits (imgWord vSaved.image 0) 15 8 = 0 ∨ bits (imgWord vSaved.image 0) 15 8 = 3) := by decide +kernel
  have h2 : imgWord vSaved.image 0xC78 = 2 := by decide +kernel
  have h3 : sRead.saved = [vSaved] := rfl
  have h4 : imageCtx sRead vSaved vSaved.image = some (applyImage c2 sRead.plfloor.toNat vSaved.image) := if_pos rfl
  have h5 : sRead.plfloor.toNat = 0 := rfl
  have h6 : ((1 : BitVec 16) == 1 && (2 : Word) == 2) = true := by decide
  have h7 : vSaved.asid = 1 ∧ wd vSaved.ctx.cid = 2 := ⟨rfl, rfl⟩
  simp only [findImage, h, h0, h1, h2, h3, if_false, List.find?_cons, h7.1, h7.2, h6, h4, h5]

theorem saved_slot : resumeSlots sRead vSaved (applyImage c2 0 vSaved.image) ≠ [] := by
  have h : (sRead.regionOf (applyImage c2 0 vSaved.image)) = reg7 := by decide +kernel
  have h1 : tiesAllow (applyImage c2 0 vSaved.image) vSaved.name 16 = true := by decide +kernel
  have h2 : slotFree sRead 16 = true ∧ (sRead.slot 16).owner.toNat = reg7.shq := by decide +kernel
  refine List.ne_nil_of_mem (a := 16) ?_
  simp only [resumeSlots, h]
  refine List.mem_filter.2 ⟨List.mem_map.2 ⟨16, List.mem_range.2 (by decide), by decide +kernel⟩, ?_⟩
  simp only [h1, h2.1, h2.2, beq_self_eq_true, Bool.and_self]

theorem witness_ResumeInstruction : sSaved.Issues cRules ∧ (cRules.getX 23).toNat % 4096 = 0 ∧ cRules.canRelease ∧ c2.query = none ∧
    anyOwns sSaved 1 0x10000 4096 = false ∧ anyOwns { sSaved with copies := [kWord] } 1 0x10000 4096 = true ∧
    readImg (touchImg (mapped cRules) 1 0x20000000) 1 0x20000000 = none ∧ reg7.still = false ∧
    ¬reg7.mslot ≤ liveCount sSaved reg7.id sSaved.myDie ∧ ({ reg7 with still := true } : Region).still = true ∧
    ({ reg7 with rcb := reg7.rcb.set 9 0xFFFF000000000001 } : Region).mslot ≤ liveCount sSaved reg7.id sSaved.myDie ∧
    slotFree (sSaved.setSlot 16 { sSaved.slot 16 with held := true }) 16 = false ∧
    cRules.getX 1 = 1 ∧ cRules.getX 0 = 0 ∧ 2 ≤ (cRules.getX 2).toNat := by
  unfold Ctx.canRelease; exact ⟨rfl, by decide +kernel⟩

/-- The kill of a saved context finds it where it is kept. -/
theorem witness_ResumeInstruction_kill : sRead.findCtx vSaved.ctx.cid = some c2 := by decide +kernel

/-! The same context saved with STATE 1, which a free slot takes up. -/

def mWaits : List Host.Cell :=
  Mem.writeN (Mem.writeN (mapped c0).mem 0x50000 (toBytes 8 (headerWord c2 32 1).toNat)) 0x50C78 (toBytes 8 2)
def vWaits : Saved := ⟨1, 0x10000, 1, 32, 160, 1, Mem.readN mWaits 0x50000 4096, c2⟩
def sWaits : State := { mapped c0 with saved := [vWaits], mem := mWaits, ids := 3 }

theorem witness_TaskDispatch_image : (workFor sWaits 16).map (fun w => (w.1.id, match w.2 with
      | .image v => v.order
      | _ => 0)) = some (7, 1) ∧ readImg sWaits vWaits.asid vWaits.img = some (0x50000, vWaits.image) ∧
    imageCtx sWaits vWaits vWaits.image = some (applyImage c2 sWaits.plfloor.toNat vWaits.image) := by
  have h1 : devKey sWaits 1 0x10000 false = some 0x50000 := by decide +kernel
  have h2 : devKey sWaits 1 0x10000 true = some 0x50000 := by decide +kernel
  have h3 : poisoned sWaits 0x50000 4096 = false := by decide +kernel
  refine ⟨by decide +kernel, ?_, if_pos rfl⟩
  show readImg sWaits 1 0x10000 = _
  simp only [readImg, h1, h2, h3]
  rfl

/-! The end of a thread, faults of weak accesses, and waits that end. -/

def sTask (k : Task) : State := { one c0 with tasks := [(9, k)] }

/-- A task with a POST to its own element on its way. -/
def sPosts : State := { sTask { tOne with sweep := some 3 } with sweeps := [(3, wOne)], agenda := [.postArrival ⟨gKey, 1, 0, 7, 0⟩] }

theorem witness_ThreadEnd : (sTask tOne).Issues c0 ∧ (c0.block.feed c0.feed).bad = false ∧ ownPosts (sTask tOne) c0.task = false ∧
    (sTask tOne).ended = [] ∧ c0.sfaults = [] ∧ tOne.out = [] ∧ Tab.get? (sTask tOne).tasks c0.task = some tOne ∧ tOne.members = 1 ∧
    (sTask tOne).copies.any (fun e => e.task == c0.task) = false ∧ c0.canRelease ∧ 2 ≤ ({ tOne with members := 2 } : Task).members ∧
    ({ sTask tOne with copies := [kWord] } : State).copies.any (fun e => e.task == c0.task) = true ∧ cLoad.sfaults = [] ∧ cLoad.quiet = false ∧
    ownPosts sPosts c0.task = true := by
  unfold Ctx.canRelease; exact ⟨rfl, by decide +kernel⟩

theorem witness_YieldInstruction : (ops 0 0 none 0 0).imm = 0 ∧ (ops 0 0 none 0 3).imm ≠ 0 ∧
    (let c : Ctx := { c0 with yieldTo := some 208, stage := 1, run := .parked }
     (one c).slotOf 1 = some 0 ∧ ((one c).slot 0).ctx = some c ∧ c.yieldTo = some 208) := by decide +kernel

/-- A block that has its signature, one that misses it, and the three modes. -/
def cBlk (mode : Word) (sig : BitVec 11) : Ctx := { c0 with plumb := mode, blk := ⟨5, sig, true⟩ }

theorem witness_BlockSignature : (one (cBlk 2 6)).Issues (cBlk 2 6) ∧ (cBlk 2 6).blk.valid = true ∧ (cBlk 2 6).blk.c ≠ (cBlk 2 6).blk.e ∧
    (cBlk 2 6).plumb.extractLsb' 0 2 = 2 ∧ (cBlk 1 6).plumb.extractLsb' 0 2 = 1 ∧ (cBlk 0 6).plumb.extractLsb' 0 2 = 0 ∧
    (cBlk 2 5).blk.c = (cBlk 2 5).blk.e ∧ ((cBlk 2 6).blk.feed (cBlk 2 6).feed).bad = true ∧ (cBlk 2 6).block = (cBlk 2 6).blk ∧
    (cBlk 2 6).sigMiss = false ∧ (cBlk 1 6).loops = [] := by
  exact ⟨rfl, by decide +kernel⟩

theorem witness_LoadFaults : (one cLoad).findCtx 1 = some cLoad ∧
    cLoad.loads.find? (·.id == 5) = some ⟨5, 2, 0x1000, 8, [(0, 0x10000, none)], .x 10 false, {}⟩ ∧
    (match resolve (one cLoad) ((one cLoad).regionOf cLoad).asid (.ord (homeDie 0x10000)) 0x10000 8 .r with
      | (.error (.poison _), _) => false
      | (.error _, _) => true
      | _ => false) = true ∧
    (match resolve { mapped cLoad with poison := [0x50000 / 8] } 1 (.ord (homeDie 0x10000)) 0x10000 8 .r with
      | (.error (.poison _), _) => true
      | _ => false) = true ∧
    cLoad.lfaults.any (fun f => f.seq == 2) = false ∧ (LoadDst.x 10 false) ≠ .operand ∧ c0.lfaults = [] := by decide +kernel

theorem witness_LoadFaults_taken :
    let f : LFault := ⟨2, 0x1000, 0x10000, false, .x 10 false, {}⟩
    let c : Ctx := { c0 with lfaults := [f] }
    (one c).slotOf 1 = some 0 ∧ ((one c).slot 0).ctx = some c ∧ ([] : List LFault).length < 256 ∧
    CanTrap (({ one c with cur := 0 } : State).setCtx c0) c0 { cause := 0x06, val := 0x10000, epc := 0x1000, lpc := some 0x1000 } := by
  unfold CanTrap; decide +kernel

/-- A store whose page is not mapped, one whose page is, and one to a granule in error. -/
theorem witness_StoreFaults :
    let p : PStore := ⟨6, 3, [(0x10008, none, [1, 2, 3, 4, 5, 6, 7, 8])], none⟩
    let s := one cStore
    s.findCtx 1 = some cStore ∧ cStore.stores.find? (·.id == 6) = some p ∧ (p.elems ≠ [] ∨ p.fault = none) ∧
    ({ p with elems := [], fault := some (0x10008, false) } : PStore).fault = some (0x10008, false) ∧
    cStore.storesBefore 3 (locOf 0x10008 none) 8 = false ∧ cStore.loadsBefore 3 (locOf 0x10008 none) 8 = false ∧
    cStore.strongBefore 3 (locOf 0x10008 none) 8 = false ∧ recalled s 1 3 (s.regionOf cStore).asid 0x10008 8 = false ∧
    (match resolve s 1 (.ord (homeDie 0x10008)) 0x10008 8 .w, resolve (mapped cStore) 1 (.ord (homeDie 0x10008)) 0x10008 8 .w with
      | (.error (.poison _), _), _ => false
      | (.error _, _), (.ok key, s1) => key == 0x50008 && !pinned s1 key 8 && Memory.wf s1.mem
      | _, _ => false) = true ∧ pinned { mapped cStore with pins := [(7, 1, 0x50000)] } 0x50008 8 = true ∧
    (match resolve { mapped cStore with poison := [0x50008 / 8] } 1 (.ord (homeDie 0x10009)) 0x10009 1 .w with
      | (.error (.poison _), _) => true
      | _ => false) = true := by decide +kernel

/-- A wait for register 5 since clock 100 under a limit of 256 clocks, at clock 356 and before it. -/
def cLimit : Ctx := { c0 with run := .parked, wlim := 1, wait := some ⟨.reg, 5, 100⟩ }

theorem witness_WaitLimits :
    let s : State := { one cLimit with clock := 356 }
    s.slotOf 1 = some 0 ∧ (s.slot 0).ctx = some cLimit ∧ s.host.dhalt = 0 ∧ (100 + (cLimit.wlim.extractLsb' 0 32).toNat * 256 ≤ s.clock) ∧
    CanTrap ({ s with cur := 0 } : State) cLimit { cause := 0x09, val := 5, epc := cLimit.pc } ∧
    (one cLimit).clock < 100 + (cLimit.wlim.extractLsb' 0 32).toNat * 256 ∧ (c0.wlim.extractLsb' 0 32).toNat = 0 := by
  unfold CanTrap; decide +kernel

/-- A stack at 0x20000 of region 7, whose page pool has one frame: its words stand at 0x10000, its list at 0x10100. -/
def sPool (left : Word) : State :=
  { withWords c0 [0x10040, left, 0, 0, 0, 0, 0, 0, 0x60000] with regions := [(7, { reg7 with rcb := ((reg7.rcb.set 14 0x20000).set 15 0x100010000).set 16 0x10000 })] }

theorem witness_PageGrowth : walk (sPool 1) 0 1 0x20000 = .none 4 ∧ (growthRegion (sPool 1) 1 0x20000).map (·.id) = some 7 ∧
    (asidRoot (sPool 1) 0 1).isSome = true ∧
    devKey (sPool 1) 1 (0x10000 + BitVec.ofNat 64 (64 * 0 + 8)) true = some 0x50008 ∧
    devKey (sPool 1) 1 (0x10000 + BitVec.ofNat 64 (64 * 0 + 8)) false = some 0x50008 ∧ Mem.num (sPool 0).mem 0x50008 8 = 0 ∧
    (match growthRegion (sPool 1) 1 0x20000 with
      | some r => (match takeFrame (sPool 1) r 0 with
        | (.ok f, s1) => f == 0x60000 && Mem.num s1.mem 0x50008 8 == 0
        | _ => false)
      | none => false) = true ∧ Memory.wf (sPool 1).mem = true ∧ growthRegion (one c0) 1 0x20000 = none ∧ walk (sPool 1) 0 1 0x10000 ≠ .none 4 := by
  decide +kernel

/-! The links of the Scaffold ports. -/

/-- Port 0 of the package at node 0, up, with a staged and an active key. -/
def pUp : Port := { link := .up, agen := 1, sgen := 2, arm := true, peer := true, txc := 5, rxc := 5, keyWords := [1, 2, 3, 4] }
def sPort (q : Port) : State := { one c0 with ports := (one c0).ports.set 0 q }

theorem witness_FlitSlots : (sPort pUp).port 0 = pUp ∧ pUp.link = .up ∧ ((one c0).port 0).link ≠ .up ∧
    (let f : Flit := ⟨true, 0, 3, true, Config.channel 4, 0, .keySwitch 2⟩
     f.intact = true ∧ f.rseq = pUp.rnext ∧ f.payload ≠ .idle ∧ pUp.arm = true ∧ pUp.sgen = 2 ∧ pUp.sgen ≠ 3 ∧ f.nak = true ∧ ¬64 ≤ pUp.naks + 1 ∧
      64 ≤ ({ pUp with naks := 63 } : Port).naks + 1) ∧
    (let w : Wire := ⟨0, 0, .control true⟩
     let q : Port := { pUp with replay := [(2, w)] ++ (3, w) :: [(4, w)] }
     q.queue = [] ∧ ∀ e ∈ [((2, w) : BitVec 12 × Wire)], e.1 ≠ 3) ∧ (5 : BitVec 12) ≠ pUp.rnext ∧ ((5 : BitVec 12) - pUp.rnext).toNat < 256 ∧
    pUp.early ≠ some 5 ∧ pUp.redo = false ∧ ({ pUp with redo := true } : Port).redo = true ∧ (sPort pUp).fabric.fenced = false ∧
    ({ pUp with arm := false } : Port).agen = 1 := by decide +kernel

theorem witness_Replays : pUp.link = .up ∧ pUp.hold = false ∧ pUp.txc ≤ 2 ^ 48 - 2 ∧ ({ pUp with hold := true } : Port).hold = true := by decide

/-- A port whose link is down, with a neighbour, at a counter its peer states. -/
def pDown : Port := { pUp with link := .down }

/-- The state of a port whose die has set up its memory. -/
def sTrain (q : Port) : State := { sPort q with host := { (sPort q).host with booted := #v[2, 2, 2, 2] } }

theorem witness_LinkStates : neighbour (sPort pDown) 0 = some 1 ∧ pDown.down = false ∧ pDown.link ≠ .up ∧ pDown.agen ≠ 0 ∧
    (4 : BitVec 48).toNat ≤ pDown.rxc ∧
    (2 ≤ (sTrain pDown).host.booted.getD (portDie 0) 0) ∧ ¬(2 ≤ (sPort pDown).host.booted.getD (portDie 0) 0) ∧ (5 : BitVec 48).toNat ≤ pDown.rxc ∧
    ({ pDown with met := true } : Port).txc < 2 ^ 48 - 2 ∧ pDown.txc ≤ 2 ^ 48 - 2 ∧
    pDown.rxc < (6 : BitVec 48).toNat ∧ inExtents (sPort pDown) (sPort pDown).node = true ∧ pDown.queue = [] ∧ (sPort pDown).fabric.transit = [] ∧
    ({ pDown with link := .retraining } : Port).link = .retraining ∧ neighbour (sPort pDown) 1 = none ∧ pDown.rxGen = 0 ∧
    (4 : BitVec 48) ≠ 0 ∧ pDown.rxc ≠ 0 ∧ (pDown.arm = true ∧ pDown.sgen = 2) ∧ pDown.sgen ≠ 1 ∧ pDown.agen = 1 ∧ pDown.agen ≠ 3 ∧ pDown.sgen ≠ 3 ∧
    ({ pDown with agen := 0, arm := false } : Port).agen = 0 := by decide +kernel

theorem witness_LinkKeys : pUp.keyWords = [1, 2, 3, 4] ∧ pUp.arm = true ∧ pUp.peer = true ∧ pUp.link = .up ∧ pUp.replay.length < 256 ∧
    pUp.queue = [] ∧ (sPort pUp).fabric.transit = [] ∧
    ({ pUp with hold := true, holdStart := 7 } : Port).holdStart = 7 ∧
    ({ pUp with hold := true, holdStart := 7 } : Port).hold = true := by decide +kernel

/-! Registers written as steps of their own, and the host. -/

theorem witness_ContextRegisterWrites : (one c0).Issues c0 ∧ c0.vtypeFree ∧ c0.level = .sup ∧ u0.level = .user := by
  unfold Ctx.vtypeFree; exact ⟨rfl, by decide +kernel⟩

theorem witness_StewardRegisterWrites : (one c0).fabric.joined = false ∧ (away (one c0)).fabric.joined = true ∧ portDie 1 = (0 : Fin 4).val ∧
    portDie 0 ≠ (1 : Fin 4).val ∧ (2 : Word).getLsbD 1 = true ∧ (0 : Word).getLsbD 1 = false ∧ pUp.txc < 2 ^ 48 := by decide +kernel

/-- The register block owned by a master, booted, with a ring of 16 entries at 0x1000. -/
def hOwn (o : BitVec 2) : HostRegs :=
  { own := o, bootst := Vector.replicate 4 1, eqbase := 0x1000, eqsize := 16, lqbase := 0x2000, lqsize := 16, dbgen := true }
def sHost (h : HostRegs) : State := { mapped c0 with host := h }

theorem witness_Ownership : (sHost (hOwn 1)).host.own = 1 ∧ (sHost (hOwn 0)).host.own = 0 ∧ (∀ d : Fin 4, (sHost (hOwn 0)).host.bootst[d] = 1) ∧
    ({ hOwn 2 with next := 1 } : HostRegs).next = 1 ∧ ({ hOwn 2 with next := 1 } : HostRegs).own ≠ 1 ∧ (0x101 : Word).extractLsb' 8 2 ≠ 3 ∧
    (0x300 : Word).extractLsb' 8 2 = 3 ∧ (1 : Word).extractLsb' 0 2 = 1 ∧
    ({ hOwn 2 with hostAt := 161 } : HostRegs).hostAt = (one c0).clock + 1 ∧ (hOwn 2).hostAt ≠ (one c0).clock + 1 ∧ (sHost (hOwn 1)).undoomed := by
  unfold State.undoomed; refine ⟨by decide +kernel, by decide +kernel, by decide +kernel, by decide +kernel, by decide +kernel, by decide +kernel, by decide +kernel, by decide, by decide,
    by decide, fun e h c hc => ?_⟩
  rw [show (sHost (hOwn 1)).slots = [(0, { ctx := some c0 })] by decide +kernel] at h
  cases List.mem_singleton.1 h; cases hc; rfl

theorem witness_HostRegisters : (hOwn 1).own = 1 ∧ (hOwn 2).own ≠ 1 ∧ (1 : Word).extractLsb' 0 2 ≠ 0 ∧
    (16 : Word).extractLsb' 0 32 = BitVec.ofNat 32 (2 ^ 4) ∧
    (∀ k, 4 ≤ k → k ≤ 16 → (17 : Word).extractLsb' 0 32 ≠ BitVec.ofNat 32 (2 ^ k)) ∧ (hOwn 1).dbgen = true ∧ (hOwn 1).mbox = [] ∧
    16 ≤ ({ hOwn 1 with mbox := List.replicate 16 0 } : HostRegs).mbox.length ∧ ({ hOwn 1 with mbox := [0] } : HostRegs).mbox.length < 16 ∧
    cmdStep 1 = some .measure ∧ cmdStep 0 = none ∧ (0x40 : Word).toNat % 64 = 0 ∧ (hOwn 1).lqhead ≠ 3 ∧ (sHost (hOwn 1)).launches = [] ∧
    (sHost (hOwn 1)).queueIdle := by
  refine ⟨by decide, by decide, by decide, by decide, fun k h4 h16 => ?_, by decide, by decide, by decide, by decide, by decide, by decide, by decide,
    by decide, rfl, fun e h => nomatch h⟩
  have h : ∀ k < 17, (17 : Word).extractLsb' 0 32 ≠ BitVec.ofNat 32 (2 ^ k) ∨ k < 4 := by decide
  exact (h k (by omega)).resolve_right (by omega)

/-- A write of LQBASE by SMBus at the package's own address, whose PEC is right; at another address, or with the PEC's bits
turned over, it is not for the package or not right. The strap pins give the address, whatever they are. -/
theorem witness_SmbusPort :
    let b : SmbusBytes := ⟨smbusAddr, 0x40, [8, 0, 0, 0x10, 0, 0, 0, 0, 0, 0], 0⟩
    let r : SmbusBytes := { b with pec := smbusPec (smbusSent b) }
    (r.addr = smbusAddr ∧ r.pec = smbusPec (smbusSent r)) ∧ ¬({ r with pec := ~~~r.pec } : SmbusBytes).pec = r.pec ∧
    ({ b with addr := ~~~smbusAddr } : SmbusBytes).addr ≠ smbusAddr ∧ r.cmd = 0x40 ∧
    ({ b with cmd := 0x41, bytes := [8, 0] } : SmbusBytes).bytes = [8, 0] ∧
    r.bytes = 8 :: 0 :: [0, 0x10, 0, 0, 0, 0, 0, 0] ∧ leBytes 8 0x1000 = [0, 0x10, 0, 0, 0, 0, 0, 0] ∧ (0x68 + 256 * 0) % 8 = 0 ∧
    0x70 + 256 * 0 > 0x068 := by
  intro b r
  have h : smbusSent r = smbusSent b := rfl
  refine ⟨⟨rfl, by rw [h]⟩, ?_, ?_, rfl, rfl, rfl, by decide +kernel, by decide, by decide⟩
  · exact (show ∀ x : Byte, ¬ ~~~x = x by decide) r.pec
  · exact (show ∀ x : BitVec 7, ~~~x ≠ x by decide) _

/-- One entry in the queue at 0x2000, whose ASID has tables. -/
def sQue (ws : List Word) : State :=
  { sHost { hOwn 1 with lqtail := 1 } with hostMem := Mem.writeN [] 0x2000 (ws.flatMap (fun w => toBytes 8 w.toNat)) }

theorem witness_LaunchQueue : (sQue [0x10000, 1]).host.lqhead ≠ (sQue []).host.lqtail ∧ (sQue []).host.lqsize ≠ 0 ∧
    (∀ d : Fin 4, (sQue []).host.bootst[d] = 1) ∧
    (sQue []).launches = [] ∧ Mem.num (sQue [0x10000, 1]).hostMem 0x2000 8 = 0x10000 ∧ Mem.num (sQue [0x10000, 1]).hostMem 0x2008 8 = 1 ∧
    Mem.num (sQue [0x10000, 1]).hostMem 0x2018 8 = 0 ∧ asidRoot (sQue [0x10000, 1]) 0 1 ≠ none ∧ Mem.num (sQue [0x10080]).hostMem 0x2000 8 % 256 ≠ 0 ∧
    Memory.wf (sQue [0x10080]).hostMem = true := by decide +kernel

theorem witness_HostAccesses :
    let s := sHost (hOwn 1)
    (∀ need ∈ [Need.r, .w], (match (hostKeys 1 need (hostPieces 5 0x10004 4) s).1, (hostKeys 1 need (hostPieces 5 0x20000004 4) s).1 with
      | .ok _, .error (.poison _) => false
      | .ok l, .error _ => l == [(0x10004, 0x50004, 4)]
      | _, _ => false) = true) ∧
    hostPieces 13 0x10004 12 = [(0x10004, 4), (0x10008, 8)] ∧ (0x10004 : Word).toNat % 8 + 4 ≤ 8 ∧ anyOwns s 1 0x10004 4 = false ∧
    poisoned s 0x50004 4 = false ∧ mixed 0x50004 4 (viaOf s 1 0x10004) s.hist = false ∧ poisoned { s with poison := [0xA000] } 0x50004 4 = true ∧
    pinned s 0x50004 4 = false ∧ pinned { s with pins := [(7, 1, 0x50000)] } 0x50004 4 = true ∧ storePoisoned s 0x50004 4 = false ∧
    storePoisoned { s with poison := [0xA000] } 0x50004 4 = true := by decide +kernel

theorem witness_HostAccesses_owned : anyOwns sWord 1 0x10080 8 = true := by decide +kernel

theorem witness_EventRing :
    let e : Event := { type := 9, die := 0 }
    let s := sHost (hOwn 1)
    s.host.eqtail - s.host.eqhead ≠ BitVec.ofNat 32 s.host.eqsize ∧ s.host.eqsize < 2 ^ 32 ∧ (s.die 0).held = [] ∧ Memory.wf s.hostMem = true ∧
    eqFull s.host = false ∧ eqFull ({ hOwn 1 with eqtail := 16 } : HostRegs) = true ∧
    (let s1 : State := { s with dies := s.dies.set 0 { held := [e] } }
     (s1.die (0 : Fin 4)).held = [e] ∧ ∀ k : Fin 4, k ≠ 0 → (s1.die k).held = []) := by decide +kernel

/-- Three events held at two dies, the oldest at die 1, with room for two. -/
theorem witness_EventRing_order :
    let e (n die : Nat) : Event := { type := 9, die := die, seq := n }
    let s : State := { sHost { hOwn 1 with eqtail := 14 } with dies := ((sHost (hOwn 1)).dies.set 0 { held := [e 1 0, e 2 0] }).set 1 { held := [e 0 1] } }
    let all := [e 0 1, e 1 0, e 2 0]
    s.host.eqsize = 2 ^ 4 ∧ (s.host.eqtail - s.host.eqhead).toNat + 2 = s.host.eqsize ∧
    all.Perm ((List.finRange 4).flatMap (fun d => (s.die d.val).held)) ∧ all.Pairwise (fun x y => x.seq < y.seq) ∧
    (∀ d : Fin 4, (s.die d).held.Pairwise (fun x y => x.seq < y.seq)) ∧ Memory.wf s.hostMem = true := by decide +kernel

/-! The seal engine. What the free functions of Config answer cannot be shown here; each clause that asks for one of their answers
has its other premises met. A command stands at 0x40 of host memory. -/

def sCmd (ws : List Word) : State :=
  { withWords c0 [1, 0x10040, 8, 0, 5, 6] with
    hostMem := Mem.writeN [] 0x40 (ws.flatMap (fun w => toBytes 8 w.toNat)), host := { hOwn 1 with mbox := [0x40] }
    lineage := { lslots := (Vector.replicate 32 none).set 3 (some ⟨9, 1, 7, 0⟩), meas := [(1, 7)] } }

/-- The parts of a command: the word and whether its reserved fields are 0. -/
def isCmd (s : State) (op : Nat) (good : Bool) : Bool :=
  decide (s.host.mbox = [0x40]) && Memory.wf s.hostMem && decide ((s.cmdW 0x40 0).extractLsb' 0 8 = BitVec.ofNat 8 op) &&
    (good == (decide ((s.cmdW 0x40 0).extractLsb' 48 15 = 0) && decide ((s.cmdW 0x40 0).extractLsb' 32 8 = 0) && decide (s.cmdW 0x40 7 = 0) &&
      decide (((s.cmdW 0x40 0).extractLsb' 8 8).toNat < 32))) && !asidOwned s ((s.cmdW 0x40 0).extractLsb' 16 16)

theorem isCmd_is {s : State} {op : Nat} {good : Bool} (h : isCmd s op good = true) : s.commandIs 0x40 op good := by
  simp only [isCmd, Bool.and_eq_true, decide_eq_true_eq, beq_iff_eq, Bool.not_eq_true'] at h
  exact ⟨⟨h.1.1.1.1, h.1.1.1.2, h.1.1.2, by rw [h.1.2]; simp [and_assoc]⟩, h.2⟩

/-- MEASURE of 8 bytes at 0x10040 with the RCB at 0x10100; slot 31 is the last that a command may name. -/
def wMeasure : List Word := [0x10001, 0x10000, 0x10100, 0x10400]

theorem witness_SealCommands : (sCmd wMeasure).commandIs 0x40 1 true ∧ (sCmd [0x12001]).commandIs 0x40 1 false ∧
    (sCmd [0x10302, 0x10020]).commandIs 0x40 2 true ∧
    (sCmd [0x10306]).commandIs 0x40 6 true ∧ (sCmd [0x11F07, 0x10400]).commandIs 0x40 7 true :=
  ⟨isCmd_is (by decide +kernel), isCmd_is (by decide +kernel), isCmd_is (by decide +kernel), isCmd_is (by decide +kernel), isCmd_is (by decide +kernel)⟩

theorem witness_SealCommands_cases : (measInput (dropMeas (sCmd wMeasure)) 1 0x10000 0x10100).isSome = true ∧
    measInput (dropMeas (sCmd wMeasure)) 1 0x10008 0x10100 = none ∧
    (match devWords (dropMeas (sCmd wMeasure)) 1 2 0x10020, devWords (dropMeas (sCmd wMeasure)) 1 2 0x20000000 with
      | .ok l, .error _ => l == [5, 6]
      | _, _ => false) = true ∧ lslot (dropMeas (sCmd [])) 4 = none ∧ measOf (dropMeas (sCmd [])) 1 = some 7 ∧ lslot (sCmd []) 3 = some ⟨9, 1, 7, 0⟩ ∧
    measOf (dropMeas (sCmd [])) 2 = none ∧ (∀ l, lslot (sCmd []) 4 = some l → l.asid ≠ 1) := by
  refine ⟨by decide +kernel, by decide +kernel, by decide +kernel, by decide +kernel, by decide +kernel, by decide +kernel, by decide +kernel, fun l h => ?_⟩
  rw [show lslot (sCmd []) 4 = none by decide +kernel] at h; cases h

/-- SEAL of the tree of region 7: ranges at 0x10000, one certificate at 0x12000 named from 0x10100, and the image at 0x10800. -/
def sSeal : State :=
  let m := Mem.writeN (Mem.writeN (sCmd []).mem 0x50100 (toBytes 8 1)) 0x50108 (toBytes 8 0x12000)
  { sCmd [0x10303, 0x10000, 0x10000, 0x10100, 0x10800, 0xF000] with regions := [(7, { reg7 with rcbva := 0x10000 })], mem := m }

theorem witness_SealChecks : sSeal.commandIs 0x40 3 true ∧ sSeal.lineage.job = none ∧
    countedList (dropMeas sSeal) 1 0x10000 0 64 2 = some [0x10040, 8] ∧
    countedList (dropMeas sSeal) 1 0x10100 1 8 1 = some [0x12000] ∧ rangeKey (dropMeas sSeal) false 1 0x12000 false = some 0x52000 ∧
    peerCerts (dropMeas sSeal) 1 0x10060 = none ∧ bytesAt (dropMeas sSeal) true 1 0x10040 8 ≠ none ∧
    bytesAt (dropMeas sSeal) true 1 0x20000000 8 = none ∧
    canWrite (dropMeas sSeal) 1 0x10800 8 = true ∧ canWrite (dropMeas sSeal) 1 0x20000000 8 = false ∧
    asidOwned { sSeal with copies := [kWord] } 1 = true ∧ lslot sSeal 3 = some ⟨9, 1, 7, 0⟩ ∧
    measOf (dropMeas sSeal) 1 = some 7 ∧ (0 : BitVec 40) ≠ BitVec.allOnes 40 ∧ sSeal.lineage.leaf + 2 ≤ 2 ^ 20 ∧ kemCertOk [0, 0] = false ∧
    (rootAt (dropMeas sSeal) 1 0x10000).isSome = true ∧ rootAt (dropMeas sSeal) 1 0x10008 = none ∧ sSeal.sweeps = [] ∧
    sSeal.lineage.pending.length + 1 ≤ 64 :=
  ⟨isCmd_is (by decide +kernel), by decide +kernel⟩

/-- A SEAL of that tree in progress. -/
def sJob (p : SealPhase) (certs : List (List Byte)) : State :=
  { sSeal with slots := [], regions := [(7, { reg7 with rcbva := 0x10000, still := true })], lineage := { sSeal.lineage with job := some ⟨7, certs, p, [], 0, []⟩ } }

theorem witness_Sealing_stills : (sJob .stilling []).commandIs 0x40 3 true ∧ treeStill (dropMeas (sJob .stilling [])) 7 = true ∧
    ((sJob .stilling []).region? 7).map (·.live) = some true ∧ lslot (sJob .stilling []) 3 = some ⟨9, 1, 7, 0⟩ ∧
    countedList (dropMeas (sJob .stilling [])) 1 0x10000 0 64 2 = some [0x10040, 8] ∧
    (payloadOf (dropMeas (sJob .stilling [])) 7 1 (pairsOf [0x10040, 8])).isSome = true ∧
    (let s : State := { sJob .stilling [] with copies := [kWord] }
     treeStill (dropMeas s) 7 = false ∧ (saveTree (dropMeas s) (treeSlots (dropMeas s) 7)).isSome = true) ∧
    (let s : State := { sJob .stilling [] with slots := (one c0).slots }
     treeStill (dropMeas s) 7 = false ∧ (saveTree (dropMeas s) (treeSlots (dropMeas s) 7)).isNone = true) ∧
    ({ sJob .stilling [] with regions := [] } : State).region? 7 = none :=
  ⟨isCmd_is (by decide +kernel), by decide +kernel⟩

/-- A SEAL that waits for no peer, and one that waits for one. -/
theorem witness_Sealing_awaits :
    let j : SealJob := ⟨7, [[]], .sent, [], 0, []⟩
    let q : BitVec 128 × Advance := (0, ⟨9, 0, 7, 3, [], []⟩)
    (sJob .sent []).commandIs 0x40 3 true ∧ lslot (sJob .sent []) 3 = some ⟨9, 1, 7, 0⟩ ∧ (⟨7, [], .sent, [], 0, []⟩ : SealJob).peers = [] ∧
      (sJob .sent [[]]).lineage.job = some j ∧ 0 ∈ j.peers ∧ q.1 = 0 ∧ q.2.lineage = 9 ∧ q.2.counter = 0 :=
  ⟨isCmd_is (by decide +kernel), by decide +kernel⟩

theorem witness_Restoring : (sCmd [0x10005, 0x10000, 8]).commandIs 0x40 5 true ∧ (bytesAt (dropMeas (sCmd [])) false 1 0x10000 8).isSome = true ∧
    bytesAt (dropMeas (sCmd [])) false 1 0x20000000 8 = none ∧ numAt (List.replicate 8 0) 4 4 ≠ 0x5345414C ∧
    restoreCheck (dropMeas (sCmd [])) 1 (List.replicate 8 0) = .inl 20 :=
  ⟨isCmd_is (by decide +kernel), by decide +kernel⟩

/-- An image of one wrap and no payload has the form of Table 24.4. -/
theorem witness_Restoring_form :
    ImageForm ([1, 1] ++ toBytes 2 1 ++ toBytes 4 0x5345414C ++ toBytes 8 (0x780 + 2820) ++ List.replicate (0x770 + 2820) 0) := by
  unfold ImageForm; decide +kernel

/-- The commit of a SEAL whose peers are others, with a record of its lineage, without one, and with a full table. -/
theorem witness_Sealing_commits :
    let j : SealJob := ⟨7, [], .signed, [], 0, []⟩
    (sJob .signed []).commandIs 0x40 3 true ∧ (sJob .signed []).lineage.job = some j ∧ Config.serial ∉ j.peers ∧
      lslot (sJob .signed []) 3 = some ⟨9, 1, 7, 0⟩ ∧ (sJob .signed []).lineage.record 9 = none ∧ (sJob .signed []).lineage.records.length < 1024 ∧
      ({ (sJob .signed []).lineage with records := [⟨9, 4, none⟩] } : Seal).record 9 = some ⟨9, 4, none⟩ ∧
      (sJob .committed []).commandIs 0x40 3 true ∧ lslot (sJob .committed []) 3 = some ⟨9, 1, 7, 0⟩ :=
  ⟨isCmd_is (by decide +kernel), rfl, List.not_mem_nil, by decide +kernel, by decide +kernel, by decide +kernel, by decide +kernel,
    isCmd_is (by decide +kernel), by decide +kernel⟩

theorem witness_CounterAdvances :
    let a : Advance := ⟨9, 5, 0, 3, [], []⟩
    let s : State := { away (one c0) with lineage := { records := [⟨9, 4, none⟩], pending := [(3, a)] } }
    s.lineage.record 9 = some ⟨9, 4, none⟩ ∧ (one c0).lineage.record 9 = none ∧ (one c0).lineage.records.length < 1024 ∧
    s.lineage.pending.filter (fun e => e.1 == 3 && e.2.lineage == 9) = [(3, a)] ∧
    s.lineage.pending.filter (fun e => e.1 == 4 && e.2.lineage == 9) = [] ∧
    1024 ≤ ({ s.lineage with records := List.replicate 1024 ⟨8, 4, none⟩ } : Seal).records.length ∧ absentCode s 0 = none ∧
    absentCode s 0x8000 ≠ none := by
  decide +kernel

/-! Reset, power and errors. -/

theorem witness_ResetAndPower : ((one c0).cores.map (fun e => e.1)).Nodup ∧ (one c0).power = .on ∧
    ({ one c0 with power := .frozen } : State).power ≠ .on ∧ (∀ b, .packageReset b ∉ (one c0).agenda) := by
  refine ⟨by decide, rfl, by decide, fun b h => ?_⟩
  cases h

/-- A die at each step of its firmware, the others being ready, and one that has failed. -/
def sBoot (step : Nat) (st : BitVec 8) : State :=
  { one c0 with host := { (one c0).host with booted := #v[3, 3, step, 3], bootst := #v[1, 1, st, 1] } }

theorem witness_ResetAndPower_boot : ((∀ p : Fin 8, portDie p = 0 → neighbour (sPort { pDown with met := true }) p.val ≠ none → ((sPort { pDown with met := true }).port p).met = true ∨ p ∈ [(1 : Fin 8)])) ∧
    (neighbour (sPort pDown) 0 ≠ none ∧ ((sPort pDown).port 0).met = false) ∧ (∀ k < 3, (sBoot k 0).host.booted[(2 : Fin 4)] = k ∧
    (sBoot k 0).host.bootst[(2 : Fin 4)] = 0) ∧
    (sBoot 0 2).host.bootst[(2 : Fin 4)] ≠ 0 ∧ dieOfKey (2 ^ 40 + 2 ^ 27) = 2 ∧ (∀ e : Fin 4, e ≠ 2 → (sBoot 2 0).host.bootst[e] = 1) ∧
    inExtents (sBoot 2 0) (sBoot 2 0).node = true := by decide +kernel

/-- Core 5 with free slots at a clock of a share interval, and core 0, whose slot 0 holds a context. -/
theorem witness_Scans :
    let s : State := { one c0 with clock := 4096 }
    (s.core 5).scan = none ∧ (∀ i < 16, (s.slot (5 * 16 + i)).ctx = none ∧ (s.slot (5 * 16 + i)).scrub = false ∧
      (s.slot (5 * 16 + i)).reserved = none ∧ (s.slot (5 * 16 + i)).freed + 4096 ≤ s.clock) ∧ coreBusy s 5 = false ∧
    coreBusy { s with copies := [{ kWord with core := 5 }] } 5 = true ∧ (s.slot 0).ctx ≠ none ∧
    ((s.setCore 5 { s.core 5 with scan := some 0 }).core 5).scan ≠ none ∧ s.timers = [(4096, .shareInterval)] ∧
    ((s.setCore 5 { s.core 5 with present := false }).core 5).present = false := by decide +kernel

theorem witness_ArrayErrors : readUnderWay (one c0) (ordKey 1 0 / 8) = false ∧ readUnderWay (one cStrong) (2 ^ 42 / 8) = true ∧
    ((one c0).slot 0).ctx = some c0 ∧ ((one c0).slot 1).ctx = none ∧ (∀ e ∈ (one c0).regions, holdsUnit (one c0) e.2 3 = false) ∧
    poisoned (one c0) (ordKey 1 0) 128 = false ∧ poisoned { one c0 with poison := [ordKey 1 0 / 8] } (ordKey 1 (2 ^ 37 % 2 ^ 37)) 128 = true := by
  decide +kernel

/-! Encoding, steps and invariants. -/

theorem witness_EncodeDecode : (Instr.add (ops 7 8 (some 9) 0 0)).wf = true ∧ encode (.add (ops 7 8 (some 9) 0 0)) ≠ [] := by decide +kernel

theorem witness_IllegalChains : (0xF000 : Half).toNat / 1024 = 60 + 0 ∧ (0xF400 : Half).toNat / 1024 = 60 + 1 ∧
    (0xF800 : Half).toNat / 1024 = 60 + 2 ∧
    (0xFC00 : Half).toNat / 1024 = 60 + 3 ∧ (0xFBFF : Half).toNat / 1024 = 60 + 2 ∧ (0xE000 : Half).toNat / 4096 = 14 := by decide

/-- The state that `withFetchWord` loads runs its instruction next, an ADDI of 4-bit operands. -/
def sLoaded : State := State.reset.withFetchWord 16 0x15FF

theorem witness_StepRunsDecoded : sLoaded.power = .on ∧ sLoaded.agenda = [] ∧ sweepsDue sLoaded = [] ∧ nextTake sLoaded = none ∧
    (match nextOffer sLoaded with
      | some (k, t) => sLoaded.timers.all (fun e => decide (k < e.1)) && (match (sLoaded.slot t).ctx with
        | some c => !c.inGang && decide (c.run = .running) && c.yieldTo.isNone && c.lfaults.isEmpty && c.wait.isNone &&
          (match fetchFrom c (nameCore t) c.pc 6 [] { atClock sLoaded k with last := some t, cur := t } with
            | (hs, _, _) => (match decode hs with
              | .ok i n => decide (i = .addi { q := 0, a := .r 5, b := .r 0, c := none, imm := -1 }) && n == 1
              | _ => false))
        | none => false)
      | none => false) = true := by decide +kernel

theorem witness_StepRunsDecoded_fetch : (match resolve (mapped c0) ((mapped c0).regionOf c0).asid (.ord (homeDie 0x10000)) 0x10000 2 .x with
      | (.ok key, s1) => key == 0x50000 && s1.hist.isEmpty && (s1.core 0).icache.isEmpty
      | _ => false) = true ∧ (0x10000 : Word).toNat < 0x00F0000000000000 := by decide +kernel

/-- The invariant holds at reset, and of a state with memory; a step from there answers a next state. -/
theorem witness_StepsKeepMemory : State.reset.memOk ∧ (mapped c0).memOk ∧ (match step (mapped c0) with
      | .next _ => true
      | _ => false) = true := by
  unfold State.memOk; decide +kernel

theorem witness_RegisterInstructionFrame : (one c0).Issues c0 ∧
    (match exec (.add (ops 7 8 (some 9) 0 0)) (one c0), exec (.div (ops 0 8 (some 9) 0 0)) (one c0) with
      | .next _, .next _ => true
      | _, _ => false) = true := by
  exact ⟨rfl, by decide +kernel⟩

/-! Core-shared registers, and the standards (chapters 2, 22 and 24). -/

/-- Table 2.6: s3 = 2, written with 7 at clock 32 and with 9 at clock 36; read at clocks 33, 34, 35, 38 and 39. -/
theorem test_core_shared_timing :
    let k : CoreSt := { s := (Vector.replicate 8 0).set 3 2 }
    let k' := k.putS 32 3 7
    let k'' := k'.putS 36 3 9
    [k'.getS 33 3, k'.getS 34 3, k'.getS 35 3, k''.getS 38 3, k''.getS 39 3] = [2, 2, 7, 7, 9] := by decide +kernel

/-- FIPS 202: SHAKE256 of the message "abc", its first eight bytes. -/
theorem test_shake256 : (shake256 [0x61, 0x62, 0x63]).extractLsb' 0 64 = 0x77A8601360663348#64 := by decide +kernel

/-- FIPS 197: a value of the S-box, a column mixed, and the first word that the example key of A.3 expands to. -/
theorem test_aes_parts : subByte 0x53 = 0xED ∧ mixColumn [0xDB, 0x13, 0x53, 0x45] = [0x8E, 0x4D, 0xA1, 0xBC] ∧
    (expandKey (beBytes 32 0x603DEB1015CA71BE2B73AEF0857D77811F352C073B6108D72D9810A30914DFF4)).getD 8 [] =
      [0x9B, 0xA3, 0x54, 0x11] := by decide +kernel

/-- The GCM specification's test case 2: the first product of GHASH. -/
theorem test_ghash : ghashMul 0x0388DACE60B6A392F328C2B971B2FE78 0x66E94BD4EF8A2C3B884CFA59CA342B2E =
    0x5E2EC746917062882C85B0685353DEB7 := by decide +kernel

end Sys2Proof.Tests
end

section
/-! SUPPORT. Exact values as rational numbers, and their order. -/

namespace Sys2Proof.Machine

theorem two_pow_toNat {k : ℤ} (hk : 0 ≤ k) : ((2 : ℚ) ^ k.toNat) = 2 ^ k := by
  rw [← zpow_natCast, Int.toNat_of_nonneg hk]

/-- A multiple of 2^u that stands for a number is that number over 2^u. -/
theorem scaled_cast (s : Bool) (m : ℕ) {e u : ℤ} (hu : u ≤ e) :
    (scaled s m e u : ℚ) = (if s then -1 else 1) * m * 2 ^ e / 2 ^ u := by
  rw [mul_div_assoc, ← zpow_sub₀ two_ne_zero, ← two_pow_toNat (sub_nonneg.2 hu)]
  cases s <;> simp [scaled]

theorem compare_intCast (a b : ℤ) : compare (a : ℚ) b = compare a b := by
  simpa only [cmp_eq_compare] using Int.cast_strictMono.cmp_map_eq a b

theorem compare_div_right {c : ℚ} (hc : 0 < c) (x y : ℚ) : compare (x / c) (y / c) = compare x y := by
  have hmono : StrictMono (· / c) := fun _ _ h => div_lt_div_of_pos_right h hc
  simpa only [cmp_eq_compare] using hmono.cmp_map_eq x y

/-- The order of two numbers is that of their values. -/
theorem Fp.cmp_of_rat {v w : Fp} {x y : ℚ} (hv : v.rat = some x) (hw : w.rat = some y) :
    v.cmp w = some (compare x y) := by
  match v, w, hv, hw with
  | .num s m e, .num s' m' e', hv, hw =>
    obtain rfl := Option.some.inj hv
    obtain rfl := Option.some.inj hw
    simp only [Fp.cmp]
    rw [← compare_intCast, scaled_cast s m (min_le_left e e'), scaled_cast s' m' (min_le_right e e'),
      compare_div_right (zpow_pos two_pos _)]

/-- A number by its sign, its magnitude and its value. -/
theorem Fp.num_of_rat {v : Fp} {x : ℚ} (h : v.rat = some x) :
    ∃ s m e, v = .num s m e ∧ |x| = m * (2 : ℚ) ^ e ∧ (x ≠ 0 → s = decide (x < 0)) := by
  match v, h with
  | .num s m e, h =>
    obtain rfl := Option.some.inj h
    have hx : 0 ≤ (m : ℚ) * 2 ^ e := by positivity
    refine ⟨s, m, e, rfl, ?_, fun hne => ?_⟩
    · cases s <;> simp [abs_of_nonneg hx]
    · cases s
      · simp [hx]
      · have hpos : 0 < (m : ℚ) * 2 ^ e := lt_of_le_of_ne hx fun h0 => hne (by simp [← h0])
        simp [hpos]

theorem Fp.rat_eq_none {v : Fp} (h : v.rat = none) : v = .nan ∨ ∃ g, v = .inf g := by
  match v, h with
  | .nan, _ => exact .inl rfl
  | .inf g, _ => exact .inr ⟨g, rfl⟩

theorem Fp.rat_num_false (m : ℕ) (e : ℤ) : (Fp.num false m e).rat = some (m * (2 : ℚ) ^ e) := by
  simp [Fp.rat]

theorem Fp.rat_num_true (m : ℕ) (e : ℤ) : (Fp.num true m e).rat = some (-(m * (2 : ℚ) ^ e)) := by
  simp [Fp.rat]

end Sys2Proof.Machine
end

section
/-! SUPPORT. The values of SKIM8 codes (R106, Table 6.3). -/

namespace Sys2Proof.Machine

/-- E, F and fw of R106 for a payload other than 0. -/
def skimFields (p : ℕ) : ℤ × ℕ × ℕ :=
  let j := lead7 p
  if j = 0 then ((p / 16 % 4 : ℤ) - 2, p % 16, 4)
  else if j ≤ 4 then
    (if p / 2 ^ (5 - j) % 2 = 0 then 2 * (j : ℤ) + (p / 2 ^ (4 - j) % 2 : ℤ) else -2 * (j : ℤ) - 2 + (p / 2 ^ (4 - j) % 2 : ℤ),
      p % 2 ^ (4 - j), 4 - j)
  else if j = 5 then (if p % 2 = 0 then 10 else -11, 0, 0)
  else (-12, 0, 0)

theorem skimDecode_eq_num {code : ℕ} (h : code % 128 ≠ 0) :
    skimDecode code = .num (code / 128 % 2 == 1) (2 ^ (skimFields (code % 128)).2.2 + (skimFields (code % 128)).2.1)
      ((skimFields (code % 128)).1 - (skimFields (code % 128)).2.2) := by
  simp [skimDecode, skimFields, h]

theorem skim8Value_eq_some {code : ℕ} (h : code % 128 ≠ 0) :
    skim8Value code = some ((-1) ^ (code / 128) * (2 : ℚ) ^ (skimFields (code % 128)).1 *
      (1 + ((skimFields (code % 128)).2.1 : ℚ) / 2 ^ (skimFields (code % 128)).2.2)) := by
  simp only [skim8Value, skimFields, lead7, if_neg h, pow_zero, Nat.div_one]
  split_ifs with h0 h4 hside h5 hlow <;> simp only [*, reduceIte] <;> simp

theorem skimFields_bounds (p : ℕ) : -12 ≤ (skimFields p).1 ∧ (skimFields p).2.2 ≤ 4 := by
  simp only [skimFields]
  split_ifs <;> simp <;> omega

/-- A significand of fw fraction bits. -/
theorem significand_value (E : ℤ) (F fw : ℕ) :
    ((2 ^ fw + F : ℕ) : ℚ) * 2 ^ (E - fw) = 2 ^ E * (1 + (F : ℚ) / 2 ^ fw) := by
  rw [zpow_sub₀ two_ne_zero, zpow_natCast]
  push_cast
  field_simp

/-- A code stands for the value that R106 gives it. -/
theorem skimDecode_rat {code : ℕ} (hc : code < 256) : (skimDecode code).rat = skim8Value code := by
  have hs : code / 128 = 0 ∨ code / 128 = 1 := by omega
  by_cases hp : code % 128 = 0
  · rcases hs with hs | hs <;> simp [skimDecode, skim8Value, hp, hs, Fp.rat]
  · rw [skimDecode_eq_num hp, skim8Value_eq_some hp]
    rcases hs with hs | hs
    · rw [hs, pow_zero, one_mul, ← significand_value]
      exact Fp.rat_num_false _ _
    · rw [hs, pow_one, neg_one_mul, neg_mul, ← significand_value]
      exact Fp.rat_num_true _ _

/-- A payload other than 0 is a magnitude, to which bit 7 gives its sign. -/
theorem skimDecode_payload {p : ℕ} (h0 : 0 < p) (hp : p < 128) :
    ∃ m e, 0 < m ∧ -16 ≤ e ∧ skimDecode p = .num false m e ∧ skimDecode (128 + p) = .num true m e := by
  have hmod : p % 128 = p := Nat.mod_eq_of_lt hp
  have hmod' : (128 + p) % 128 = p := by omega
  obtain ⟨hE, hfw⟩ := skimFields_bounds p
  refine ⟨2 ^ (skimFields p).2.2 + (skimFields p).2.1, (skimFields p).1 - (skimFields p).2.2, by positivity, by omega, ?_, ?_⟩
  · rw [skimDecode_eq_num (by omega), hmod, show p / 128 = 0 by omega]; rfl
  · rw [skimDecode_eq_num (by omega), hmod', show (128 + p) / 128 = 1 by omega]; rfl

/-- A code is 0x00, NaR, a magnitude, or a magnitude with bit 7. -/
theorem skimCode_cases {code : ℕ} (hc : code < 256) :
    code = 0 ∨ code = 0x80 ∨ ∃ p, 0 < p ∧ p < 128 ∧ (code = p ∨ code = 128 + p) := by
  by_cases hp : code % 128 = 0
  · omega
  · exact .inr (.inr ⟨code % 128, by omega, by omega, by omega⟩)

theorem skimDecode_zero : skimDecode 0 = .num false 0 0 := rfl

theorem skimDecode_nar : skimDecode 0x80 = .nan := rfl

theorem skimValue_zero : skimValue 0 = 0 := by simp [skimValue, skimDecode_zero, Fp.rat]

/-- A magnitude code and its negation stand for opposite values, which are not 0. -/
theorem skimDecode_rat_payload {p : ℕ} (h0 : 0 < p) (hp : p < 128) :
    0 < skimValue p ∧ (skimDecode p).rat = some (skimValue p) ∧ (skimDecode (128 + p)).rat = some (-skimValue p) := by
  obtain ⟨m, e, hm, -, hpos, hneg⟩ := skimDecode_payload h0 hp
  have hv : skimValue p = m * (2 : ℚ) ^ e := by rw [skimValue, hpos, Fp.rat_num_false, Option.getD_some]
  rw [hpos, hneg, hv, Fp.rat_num_false, Fp.rat_num_true]
  exact ⟨by positivity, rfl, rfl⟩

theorem skimDecode_rat_eq_zero_iff {code : ℕ} (hc : code < 256) : (skimDecode code).rat = some 0 ↔ code = 0 := by
  rcases skimCode_cases hc with rfl | rfl | ⟨p, h0, hp, rfl | rfl⟩
  · simp [skimDecode_zero, Fp.rat]
  · simp [skimDecode_nar, Fp.rat]
  · obtain ⟨hv, h, -⟩ := skimDecode_rat_payload h0 hp
    simp [h, hv.ne', h0.ne']
  · obtain ⟨hv, -, h⟩ := skimDecode_rat_payload h0 hp
    simp [h, hv.ne']

theorem skimDecode_eq_nan_iff {code : ℕ} (hc : code < 256) : skimDecode code = .nan ↔ code = 0x80 := by
  rcases skimCode_cases hc with rfl | rfl | ⟨p, h0, hp, rfl | rfl⟩
  · simp [skimDecode_zero]
  · simp [skimDecode_nar]
  · obtain ⟨m, e, -, -, h, -⟩ := skimDecode_payload h0 hp
    simp only [h, reduceCtorEq, false_iff]; omega
  · obtain ⟨m, e, -, -, -, h⟩ := skimDecode_payload h0 hp
    simp only [h, reduceCtorEq, false_iff]; omega

theorem skimDecode_ne_inf (code : ℕ) (g : Bool) : skimDecode code ≠ .inf g := by
  by_cases hp : code % 128 = 0
  · simp only [skimDecode, hp, if_true]
    split <;> simp
  · simp [skimDecode_eq_num hp]

/-- The codes of a row of Table 6.3 have its exponent and count through its fractions. -/
theorem skimDecode_table : ∀ r ∈ skimTable, ∀ k < r.2.1, skimDecode (r.1 + k) = .num false (2 ^ r.2.2.2 + k) (r.2.2.1 - r.2.2.2) := by
  decide

theorem skimValue_table {r : ℕ × ℕ × ℤ × ℕ} (hr : r ∈ skimTable) {k : ℕ} (hk : k < r.2.1) :
    skimValue (r.1 + k) = (2 : ℚ) ^ r.2.2.1 * (1 + (k : ℚ) / 2 ^ r.2.2.2) := by
  rw [skimValue, skimDecode_table r hr k hk, Fp.rat_num_false, Option.getD_some, significand_value]

/-! The order of the magnitude codes. -/

theorem skimUnits_cast {p : ℕ} (hp : p < 128) : (skimUnits p : ℚ) = skimValue p * 2 ^ 16 := by
  rcases Nat.eq_zero_or_pos p with rfl | h0
  · simp [skimUnits, skimDecode_zero, skimValue_zero]
  · obtain ⟨m, e, -, he, h, -⟩ := skimDecode_payload h0 hp
    have hu : skimUnits p = m * 2 ^ (e + 16).toNat := by rw [skimUnits, h]
    rw [hu, skimValue, h, Fp.rat_num_false, Option.getD_some]
    push_cast
    rw [two_pow_toNat (by omega), zpow_add₀ two_ne_zero, mul_assoc]
    norm_num

theorem skimValue_lt_iff {p q : ℕ} (hp : p < 128) (hq : q < 128) : skimValue p < skimValue q ↔ skimUnits p < skimUnits q := by
  rw [← Nat.cast_lt (α := ℚ), skimUnits_cast hp, skimUnits_cast hq, mul_lt_mul_iff_left₀ (by positivity)]

theorem lt_of_mem_skimCodes : ∀ c ∈ skimCodes, c < 128 := by decide +kernel

theorem mem_skimCodes_of_lt : ∀ p < 128, p ∈ skimCodes := by decide +kernel

theorem skimUnits_sorted : skimCodes.Pairwise (fun lo hi => skimUnits lo < skimUnits hi) := by decide +kernel

theorem skimValue_sorted : skimCodes.Pairwise (fun lo hi => skimValue lo < skimValue hi) :=
  skimUnits_sorted.imp_of_mem fun hlo hhi h =>
    (skimValue_lt_iff (lt_of_mem_skimCodes _ hlo) (lt_of_mem_skimCodes _ hhi)).2 h

theorem skimValue_injOn {p q : ℕ} (hp : p ∈ skimCodes) (hq : q ∈ skimCodes) (h : skimValue p = skimValue q) : p = q :=
  List.inj_on_of_nodup_map ((List.pairwise_map.2 skimValue_sorted).imp ne_of_lt) hp hq h

/-- Neighbouring codes differ in bit 0, except 0x01 and 0x03 (R107). -/
theorem skimCodes_parity : skimCodes.IsChain (fun lo hi => lo % 2 ≠ hi % 2 ∨ (lo = 0x01 ∧ hi = 0x03)) := by decide +kernel

end Sys2Proof.Machine
end

section
/-! SUPPORT. Conversion to SKIM8 (R107). -/

namespace Sys2Proof.Machine

/-- The choice of R107 between neighbours for a magnitude that lies between their values. -/
def nearerCode (x : ℚ) (lo hi : ℕ) : ℕ :=
  if x - skimValue lo < skimValue hi - x then lo
  else if skimValue hi - x < x - skimValue lo then hi
  else if lo % 2 ≠ hi % 2 then (if lo % 2 = 0 then lo else hi)
  else hi

/-- One step of the search, on values. -/
theorem skimNear_cons {m lo hi : ℕ} {e : ℤ} {l : List ℕ} {x : ℚ} (hx : x = m * 2 ^ e) (hlo : lo < 128) (hhi : hi < 128)
    (hle : skimValue lo ≤ x) :
    skimNear m e (lo :: hi :: l) = if x ≤ skimValue hi then nearerCode x lo hi else skimNear m e (hi :: l) := by
  set u := min e (-16) with hu
  have hpos : (0 : ℚ) < 2 ^ (-u) := by positivity
  have ha : ((m * 2 ^ (e - u).toNat : ℕ) : ℚ) = x * 2 ^ (-u) := by
    push_cast
    rw [two_pow_toNat (by omega), hx, mul_assoc, ← zpow_add₀ two_ne_zero, sub_eq_add_neg]
  have hunits {c : ℕ} (hc : c < 128) : ((skimUnits c * 2 ^ (-16 - u).toNat : ℕ) : ℚ) = skimValue c * 2 ^ (-u) := by
    push_cast
    rw [two_pow_toNat (by omega), skimUnits_cast hc, mul_assoc, ← zpow_natCast, ← zpow_add₀ two_ne_zero]
    congr 2; push_cast; ring
  have hvl := hunits hlo
  have hvh := hunits hhi
  simp only [skimNear, ← hu]
  generalize m * 2 ^ (e - u).toNat = a at ha ⊢
  generalize skimUnits lo * 2 ^ (-16 - u).toNat = vl at hvl ⊢
  generalize skimUnits hi * 2 ^ (-16 - u).toNat = vh at hvh ⊢
  have hvla : vl ≤ a := by
    rw [← Nat.cast_le (α := ℚ), hvl, ha]
    exact mul_le_mul_of_nonneg_right hle hpos.le
  have hgt : a ≤ vh ↔ x ≤ skimValue hi := by
    rw [← Nat.cast_le (α := ℚ), hvh, ha, mul_le_mul_iff_left₀ hpos]
  simp only [hgt]
  split
  next hxh =>
    have havh : a ≤ vh := hgt.2 hxh
    have hlow : ((a - vl : ℕ) : ℚ) = (x - skimValue lo) * 2 ^ (-u) := by rw [Nat.cast_sub hvla, ha, hvl, sub_mul]
    have hhigh : ((vh - a : ℕ) : ℚ) = (skimValue hi - x) * 2 ^ (-u) := by rw [Nat.cast_sub havh, ha, hvh, sub_mul]
    have hlt : a - vl < vh - a ↔ x - skimValue lo < skimValue hi - x := by
      rw [← Nat.cast_lt (α := ℚ), hlow, hhigh, mul_lt_mul_iff_left₀ hpos]
    have hlt' : vh - a < a - vl ↔ skimValue hi - x < x - skimValue lo := by
      rw [← Nat.cast_lt (α := ℚ), hlow, hhigh, mul_lt_mul_iff_left₀ hpos]
    simp only [hlt, hlt', nearerCode]
  next => rfl

/-- The search ends at neighbours in the list with the magnitude between them, and answers the choice between these. -/
theorem skimNear_eq_nearerCode {m : ℕ} {e : ℤ} {x : ℚ} (hx : x = m * 2 ^ e) (l : List ℕ) (lo : ℕ)
    (hcodes : ∀ c ∈ lo :: l, c < 128) (hle : skimValue lo ≤ x) (hlast : ∃ c ∈ lo :: l, x < skimValue c) :
    ∃ l₁ lo' hi' l₂, lo :: l = l₁ ++ lo' :: hi' :: l₂ ∧ skimValue lo' ≤ x ∧ x ≤ skimValue hi' ∧
      skimNear m e (lo :: l) = nearerCode x lo' hi' := by
  induction l generalizing lo with
  | nil =>
    obtain ⟨c, hc, hlt⟩ := hlast
    rw [List.mem_singleton.1 hc] at hlt
    exact absurd hlt hle.not_gt
  | cons hi l ih =>
    rw [skimNear_cons hx (hcodes lo (by simp)) (hcodes hi (by simp)) hle]
    by_cases hxh : x ≤ skimValue hi
    · exact ⟨[], lo, hi, l, rfl, hle, hxh, if_pos hxh⟩
    · have hlast' : ∃ c ∈ hi :: l, x < skimValue c := by
        obtain ⟨c, hc, hlt⟩ := hlast
        rcases List.mem_cons.1 hc with rfl | hc
        · exact absurd hlt hle.not_gt
        · exact ⟨c, hc, hlt⟩
      obtain ⟨l₁, lo', hi', l₂, hl, h⟩ := ih hi (fun c hc => hcodes c (List.mem_cons_of_mem _ hc)) (le_of_not_ge hxh) hlast'
      exact ⟨lo :: l₁, lo', hi', l₂, by rw [hl]; rfl, by rwa [if_neg hxh]⟩

/-- What the choice between neighbours is: the nearer one, and at a tie the even one where their parities differ, else the
greater. -/
theorem nearerCode_cases {x : ℚ} (lo hi : ℕ) :
    (nearerCode x lo hi = lo ∧ x - skimValue lo ≤ skimValue hi - x ∧
      (x - skimValue lo = skimValue hi - x → lo % 2 = 0)) ∨
    (nearerCode x lo hi = hi ∧ skimValue hi - x ≤ x - skimValue lo ∧
      (x - skimValue lo = skimValue hi - x → lo % 2 ≠ hi % 2 → hi % 2 = 0)) := by
  unfold nearerCode
  split_ifs with hlt hgt hpar hev
  · exact .inl ⟨rfl, hlt.le, fun h => absurd h hlt.ne⟩
  · exact .inr ⟨rfl, hgt.le, fun h => absurd h hgt.ne'⟩
  · exact .inl ⟨rfl, not_lt.1 hgt, fun _ => hev⟩
  · exact .inr ⟨rfl, not_lt.1 hlt, fun _ _ => by omega⟩
  · exact .inr ⟨rfl, not_lt.1 hlt, fun _ h => absurd h hpar⟩

/-- A code is a nearest one to a magnitude, and at a tie it is even, or 0x03 against 0x01 (R107). -/
def IsNearest (x : ℚ) (m : ℕ) : Prop :=
  m ∈ skimCodes ∧ (∀ n ∈ skimCodes, |x - skimValue m| ≤ |x - skimValue n|) ∧
    ∀ n ∈ skimCodes, n ≠ m → |x - skimValue m| = |x - skimValue n| → m % 2 = 0 ∨ (m = 0x03 ∧ n = 0x01)

/-- A code other than two neighbours lies beyond one of them. -/
theorem skimValue_outside {l₁ l₂ : List ℕ} {lo hi n : ℕ} (hl : skimCodes = l₁ ++ lo :: hi :: l₂) (hn : n ∈ skimCodes) :
    n = lo ∨ n = hi ∨ skimValue n < skimValue lo ∨ skimValue hi < skimValue n := by
  have hsorted := skimValue_sorted
  rw [hl] at hn hsorted
  obtain ⟨-, hright, hacross⟩ := List.pairwise_append.1 hsorted
  obtain ⟨-, hright⟩ := List.pairwise_cons.1 hright
  have hbeyond := (List.pairwise_cons.1 hright).1
  simp only [List.mem_append, List.mem_cons] at hn
  rcases hn with hn | rfl | rfl | hn
  · exact .inr (.inr (.inl (hacross n hn lo (by simp))))
  · exact .inl rfl
  · exact .inr (.inl rfl)
  · exact .inr (.inr (.inr (hbeyond n hn)))

theorem isNearest_of_neighbour {x : ℚ} {m m' : ℕ} (hm : m ∈ skimCodes) (hd : |x - skimValue m| ≤ |x - skimValue m'|)
    (hfar : ∀ n ∈ skimCodes, n = m ∨ n = m' ∨ |x - skimValue m| < |x - skimValue n|)
    (htie : |x - skimValue m| = |x - skimValue m'| → m % 2 = 0 ∨ (m = 0x03 ∧ m' = 0x01)) : IsNearest x m := by
  refine ⟨hm, fun n hn => ?_, fun n hn hne heq => ?_⟩
  · rcases hfar n hn with rfl | rfl | h
    · exact le_rfl
    · exact hd
    · exact h.le
  · rcases hfar n hn with rfl | rfl | h
    · exact absurd rfl hne
    · exact htie heq
    · exact absurd heq h.ne

/-- The choice between the neighbours around a magnitude is nearest among all codes. -/
theorem nearerCode_isNearest {l₁ l₂ : List ℕ} {lo hi : ℕ} {x : ℚ} (hl : skimCodes = l₁ ++ lo :: hi :: l₂)
    (hlo : skimValue lo ≤ x) (hhi : x ≤ skimValue hi) : IsNearest x (nearerCode x lo hi) := by
  have hparity : lo % 2 ≠ hi % 2 ∨ (lo = 0x01 ∧ hi = 0x03) := by
    have h := skimCodes_parity
    rw [hl] at h
    exact (List.isChain_cons_cons.1 (List.isChain_append.1 h).2.1).1
  have hdlo : |x - skimValue lo| = x - skimValue lo := abs_of_nonneg (by linarith)
  have hdhi : |x - skimValue hi| = skimValue hi - x := by rw [abs_sub_comm, abs_of_nonneg (by linarith)]
  have hfar (d : ℚ) (h₁ : d ≤ x - skimValue lo) (h₂ : d ≤ skimValue hi - x) (n : ℕ) (hn : n ∈ skimCodes) :
      n = lo ∨ n = hi ∨ d < |x - skimValue n| := by
    rcases skimValue_outside hl hn with h | h | h | h
    · exact .inl h
    · exact .inr (.inl h)
    · exact .inr (.inr (by linarith [le_abs_self (x - skimValue n)]))
    · exact .inr (.inr (by linarith [neg_le_abs (x - skimValue n)]))
  rcases nearerCode_cases (x := x) lo hi with ⟨hc, hd, htie⟩ | ⟨hc, hd, htie⟩ <;> rw [hc]
  · refine isNearest_of_neighbour (m' := hi) (by simp [hl]) ?_ ?_ fun h => .inl (htie ?_)
    · rwa [hdlo, hdhi]
    · rw [hdlo]; exact hfar _ le_rfl hd
    · rwa [hdlo, hdhi] at h
  · refine isNearest_of_neighbour (m' := lo) (by simp [hl]) ?_ ?_ fun h => ?_
    · rwa [hdlo, hdhi]
    · rw [hdhi]; exact fun n hn => or_left_comm.1 (hfar _ hd le_rfl n hn)
    · rw [hdlo, hdhi] at h
      exact hparity.imp (htie h.symm) And.symm

/-- The last code of the list saturates (R107). -/
theorem skimValue_two : skimValue 0x02 = 1024 := by
  rw [skimValue, show skimDecode 0x02 = .num false 1 10 by decide, Fp.rat_num_false, Option.getD_some]
  norm_num

/-- The search over all codes answers a nearest one. -/
theorem skimNear_isNearest {m : ℕ} {e : ℤ} {x : ℚ} (hx : x = m * 2 ^ e) (h0 : 0 ≤ x) (hlt : x < 1024) :
    IsNearest x (skimNear m e skimCodes) := by
  obtain ⟨l₁, lo, hi, l₂, hl, hlo, hhi, h⟩ := skimNear_eq_nearerCode (m := m) (e := e) hx skimCodes.tail 0 lt_of_mem_skimCodes
    (by rwa [skimValue_zero]) ⟨0x02, mem_skimCodes_of_lt 0x02 (by decide), by rwa [skimValue_two]⟩
  exact h ▸ nearerCode_isNearest hl hlo hhi

/-- The conversion of a number by its magnitude (R107). -/
theorem skimEncode_num (s : Bool) (m : ℕ) (e : ℤ) :
    skimEncode (.num s m e) = if (m * 2 ^ e : ℚ) < 2 ^ (-13 : ℤ) then 0 else
      let c := if (m * 2 ^ e : ℚ) < 1024 then skimNear m e skimCodes else 0x02
      if c = 0 then 0 else (if s then 128 else 0) + c := by
  have hlow := Fp.cmp_of_rat (Fp.rat_num_false m e) (Fp.rat_num_false 1 (-13))
  have hhigh := Fp.cmp_of_rat (Fp.rat_num_false m e) (Fp.rat_num_false 1024 0)
  rw [Nat.cast_one, one_mul] at hlow
  rw [zpow_zero, mul_one, Nat.cast_ofNat] at hhigh
  simp only [skimEncode, hlow, hhigh]
  simp only [← compare_lt_iff_lt]
  cases compare (m * 2 ^ e : ℚ) (2 ^ (-13 : ℤ)) <;> cases compare (m * 2 ^ e : ℚ) 1024 <;> simp

theorem skimEncode_of_lt {v : Fp} {x : ℚ} (hv : v.rat = some x) (hx : |x| < 2 ^ (-13 : ℤ)) : skimEncode v = 0 := by
  obtain ⟨s, m, e, rfl, habs, -⟩ := Fp.num_of_rat hv
  rw [skimEncode_num, ← habs, if_pos hx]

theorem skimEncode_of_ge {v : Fp} {x : ℚ} (hv : v.rat = some x) (hx : 1024 ≤ |x|) :
    skimEncode v = if x < 0 then 0x82 else 0x02 := by
  obtain ⟨s, m, e, rfl, habs, hs⟩ := Fp.num_of_rat hv
  have hlow : ¬ |x| < 2 ^ (-13 : ℤ) := not_lt.2 (le_trans (by norm_num) hx)
  rw [skimEncode_num, ← habs, if_neg hlow, if_neg hx.not_gt, hs (by rintro rfl; norm_num at hx)]
  by_cases hneg : x < 0 <;> simp [hneg]

theorem skimEncode_of_between {v : Fp} {x : ℚ} (hv : v.rat = some x) (hlow : 2 ^ (-13 : ℤ) ≤ |x|) (hhigh : |x| < 1024) :
    ∃ m, IsNearest |x| m ∧ skimEncode v = if m = 0 then 0 else (if x < 0 then 0x80 else 0) + m := by
  obtain ⟨s, m, e, rfl, habs, hs⟩ := Fp.num_of_rat hv
  have hne : x ≠ 0 := by rintro rfl; norm_num at hlow
  refine ⟨skimNear m e skimCodes, skimNear_isNearest habs (abs_nonneg x) hhigh, ?_⟩
  rw [skimEncode_num, ← habs, if_neg hlow.not_gt, if_pos hhigh, hs hne]
  simp

/-- A magnitude code other than 0x00 lies at or above 2^-13, and only 0x02 reaches 1024. -/
theorem skimUnits_range : ∀ p < 128, 0 < p → 8 ≤ skimUnits p ∧ (p = 0x02 ∨ skimUnits p < 1024 * 2 ^ 16) := by decide +kernel

theorem skimValue_range {p : ℕ} (h0 : 0 < p) (hp : p < 128) :
    2 ^ (-13 : ℤ) ≤ skimValue p ∧ (p = 0x02 ∨ skimValue p < 1024) := by
  obtain ⟨hlow, hhigh⟩ := skimUnits_range p hp h0
  rw [← Nat.cast_le (α := ℚ), skimUnits_cast hp] at hlow
  rw [← Nat.cast_lt (α := ℚ), skimUnits_cast hp] at hhigh
  push_cast at hlow hhigh
  exact ⟨by norm_num; linarith, hhigh.imp_right fun h => by linarith⟩

/-- A number whose magnitude is that of a code converts to this code with its sign: no other code is at distance 0. -/
theorem skimEncode_of_abs_eq {v : Fp} {x : ℚ} {p : ℕ} (hv : v.rat = some x) (h0 : 0 < p) (hp : p < 128)
    (hx : |x| = skimValue p) : skimEncode v = (if x < 0 then 0x80 else 0) + p := by
  obtain ⟨hlow, rfl | hhigh⟩ := skimValue_range h0 hp
  · rw [skimEncode_of_ge hv (by rw [hx, skimValue_two])]
    split <;> rfl
  · obtain ⟨m, ⟨hm, hnear, -⟩, henc⟩ := skimEncode_of_between hv (hx ▸ hlow) (hx ▸ hhigh)
    have hpm : p ∈ skimCodes := mem_skimCodes_of_lt p hp
    have hdist : |skimValue p - skimValue m| ≤ 0 := by simpa [hx] using hnear p hpm
    obtain rfl := skimValue_injOn hpm hm (sub_eq_zero.1 (abs_nonpos_iff.1 hdist))
    rw [henc, if_neg h0.ne']

/-- Conversion of a code's value gives the code. -/
theorem skimEncode_skimDecode {code : ℕ} (hc : code < 256) : skimEncode (skimDecode code) = code := by
  rcases skimCode_cases hc with rfl | rfl | ⟨p, h0, hp, rfl | rfl⟩
  · rw [skimDecode_zero, skimEncode_of_lt (Fp.rat_num_false 0 0) (by norm_num)]
  · rw [skimDecode_nar]; rfl
  · obtain ⟨hv, h, -⟩ := skimDecode_rat_payload h0 hp
    rw [skimEncode_of_abs_eq h h0 hp (abs_of_pos hv), if_neg hv.not_gt, Nat.zero_add]
  · obtain ⟨hv, -, h⟩ := skimDecode_rat_payload h0 hp
    rw [skimEncode_of_abs_eq h h0 hp (by rw [abs_neg, abs_of_pos hv]), if_pos (neg_neg_of_pos hv)]

/-- Settles O5: the codes by the fields of R106, the conversion by the search of R107, which ends at the neighbours around a
magnitude. -/
theorem skim8Codes : Obligations.Skim8Codes := by
  unfold Obligations.Skim8Codes
  refine ⟨fun code hc => ?_, fun code => skimDecode_rat_eq_zero_iff, fun code => skimDecode_eq_nan_iff,
    fun code _ => skimDecode_ne_inf code, fun p hp h0 => ⟨skimValue p, skimDecode_rat_payload h0 hp⟩,
    fun r hr k => skimValue_table hr, by decide +kernel, List.pairwise_map.2 skimValue_sorted,
    fun code => skimEncode_skimDecode, rfl, rfl, rfl, fun v x hv => ⟨skimEncode_of_lt hv, skimEncode_of_ge hv, fun hlow hhigh => ?_⟩⟩
  · rw [← skimDecode_rat hc]
    exact ⟨fun hnone => (Fp.rat_eq_none hnone).resolve_right fun ⟨g, hg⟩ => skimDecode_ne_inf code g hg, fun x => id⟩
  · obtain ⟨m, ⟨hm, hnear, htie⟩, henc⟩ := skimEncode_of_between hv hlow hhigh
    exact ⟨m, hm, hnear, htie, henc⟩

end Sys2Proof.Machine
end

section
/-! SUPPORT. Scalar instructions in register form, from an instruction's own computation to a completed step (R138). -/

namespace Sys2Proof.Machine

theorem ternary_run {t : Word → Word → Word → Word} {o : Ops} {s : State} {a b : Fin 64} (ha : o.a = .r a)
    (hb : o.b = .r b) (hf : s.ctx.isFull b = true) (hx : s.ctx.isFull o.cx = true) (hg : s.ctx.isFull a = true)
    (hw : s.ctx.canWrite a) :
    ternary t o s = .ok .seq (s.setCtx (s.ctx.putX a (t (s.ctx.getX b) (s.ctx.getX o.cx) (s.ctx.getX a)))) := by
  simp [ternary, ha, hb, readOpd_r, M.bind_ok (readX_run hf), M.bind_ok (readX_run hx), M.bind_ok (readX_run hg),
    M.bind_ok (prepDst_r hw)]
  rfl

/-- A computation that leaves its context as `c` and goes on completes. -/
theorem runM_completes {m : M Ctl} {s : State} {c : Ctx} (h : m s = .ok .seq (s.setCtx c)) : runM m s = s.completes c :=
  (runM_ok h).trans (complete_setCtx s c)

variable {f : BitVec 4 → Word → Word} {g : BitVec 4 → Word → Word → Word} {t : BitVec 4 → Word → Word → Word → Word}
  {i : Ops → Instr}

theorem unaryGivesQ_of_exec (h : ∀ o s, exec (i o) s = runM (unary (f o.q) o) s) : UnaryGivesQ i f := by
  intro s c o a b hs ha hb hfull hw
  obtain rfl := State.ctx_of_slot hs
  rw [h, runM_completes (unary_run ha hb hfull hw)]

theorem binaryGivesQ_of_exec (h : ∀ o s, exec (i o) s = runM (binary (g o.q) o) s) : BinaryGivesQ i g := by
  intro s c o a b hs ha hb hfull hw
  obtain rfl := State.ctx_of_slot hs
  rw [h]
  cases hc : o.c with
  | none =>
    simp only [Ctx.insFull, Ctx.ins, hc] at hfull ⊢
    exact runM_completes (binary_run ha hb hc hfull.2 hfull.1 hw)
  | some k =>
    simp only [Ctx.insFull, Ctx.ins, hc] at hfull ⊢
    exact runM_completes (binary_reg_run ha hb hc hfull.1 hfull.2 hw)

theorem ternaryGivesQ_of_exec (h : ∀ o s, exec (i o) s = runM (ternary (t o.q) o) s) : TernaryGivesQ i t := by
  intro s c o a b hs ha hb hfb hfx hfa hw
  obtain rfl := State.ctx_of_slot hs
  rw [h, runM_completes (ternary_run ha hb hfb hfx hfa hw)]

end Sys2Proof.Machine
end

section
/-! SUPPORT. Bit fields of words, read and replaced (R3). -/

namespace Sys2Proof.Machine

theorem bits_eq_extractLsb' {w : ℕ} (v : BitVec w) (hi lo : ℕ) : bits v hi lo = (v.extractLsb' lo (hi + 1 - lo)).toNat := by
  rw [bits, BitVec.extractLsb'_toNat, Nat.shiftRight_eq_div_pow]

theorem wd_toNat {k : ℕ} (x : BitVec k) : wd x.toNat = x.setWidth 64 := BitVec.ofNat_toNat 64 x

theorem sext_toNat {k : ℕ} (x : BitVec k) (hk : 0 < k) : sext k x.toNat = x.toInt := by
  have hmod : (x.toNat : ℤ) % 2 ^ k = x.toNat := mod_cast Nat.mod_eq_of_lt x.isLt
  have hpow : 2 * 2 ^ (k - 1) = 2 ^ k := mul_pow_sub_one hk.ne' 2
  have hhalf : 2 * x.toNat < 2 ^ k ↔ x.toNat < 2 ^ (k - 1) := by omega
  rw [sext, BitVec.toInt_eq_toNat_cond, Nat.mod_eq_of_lt x.isLt, hmod]
  simp only [hhalf, Nat.cast_pow, Nat.cast_ofNat]

/-- The word cut at `lo` and at the end of the field, with the new field between the two cuts. -/
theorem toNat_replace_bits {w : ℕ} (v : BitVec w) (hi lo n : ℕ) :
    v.toNat - bits v hi lo * 2 ^ lo + n % 2 ^ (hi + 1 - lo) * 2 ^ lo =
      2 ^ lo * (2 ^ (hi + 1 - lo) * (v.toNat / 2 ^ lo / 2 ^ (hi + 1 - lo)) + n % 2 ^ (hi + 1 - lo)) + v.toNat % 2 ^ lo := by
  rw [bits]
  generalize hi + 1 - lo = k
  have hlow : 2 ^ lo * (v.toNat / 2 ^ lo) + v.toNat % 2 ^ lo = v.toNat := Nat.div_add_mod _ _
  have hfield : 2 ^ lo * (v.toNat / 2 ^ lo) =
      2 ^ lo * (2 ^ k * (v.toNat / 2 ^ lo / 2 ^ k)) + v.toNat / 2 ^ lo % 2 ^ k * 2 ^ lo := by
    rw [mul_comm _ (2 ^ lo), ← mul_add, Nat.div_add_mod]
  rw [mul_add, mul_comm (n % 2 ^ k)]
  omega

theorem getLsbD_setBits {w : ℕ} (v : BitVec w) (hi lo n : ℕ) {i : ℕ} (hiw : i < w) :
    (setBits v hi lo n).getLsbD i = if lo ≤ i ∧ i ≤ hi then n.testBit (i - lo) else v.getLsbD i := by
  have hcut : v.toNat % 2 ^ lo < 2 ^ lo := Nat.mod_lt _ (by positivity)
  have hfield : n % 2 ^ (hi + 1 - lo) < 2 ^ (hi + 1 - lo) := Nat.mod_lt _ (by positivity)
  rw [setBits, toNat_replace_bits, BitVec.getLsbD_ofNat, Nat.testBit_two_pow_mul_add _ hcut,
    Nat.testBit_two_pow_mul_add _ hfield]
  simp only [Nat.testBit_mod_two_pow, Nat.testBit_div_two_pow, BitVec.testBit_toNat, hiw, decide_true, Bool.true_and]
  by_cases hlo : i < lo
  · simp [hlo, Nat.not_le.2 hlo]
  · rw [if_neg hlo]
    by_cases hin : i ≤ hi
    · have hk : i - lo < hi + 1 - lo := by omega
      simp [hk, hin, Nat.not_lt.1 hlo]
    · have hk : ¬ i - lo < hi + 1 - lo := by omega
      have hback : i - lo - (hi + 1 - lo) + (hi + 1 - lo) + lo = i := by omega
      simp [hk, hin, hback]

end Sys2Proof.Machine
end

section
/-! SUPPORT. Bit counts of words (R141). -/

namespace Sys2Proof.Machine

theorem clzW_leadingZeros (v : Word) : LeadingZeros v (clzW v) := by
  unfold LeadingZeros clzW
  by_cases hv : v = 0
  · simp [hv]
  · have hne : v.toNat ≠ 0 := fun h => hv (BitVec.eq_of_toNat_eq h)
    have htop : v.toNat.log2 < 64 := (Nat.log2_lt hne).2 v.isLt
    have hcount : (wd (63 - v.toNat.log2)).toNat = 63 - v.toNat.log2 := Nat.mod_eq_of_lt (by omega)
    have hback : 63 - (63 - v.toNat.log2) = v.toNat.log2 := by omega
    rw [if_neg hv, if_neg hv, hcount, hback]
    refine ⟨by omega, Nat.testBit_log2 hne, fun j hj => Nat.testBit_eq_false_of_lt ?_⟩
    exact (Nat.log2_lt hne).1 hj

theorem ctzW_trailingZeros (v : Word) : TrailingZeros v (ctzW v) := by
  unfold TrailingZeros ctzW
  cases hfind : (List.range 64).find? (fun i => v.getLsbD i) with
  | none =>
    have hv : v = 0 := BitVec.eq_of_getLsbD_eq fun i hi => by simpa using List.find?_range_eq_none.1 hfind i hi
    rw [if_pos hv]
    rfl
  | some n =>
    obtain ⟨hbit, hmem, hbelow⟩ := List.find?_range_eq_some.1 hfind
    have hn : n < 64 := List.mem_range.1 hmem
    have hv : v ≠ 0 := by rintro rfl; simp at hbit
    have hcount : (wd n).toNat = n := Nat.mod_eq_of_lt (by omega)
    rw [if_neg hv, Option.getD_some, hcount]
    exact ⟨hn, hbit, fun j hj => by simpa using hbelow j hj⟩

theorem sum_map_toNat_eq_length_filter {α : Type} (p : α → Bool) (l : List α) :
    (l.map (fun a => (p a).toNat)).sum = (l.filter p).length := by
  induction l with
  | nil => rfl
  | cons a l ih => cases hp : p a <;> simp [hp, ih, Nat.add_comm]

theorem popcW_toNat (v : Word) : (popcW v).toNat = ((List.range 64).map (fun i => (v.getLsbD i).toNat)).sum := by
  have hle := List.length_filter_le (fun i => v.getLsbD i) (List.range 64)
  rw [List.length_range] at hle
  rw [sum_map_toNat_eq_length_filter, popcW]
  exact Nat.mod_eq_of_lt (by omega)

end Sys2Proof.Machine
end

section
/-! SUPPORT. Bit fields that a specifier gives (R142). -/

namespace Sys2Proof.Machine

theorem fieldLen_le (spec : Word) : bits spec 5 0 + fieldLen spec ≤ 64 := by
  have hpos : bits spec 5 0 < 2 ^ 6 := Nat.mod_lt _ (by norm_num)
  unfold fieldLen
  omega

theorem bfxBit_eq (v spec : Word) (i : ℕ) : bfxBit v spec i =
    if i < fieldLen spec then v.getLsbD (bits spec 5 0 + i)
    else bit spec 15 && decide (0 < fieldLen spec) && v.getLsbD (bits spec 5 0 + fieldLen spec - 1) := by
  simp only [bfxBit, fieldLen, bits_eq_extractLsb', bit]

theorem bfiBit_eq (v spec d : Word) (i : ℕ) : bfiBit v spec d i =
    if bits spec 5 0 ≤ i ∧ i < bits spec 5 0 + fieldLen spec then v.getLsbD (i - bits spec 5 0) else d.getLsbD i := by
  simp only [bfiBit, fieldLen, bits_eq_extractLsb']

/-- BFX cuts its field out of the value and widens it. -/
theorem bfxW_eq (v spec : Word) : bfxW v spec =
    if fieldLen spec = 0 then 0
    else if bit spec 15 then (v.extractLsb' (bits spec 5 0) (fieldLen spec)).signExtend 64
    else (v.extractLsb' (bits spec 5 0) (fieldLen spec)).setWidth 64 := by
  have hfield : v.toNat / 2 ^ bits spec 5 0 % 2 ^ fieldLen spec = (v.extractLsb' (bits spec 5 0) (fieldLen spec)).toNat := by
    rw [BitVec.extractLsb'_toNat, Nat.shiftRight_eq_div_pow]
  simp only [bfxW, hfield, wd_toNat]
  by_cases hlen : fieldLen spec = 0
  · simp only [hlen, if_true]
  · rw [if_neg hlen, if_neg hlen, sext_toNat _ (Nat.pos_of_ne_zero hlen)]
    rfl

theorem getLsbD_bfxW (v spec : Word) {i : ℕ} (hi : i < 64) : (bfxW v spec).getLsbD i = bfxBit v spec i := by
  rw [bfxW_eq, bfxBit_eq]
  by_cases hlen : fieldLen spec = 0
  · simp [hlen]
  · have hpos : 0 < fieldLen spec := Nat.pos_of_ne_zero hlen
    have htop : bits spec 5 0 + (fieldLen spec - 1) = bits spec 5 0 + fieldLen spec - 1 := by omega
    rw [if_neg hlen]
    cases hsign : bit spec 15 with
    | true =>
      rw [if_pos rfl, BitVec.getLsbD_signExtend, BitVec.msb_eq_getLsbD_last]
      simp +contextual [hi, hpos, htop]
    | false => simp [hi]

theorem getLsbD_bfiW (v spec d : Word) {i : ℕ} (hi : i < 64) : (bfiW v spec d).getLsbD i = bfiBit v spec d i := by
  rw [bfiBit_eq, bfiW]
  by_cases hlen : fieldLen spec = 0
  · rw [if_pos hlen, if_neg (by omega)]
  · have hin : bits spec 5 0 ≤ i ∧ i ≤ bits spec 5 0 + fieldLen spec - 1 ↔
        bits spec 5 0 ≤ i ∧ i < bits spec 5 0 + fieldLen spec := by omega
    rw [if_neg hlen, getLsbD_setBits _ _ _ _ hi]
    simp only [hin, BitVec.testBit_toNat]

/-- Settles O2: each result is the model's own function of the inputs, and these functions count and place bits as R141 and
R142 say. -/
theorem bitCountsAndFields : Obligations.BitCountsAndFields := by
  unfold Obligations.BitCountsAndFields
  exact ⟨⟨clzW, unaryGivesQ_of_exec fun _ _ => rfl, clzW_leadingZeros⟩,
    ⟨ctzW, unaryGivesQ_of_exec fun _ _ => rfl, ctzW_trailingZeros⟩,
    ⟨popcW, unaryGivesQ_of_exec fun _ _ => rfl, popcW_toNat⟩,
    ⟨bfxW, binaryGivesQ_of_exec fun _ _ => rfl, fun v spec _ => getLsbD_bfxW v spec⟩,
    ⟨bfiW, ternaryGivesQ_of_exec fun _ _ => rfl, fun v spec d _ => getLsbD_bfiW v spec d⟩⟩

end Sys2Proof.Machine
end

section
/-! SUPPORT. Vector instructions, run: what they take from VTYPE, their masks, and the elements of their results (R197 to
R199). -/

namespace Sys2Proof.Machine

theorem elemOf_eq_lane (w : Nat) (v : VWord) (i : Nat) : elemOf w v i = lane w v i := by
  rw [elemOf, lane, BitVec.extractLsb'_toNat, Nat.shiftRight_eq_div_pow]

theorem lane_mod (w : Nat) (v : VWord) (i : Nat) : lane w v i % 2 ^ w = lane w v i :=
  Nat.mod_eq_of_lt (BitVec.isLt _)

theorem eight_le_etWidth (et : Nat) : 8 ≤ etWidth et := by
  unfold etWidth
  split <;> omega

/-- A mask has a bit for every element. -/
theorem Ctx.count_le (c : Ctx) : c.count ≤ 128 :=
  Nat.div_le_div_left (eight_le_etWidth c.et) (by decide)

/-- An element is active under all ones exactly below VL. -/
theorem Ctx.active_allOnes {c : Ctx} {j : Nat} (hj : j < c.count) :
    c.active (BitVec.allOnes 128) j = decide (j < c.vl) := by
  have hbit : j < 128 := hj.trans_le c.count_le
  rw [Ctx.active, BitVec.getLsbD_allOnes, decide_eq_true hbit, Bool.and_true]

/-- What a vector instruction takes from VTYPE, by the fields of Table 10.1. -/
def Ctx.vcfg (c : Ctx) : VCfg := ⟨c.et, c.width, c.count, c.vl, c.rm⟩

theorem Ctx.vcfg_elements_le (c : Ctx) : c.vcfg.w * c.vcfg.n ≤ 1024 := Nat.mul_div_le 1024 c.width

theorem vcfg_run (s : State) : vcfg s = .ok s.ctx.vcfg s := by
  simp [vcfg, Ctx.vcfg, Ctx.width, Ctx.count, Ctx.et, Ctx.vl, Ctx.rm, vtET, vtVL, vtRM, bits_eq_extractLsb']

theorem qMask_run {s : State} {o : Ops}
    (h : s.ctx.isFull (80 + (Fin.ofNat 8 (o.q.extractLsb' 0 3).toNat).val) = true) :
    qMask o.q s = .ok ⟨s.ctx.maskOf o true, zeroing o true⟩ s := by
  rw [qMask, bits_eq_extractLsb', M.bind_ok (readM_run h)]
  rfl

/-- Nothing holds a vector result back from a destination that is full and can be written (R25). -/
theorem putV_run {s : State} {a : Fin 16} (k : VCfg) (m : VMask) (f : Nat → Nat)
    (hfull : s.ctx.isFull (64 + a.val) = true) (hw : s.ctx.canWrite (64 + a.val)) :
    putV k m a f s = .ok () (s.setCtx (s.ctx.putV a (mergeV k m (s.ctx.getV a) f))) := by
  simp only [putV, M.bind_ok (needDst_run hw)]
  split
  · rw [M.bind_ok (needFull_run hfull)]; rfl
  · rfl

/-- The elements of a result under the VTYPE of a context. -/
theorem lane_mergeV {c : Ctx} (m : VMask) (old : VWord) (f : Nat → Nat) {j : Nat} (hj : j < c.count) :
    lane c.width (mergeV c.vcfg m old f) j =
      if c.active m.m j then f j % 2 ^ c.width else if m.zero then 0 else lane c.width old j := by
  simp only [← elemOf_eq_lane]
  exact elemOf_mergeV c.vcfg_elements_le m old f hj

/-- A computation that ends with its result put gives the elements of this result. -/
theorem vectorGives_of_run {i : Instr} {p : M Ctl} {s : State} {o : Ops} {m : VMask} {f : Nat → Nat}
    (hexec : exec i s = runM p s)
    (hp : p s = .ok .seq (s.setCtx (s.ctx.putV o.a.v (mergeV s.ctx.vcfg m (s.ctx.getV o.a.v) f)))) :
    VectorGives i s s.ctx o m.m m.zero f :=
  ⟨_, hexec.trans (runM_completes hp), fun _ hj => lane_mergeV m _ f hj⟩

end Sys2Proof.Machine
end

section
/-! SUPPORT. VSEL (R206). -/

namespace Sys2Proof.Machine

/-- The named mask chooses between the sources alone: whether an element is written rests on a mask of all ones. -/
theorem vsel_gives {s : State} {o : Ops} (h : s.ctx.vReady o true [o.b.v, o.cv]) :
    VectorGives (.vsel o) s s.ctx o (BitVec.allOnes 128) (zeroing o true)
      (fun j => lane s.ctx.width (s.ctx.getV (if (s.ctx.maskOf o true).getLsbD j then o.cv else o.b.v)) j) := by
  obtain ⟨hmask, hfull, hw⟩ := h
  refine vectorGives_of_run (m := ⟨BitVec.allOnes 128, zeroing o true⟩) rfl ?_
  rw [M.bind_ok (vcfg_run s), M.bind_ok (qMask_run (hmask rfl)), M.bind_ok (readV_run (hfull o.b.v (by simp))),
    M.bind_ok (readV_run (hfull o.cv (by simp))), M.bind_ok (putV_run _ _ _ (hfull o.a.v (by simp)) hw)]
  simp only [elemOf_eq_lane, apply_ite s.ctx.getV]
  rfl

/-- Settles O24: VSEL puts its choice under a mask of all ones, so an element is active exactly below VL. -/
theorem vectorSelect : Obligations.VectorSelect := by
  unfold Obligations.VectorSelect
  intro s c o hs hready
  obtain rfl := State.ctx_of_slot hs
  obtain ⟨r, hexec, hlane⟩ := vsel_gives hready
  refine ⟨r, hexec, fun j hj => ?_⟩
  rw [hlane j hj, Ctx.active_allOnes hj, lane_mod]
  simp [zeroing]

end Sys2Proof.Machine
end
